-- ==== Sys2Proof/Word.lean ====
section
/-! DEFINITION. The number types of the model and their plainest arithmetic: balanced integers are `Int`, bytes at the
binary shell are `BitVec 8` (spec 00 R3, 01 R12). -/

namespace Sys2Proof

/-- One byte of the binary shell (R35). -/
abbrev Byte := BitVec 8

/-- `(3^k - 1)/2`, the largest value of a field of `k` trits (R3, R12). -/
def half (k : Nat) : Int := (3 ^ k - 1) / 2

/-- The index of one item: `ix`, `iy`, `iz` (R131). -/
structure Item where
  x : Int
  y : Int
  z : Int
  deriving DecidableEq, Repr, Inhabited

/-- The arithmetic flags of R28 that one operation raises. -/
structure Flags where
  overflow : Bool := false
  underflow : Bool := false
  nanLost : Bool := false
  invalid : Bool := false
  deriving DecidableEq, Repr, Inhabited

/-- No flag. -/
def Flags.none : Flags := {}

/-- Flags of two operations together. -/
def Flags.or (a b : Flags) : Flags :=
  { overflow := a.overflow || b.overflow, underflow := a.underflow || b.underflow
    nanLost := a.nanLost || b.nanLost, invalid := a.invalid || b.invalid }

end Sys2Proof
end

