-- ==== Sys2Proof/Machine/Map.lean ====
section
/-! DEFINITION. Sparse tables by number: lists of (key, value) pairs in one canonical form, keys strictly rising and
no entry equal to what an unlisted key reads as. Memory, registers and contexts are all held so. -/

namespace Sys2Proof.Machine

/-- A sparse table: what is not listed reads as a default given at each access. -/
abbrev SMap (α : Type) := List (Nat × α)

/-- Read of one key, `d` where it is not listed. -/
def mget {α : Type} (d : α) : SMap α → Nat → α
  | [], _ => d
  | (j, w) :: t, k => if k = j then w else mget d t k

/-- Removal of a key. -/
def mdel {α : Type} (m : SMap α) (k : Nat) : SMap α := m.filter fun e => e.1 != k

/-- An entry put before the first greater key. -/
def mins {α : Type} : SMap α → Nat → α → SMap α
  | [], k, v => [(k, v)]
  | (j, w) :: t, k, v => if k < j then (k, v) :: (j, w) :: t else (j, w) :: mins t k v

/-- Entry of a key, new or replaced. -/
def mset {α : Type} (m : SMap α) (k : Nat) (v : α) : SMap α := mins (mdel m k) k v

/-- Write of one key, keeping the canonical form: writing the default removes the entry. -/
def mput {α : Type} [DecidableEq α] (d : α) (m : SMap α) (k : Nat) (v : α) : SMap α :=
  if v = d then mdel m k else mset m k v

/-- The canonical form, with every key at least `lo`. -/
def mwfFrom {α : Type} [DecidableEq α] (d : α) : Nat → SMap α → Bool
  | _, [] => true
  | lo, (j, w) :: t => decide (lo ≤ j) && decide (w ≠ d) && mwfFrom d (j + 1) t

/-- The canonical form: keys strictly rising, no entry equal to the default. -/
def mwf {α : Type} [DecidableEq α] (d : α) (m : SMap α) : Bool := mwfFrom d 0 m

/-- The entry of a key, where one is listed: for tables in which an unlisted key holds nothing. -/
def mfind {α : Type} : SMap α → Nat → Option α
  | [], _ => none
  | (j, w) :: t, k => if k = j then some w else mfind t k

/-- Keys strictly rising, each at least `lo`. -/
def msortedFrom {α : Type} : Nat → SMap α → Bool
  | _, [] => true
  | lo, (j, _) :: t => decide (lo ≤ j) && msortedFrom (j + 1) t

/-- The canonical form of a table in which an unlisted key holds nothing: keys strictly rising. -/
def msorted {α : Type} (m : SMap α) : Bool := msortedFrom 0 m

/-- The elements of a list, each once, in the order in which they first appear. -/
def distinct {α : Type} [DecidableEq α] : List α → List α
  | [] => []
  | a :: t => a :: (distinct t).filter fun b => decide (b ≠ a)

end Sys2Proof.Machine
end

