-- ==== Sys2Proof/Machine/Trits.lean ====
section
/-! DEFINITION. The named functions of the spec's pseudocode over balanced integers (00 R9) and the integer operations of
01 R14 to R17. -/

namespace Sys2Proof.Machine

open Sys2Proof

/-- `wrap(n, x)`: the value of `n` trits congruent to `x` modulo `3^n` (R9). -/
def wrap (n : Nat) (x : Int) : Int := (x + half n) % 3 ^ n - half n

/-- `sat(n, x)`: clamped to the range of `n` trits (R9). -/
def sat (n : Nat) (x : Int) : Int := max (-half n) (min (half n) x)

/-- `trunc(n, x)`: the trits below position `n` set to 0 (R9). -/
def trunc (n : Nat) (x : Int) : Int := x - wrap n x

/-- The value above position `n`: `trunc(n, x)/3^n` (R15). -/
def shr (x : Int) (n : Nat) : Int := trunc n x / 3 ^ n

/-- `trits(x, hi, lo)` (R9). -/
def trits (x : Int) (hi lo : Nat) : Int := wrap (hi + 1 - lo) (shr x lo)

/-- Trit `i` of `x`. -/
def trit (x : Int) (i : Nat) : Int := wrap 1 (shr x i)

/-- `x` with the field from trit `hi` to trit `lo` replaced by `v`. -/
def setTrits (x : Int) (hi lo : Nat) (v : Int) : Int := x + (v - trits x hi lo) * 3 ^ lo

/-- `x` fits a field of `n` trits. -/
def fits (n : Nat) (x : Int) : Bool := decide (-half n ≤ x) && decide (x ≤ half n)

/-- Does a word of 27 trits hold `x`? -/
def fits27 (x : Int) : Bool := fits 27 x

/-- The sign of `x`. -/
def sgnv (x : Int) : Int := if x < 0 then -1 else if x = 0 then 0 else 1

/-- A tritwise operation over `n` trit positions (R17). -/
def tritwise (f : Int → Int → Int) : Nat → Int → Int → Int
  | 0, _, _ => 0
  | n + 1, a, b => f (wrap 1 a) (wrap 1 b) + 3 * tritwise f n (shr a 1) (shr b 1)

/-- Tritwise minimum over 27 trits (R17). -/
def tmin (a b : Int) : Int := tritwise min 27 a b
/-- Tritwise maximum over 27 trits (R17). -/
def tmax (a b : Int) : Int := tritwise max 27 a b
/-- Tritwise sum modulo 3 over 27 trits (R17). -/
def tsum (a b : Int) : Int := tritwise (fun x y => wrap 1 (x + y)) 27 a b
/-- Tritwise product over 27 trits (R17). -/
def tmul (a b : Int) : Int := tritwise (fun x y => x * y) 27 a b

/-- The quotient of R16: nearest to `a/b`, a tie leaving a remainder of `a`'s sign, 0 for `b = 0`. -/
def divq (a b : Int) : Int :=
  if b = 0 then 0 else
    let n := a.natAbs
    let m := b.natAbs
    let q := if 2 * (n % m) > m then n / m + 1 else n / m
    sgnv a * sgnv b * (q : Int)

/-- The remainder of R16; `a` for `b = 0`. -/
def remq (a b : Int) : Int := a - divq a b * b

/-- The high product: trits 53 to 27 of `a*b` (R217 `mulh`). -/
def mulh (a b : Int) : Int := (a * b - wrap 27 (a * b)) / 3 ^ 27

/-- `satn` of R217. -/
def satn (a b : Int) : Int := if b ≤ 0 then 0 else if b ≥ 27 then a else sat b.toNat a
/-- `wrapn` of R217. -/
def wrapn (a b : Int) : Int := if b ≤ 0 then 0 else if b ≥ 27 then a else wrap b.toNat a

/-- The trit shift of R15 at width 27; 0 for `|b| ≥ 27` (R218). -/
def shift (a b : Int) : Int :=
  if b ≥ 27 ∨ b ≤ -27 then 0
  else if b ≥ 0 then wrap 27 (a * 3 ^ b.toNat)
  else shr a (-b).toNat

/-- `shs` of R218: a left shift saturates. -/
def shiftSat (a b : Int) : Int :=
  if b ≤ 0 then shift a b
  else if b ≥ 54 then (if a = 0 then 0 else sgnv a * half 27)
  else sat 27 (a * 3 ^ b.toNat)

/-- The nonets of a value, the one of trits 8 to 0 first (R13). -/
def toNonets : Nat → Int → List Int
  | 0, _ => []
  | n + 1, x => wrap 9 x :: toNonets n (shr x 9)

/-- The value of nonets, the first holding trits 8 to 0 (R13). -/
def ofNonets : List Int → Int
  | [] => 0
  | x :: t => x + 19683 * ofNonets t

/-- The trits of a value, trit 0 first. -/
def toTrits : Nat → Int → List Int
  | 0, _ => []
  | n + 1, x => wrap 1 x :: toTrits n (shr x 1)

/-- The value of trits, trit 0 first. -/
def ofTrits : List Int → Int
  | [] => 0
  | t :: r => t + 3 * ofTrits r

/-- One trit per slot: slot `i` in trit `i - base` of a word, + for the slots of `l` from `base` to `base + n - 1` (R316). -/
def slotWord (l : List Nat) (base n : Nat) : Int :=
  ofTrits ((List.range n).map fun i => if l.contains (base + i) then 1 else 0)

end Sys2Proof.Machine
end

