-- ==== Sys2Proof/Machine/Format.lean ====
section
/-! DEFINITION. Floating formats, exact values, rounding and the conversions between ternary formats
(01 R18 to R31). An exact value is `num/den * 3^exp`; nothing is rounded before the one rounding of R26. -/

namespace Sys2Proof.Machine

open Sys2Proof

/-- A floating format: width, exponent trits, offset, special values (R18, R21, R23). -/
structure FFmt where
  w : Nat
  e : Nat
  off : Int
  special : Bool
  deriving DecidableEq, Repr

/-- The named formats of R19. -/
def fmtT9 : FFmt := { w := 9, e := 3, off := -5, special := true }
def fmtT18 : FFmt := { w := 18, e := 5, off := -12, special := true }
def fmtT27 : FFmt := { w := 27, e := 6, off := -20, special := true }
def fmtT54 : FFmt := { w := 54, e := 6, off := -47, special := true }

/-- Trits of the significand. -/
def fmtM (f : FFmt) : Nat := f.w - f.e
/-- The least exponent field (R19). -/
def fmtEmin (f : FFmt) : Int := -half f.e
/-- The largest finite exponent field: the top value is reserved where the format has special values (R19, R21). -/
def fmtEmax (f : FFmt) : Int := if f.special then half f.e - 1 else half f.e

/-- A ternary format of a lane value or an element: integer of some trits, or floating. -/
inductive TFmt
  | int (w : Nat)
  | flt (f : FFmt)
  deriving DecidableEq, Repr

/-- The width of a format. -/
def tfmtWidth : TFmt → Nat
  | .int w => w
  | .flt f => f.w

/-- What an encoding denotes: `m * 3^k`, an infinity, NaN (R18, R21). -/
inductive FVal
  | fin (m : Int) (k : Int)
  | inf (neg : Bool)
  | nan
  deriving DecidableEq, Repr, Inhabited

/-- The value of an encoding (R18, R21). -/
def fdecode (f : FFmt) (x : Int) : FVal :=
  let m := wrap (fmtM f) x
  let e := trits x (f.w - 1) (fmtM f)
  if f.e = 0 then .fin (wrap f.w x) f.off
  else if f.special && e = half f.e then
    if m = 0 then .nan else .inf (decide (m < 0))
  else .fin m (e + f.off)

/-- The encoding with exponent field `e` and significand `m`. -/
def fencode (f : FFmt) (e m : Int) : Int := e * 3 ^ fmtM f + m

/-- +Inf, -Inf and NaN as the device writes them (R21). -/
def fInf (f : FFmt) (neg : Bool) : Int := fencode f (half f.e) (if neg then -1 else 1)
def fNaN (f : FFmt) : Int := fencode f (half f.e) 0

/-- The largest finite magnitude, signed. -/
def fMax (f : FFmt) (neg : Bool) : Int :=
  fencode f (fmtEmax f) (if neg then -half (fmtM f) else half (fmtM f))

/-- The number of trits that write the natural `n` in base 3. -/
def len3Go : Nat → Nat → Nat
  | 0, _ => 0
  | fuel + 1, n => if n = 0 then 0 else len3Go fuel (n / 3) + 1
def len3 (n : Nat) : Nat := len3Go (n.log2 + 1) n

/-- An exact real of the arithmetic: `num/den * 3^exp` with `den > 0`. -/
structure Exact where
  num : Int
  den : Nat := 1
  exp : Int := 0
  deriving DecidableEq, Repr

/-- `|x|/3^k` as a fraction of naturals. -/
def exactAt (x : Exact) (k : Int) : Nat × Nat :=
  if x.exp ≥ k then (x.num.natAbs * 3 ^ (x.exp - k).toNat, x.den)
  else (x.num.natAbs, x.den * 3 ^ (k - x.exp).toNat)

/-- Nearest natural to `n/d`, the smaller of two equally near (R26). -/
def nearDown (n d : Nat) : Nat := if 2 * (n % d) > d then n / d + 1 else n / d

/-- Nearest integer to an exact value, of two equally near the one of smaller magnitude (R26). -/
def exactInt (x : Exact) : Int :=
  let nd := exactAt x 0
  sgnv x.num * (nearDown nd.1 nd.2 : Int)

/-- From scale `k` upward, the first at which `|x|` is no more than half a unit above the largest significand's next:
there the nearest representable value is the nearest multiple of `3^k`, capped at the largest significand (R26). -/
def scaleGo (mmax : Nat) (x : Exact) : Nat → Int → Int
  | 0, k => k
  | fuel + 1, k =>
    let nd := exactAt x k
    if nd.1 ≤ (mmax + 1) * nd.2 then k else scaleGo mmax x fuel (k + 1)

/-- Significand and scale of the representable value nearest to a nonzero exact value (R26). DESIGN CHOICE (log 79): as if the exponent
had no top, so that up to half a unit of the next scale beyond the largest finite magnitude rounds to it (R27); a format without
exponent has no next scale, and there a magnitude that rounds to a larger multiple of the unit lies beyond. -/
def nearest (f : FFmt) (x : Exact) : Int × Int :=
  let mmax := (half (fmtM f)).toNat
  let kmin := fmtEmin f + f.off
  let k0 : Int := (len3 x.num.natAbs : Int) - len3 x.den + x.exp - fmtM f - 2
  let k := scaleGo mmax x 6 (max kmin k0)
  let nd := exactAt x k
  let n := nearDown nd.1 nd.2
  (sgnv x.num * (min n mmax : Nat), if f.e = 0 ∧ mmax < n then k + 1 else k)

/-- Result of rounding into a floating format. -/
structure FRes where
  enc : Int
  fl : Flags := {}
  deriving DecidableEq, Repr

/-- Rounding of a finite exact result by R26, with the overflow result given (R27 case 3 or R31). -/
def froundWith (f : FFmt) (ovf : Bool → Int) (x : Exact) : FRes :=
  if x.num = 0 then { enc := 0 } else
    let mk := nearest f x
    if mk.1 = 0 then { enc := 0, fl := { underflow := true } }
    else if mk.2 - f.off > fmtEmax f then { enc := ovf (decide (x.num < 0)), fl := { overflow := true } }
    else { enc := fencode f (mk.2 - f.off) mk.1 }

/-- The result of a floating operation with a finite exact value (R27 cases 3 to 5). -/
def fround (f : FFmt) (x : Exact) : FRes :=
  froundWith f (fun neg => if f.special then fInf f neg else fMax f neg) x

/-- The invalid result (R27 case 2). -/
def finvalid (f : FFmt) : FRes := { enc := if f.special then fNaN f else 0, fl := { invalid := true } }

/-- The encoding of a value that needs no flag: infinities and NaN of R21, finite values normalised (R20). -/
def fput (f : FFmt) : FVal → FRes
  | .fin m k => fround f { num := m, exp := k }
  | .inf neg => { enc := fInf f neg }
  | .nan => { enc := fNaN f }

/-- Exact sum of two finite values. -/
def addExact (m₁ k₁ m₂ k₂ : Int) : Exact :=
  let k := min k₁ k₂
  { num := m₁ * 3 ^ (k₁ - k).toNat + m₂ * 3 ^ (k₂ - k).toNat, exp := k }

/-- Negation of a value. -/
def fvNeg : FVal → FVal
  | .fin m k => .fin (-m) k
  | .inf neg => .inf (!neg)
  | .nan => .nan

/-- Sum of two values under R27. -/
def faddV (f : FFmt) : FVal → FVal → FRes
  | .nan, _ => { enc := fNaN f }
  | _, .nan => { enc := fNaN f }
  | .inf a, .inf b => if a = b then { enc := fInf f a } else finvalid f
  | .inf a, _ => { enc := fInf f a }
  | _, .inf b => { enc := fInf f b }
  | .fin m₁ k₁, .fin m₂ k₂ => fround f (addExact m₁ k₁ m₂ k₂)

/-- Product of two values, exact or special; `none` is the invalid product of 0 and Inf. -/
def fmulV : FVal → FVal → Option FVal
  | .nan, _ => some .nan
  | _, .nan => some .nan
  | .inf a, .inf b => some (.inf (a != b))
  | .inf a, .fin m _ => if m = 0 then none else some (.inf (a != decide (m < 0)))
  | .fin m _, .inf b => if m = 0 then none else some (.inf (decide (m < 0) != b))
  | .fin m₁ k₁, .fin m₂ k₂ => some (.fin (m₁ * m₂) (k₁ + k₂))

/-- Multiply-add with one rounding: `a*b + c` (R29). -/
def fmaV (f : FFmt) (a b c : FVal) : FRes :=
  if a = .nan ∨ b = .nan ∨ c = .nan then { enc := fNaN f }
  else match fmulV a b with
    | none => finvalid f
    | some p => faddV f p c

/-- Sign of `a - b` for two values that are not NaN (R256 `fcmp`). -/
def fcmpV : FVal → FVal → Int
  | .nan, _ => 0
  | _, .nan => 0
  | .inf a, .inf b => if a = b then 0 else if a then -1 else 1
  | .inf a, _ => if a then -1 else 1
  | _, .inf b => if b then 1 else -1
  | .fin m₁ k₁, .fin m₂ k₂ => sgnv (addExact m₁ k₁ (-m₂) k₂).num

/-- Minimum and maximum of R253: a single NaN is ignored. -/
def fminV : FVal → FVal → FVal
  | .nan, b => b
  | a, .nan => a
  | a, b => if fcmpV a b ≤ 0 then a else b
def fmaxV : FVal → FVal → FVal
  | .nan, b => b
  | a, .nan => a
  | a, b => if fcmpV a b ≥ 0 then a else b

/-- Quotient under R27 and the extra cases of R253. -/
def fdivV (f : FFmt) : FVal → FVal → FRes
  | .nan, _ => { enc := fNaN f }
  | _, .nan => { enc := fNaN f }
  | .inf _, .inf _ => finvalid f
  | .inf a, .fin m _ => { enc := fInf f (a != decide (m < 0)) }
  | .fin _ _, .inf _ => { enc := 0 }
  | .fin m₁ k₁, .fin m₂ k₂ =>
    if m₂ = 0 then
      if m₁ = 0 then finvalid f else { enc := fInf f (decide (m₁ < 0)), fl := { overflow := true } }
    else fround f { num := m₁ * sgnv m₂, den := m₂.natAbs, exp := k₁ - k₂ }

/-- Floor of the square root. -/
def isqrtGo : Nat → Nat → Nat
  | 0, _ => 0
  | fuel + 1, n =>
    let r := 2 * isqrtGo fuel (n / 4)
    if (r + 1) * (r + 1) ≤ n then r + 1 else r
def isqrt (n : Nat) : Nat := isqrtGo (n.log2 / 2 + 1) n

/-- Nearest natural to `sqrt(n/d)`, ties to the smaller (R26). -/
def sqrtNear (n d : Nat) : Nat :=
  let q := isqrt (n / d)
  if (2 * q + 1) * (2 * q + 1) * d < 4 * n then q + 1 else q

/-- From scale `k` upward, the first at which `sqrt |x|` is at most `(mmax + 1) * 3^k`. -/
def sqrtScaleGo (mmax : Nat) (x : Exact) : Nat → Int → Int
  | 0, k => k
  | fuel + 1, k =>
    let nd := exactAt x (2 * k)
    if nd.1 ≤ (mmax + 1) * (mmax + 1) * nd.2 then k else sqrtScaleGo mmax x fuel (k + 1)

/-- The square root of a positive exact value, rounded by R26. -/
def sqrtExact (f : FFmt) (x : Exact) : FRes :=
  let mmax := (half (fmtM f)).toNat
  let kmin := fmtEmin f + f.off
  let k0 : Int := ((len3 x.num.natAbs : Int) - len3 x.den + x.exp) / 2 - fmtM f - 2
  let k := sqrtScaleGo mmax x 8 (max kmin k0)
  let nd := exactAt x (2 * k)
  let m := min (sqrtNear nd.1 nd.2) mmax
  if m = 0 then { enc := 0, fl := { underflow := true } }
  else if k - f.off > fmtEmax f then { enc := fInf f false, fl := { overflow := true } }
  else { enc := fencode f (k - f.off) m }

/-- Square root under R27 and R253. -/
def fsqrtV (f : FFmt) : FVal → FRes
  | .nan => { enc := fNaN f }
  | .inf neg => if neg then finvalid f else { enc := fInf f false }
  | .fin m k => if m = 0 then { enc := 0 } else if m < 0 then finvalid f else sqrtExact f { num := m, exp := k }

/-- Nearest integer as a floating value (R253 `fint`). DESIGN CHOICE (log 91): a value that is not 0 and whose nearest integer is 0
raises underflow; the exact result that R27 tests is taken to be the operand. -/
def fintV (f : FFmt) : FVal → FRes
  | .fin m k =>
    let n := exactInt { num := m, exp := k }
    if n = 0 ∧ m ≠ 0 then { enc := 0, fl := { underflow := true } } else fround f { num := n }
  | v => fput f v

/-- `a * 3^b` (R253 `fscl`); beyond 4000 every scale gives the same result. -/
def fsclV (f : FFmt) (a : FVal) (b : Int) : FRes :=
  match a with
  | .fin m k => if m = 0 then { enc := 0 } else fround f { num := m, exp := k + max (-4000) (min 4000 b) }
  | v => fput f v

/-- An encoding of a format read as a value. -/
def tdecode : TFmt → Int → FVal
  | .int w, x => .fin (wrap w x) 0
  | .flt f, x => fdecode f (wrap f.w x)

/-- Conversion of a value into a ternary format (R31). -/
def convert (t : TFmt) (v : FVal) : FRes :=
  match t, v with
  | .int w, .fin m k =>
    let n := exactInt { num := m, exp := k }
    if n > half w then { enc := half w, fl := { overflow := true } }
    else if n < -half w then { enc := -half w, fl := { overflow := true } }
    else { enc := n, fl := { underflow := decide (n = 0) && decide (m ≠ 0) } }
  | .int w, .inf neg => { enc := if neg then -half w else half w, fl := { overflow := true } }
  | .int _, .nan => { enc := 0, fl := { nanLost := true } }
  | .flt f, .fin m k => froundWith f (fMax f) { num := m, exp := k }
  | .flt f, .inf neg =>
    if f.special then { enc := fInf f neg } else { enc := fMax f neg, fl := { overflow := true } }
  | .flt f, .nan => if f.special then { enc := fNaN f } else { enc := 0, fl := { nanLost := true } }

/-- The F-format of a format register's contents; `none` where they are invalid (R23, R24). -/
def ffmtOf (x : Int) : Option FFmt :=
  let w := trits x 11 9
  let e := trits x 8 6
  let off := trits x 5 1
  let sp := trits x 0 0
  if trits x 26 12 ≠ 0 ∨ w < 2 ∨ w > 6 ∨ e < 0 ∨ e > w - 1 ∨ sp = -1 ∨ (e = 0 ∧ sp ≠ 0) then none
  else some { w := w.toNat, e := e.toNat, off := off, special := decide (sp = 1) }

end Sys2Proof.Machine
end

