-- ==== Sys2Proof/Syntax.lean ====
section
/-! DEFINITION. The instructions of the opcode table as data: one constructor for each row, with its decoded operands. -/

namespace Sys2Proof

/-- A source operand (R201): a register of the space its field names, a member of the shared space, an immediate. -/
inductive Opd
  | reg (i : Nat)
  | shared (i : Nat)
  | imm (v : Int)
  deriving DecidableEq, Repr

/-- A destination that may write a latch (R203): a register, with the latches or without, or the latches alone. -/
inductive Dst
  | reg (i : Nat) (latch : Bool)
  | latchOnly
  deriving DecidableEq, Repr

/-- A destination of the scalar `mov` (R219): an `s` register or a latch, a mask register, a format register. -/
inductive MovDst
  | s (d : Dst)
  | k (i : Nat)
  | fm (i : Nat)
  deriving DecidableEq, Repr

/-- A message between dies: the fields of its header (R342), its address as the number of its line, and its block where it carries
one. -/
structure Msg where
  src : Nat
  dst : Nat
  tag : Nat
  blocks : List Nat := []
  poison : Bool := false
  key : Nat := 0
  errCode : Nat := 0
  errCause : Nat := 0
  line : Int := 0
  block : Option (List Int) := none
  deriving DecidableEq, Repr, Inhabited

/-- What bring-up finds (R352, R353, R355, R356, R358): which of the four images carry a valid signature, the versions they carry,
whether HD-A and HD-B work; the routers, the clusters that pass and the stacks' lines by number; the generations at the two ends of
each link; the bytes of the LPDDR6 behind each host die, and of the expanders on each one's ports. -/
structure BringUp where
  images : List Bool
  versions : List Nat := []
  hdA : Bool := true
  hdB : Bool := true
  routers : List Bool
  clusters : List (List Nat)
  sbs : List Int
  gens : List (Nat × Nat)
  lpddr : List Nat := []
  expanders : List (List Nat) := []
  deriving DecidableEq, Repr, Inhabited

/-- A named register of a context. -/
inductive Reg
  | v (i : Nat)
  | s (i : Nat)
  | a (i : Nat)
  | k (i : Nat)
  | fm (i : Nat)
  deriving DecidableEq, Repr

/-- The events of the other agents, as the agenda holds them: the same names and operands as the rows 221 to 327 of `Instr`, and the steps of the plinth, which have no row. -/
inductive Event
  | issueChoice (core : Nat)
  | valueLanding (core ctx id : Nat)
  | itemMove (core ctx slot : Nat)
  | formerGroupIssue (core build : Nat)
  | formerIssueTimeout (core build : Nat)
  | teamCast (core entry : Nat)
  | rangeMerge (core family : Nat)
  | teamDissolve (team : Nat)
  | drainingEnd (core ctx : Nat)
  | teamRetire (team : Nat)
  | launchCommand (q : Nat)
  | abort (q : Nat)
  | noOperation (q : Nat)
  | doorbell (q : Nat) (v : Int)
  | hqCtlWrite (q : Nat) (v : Int)
  | hqPtailWrite (q : Nat) (v : Int)
  | completionRecordWrite (q : Nat)
  | eventRecordWrite
  | launchStart (lid : Nat)
  | coResidencyCast (lid : Nat)
  | launchComplete (lid : Nat)
  | workPacket (die : Nat)
  | mboxPacketArrival (die : Nat)
  | leaveGrant (die : Nat)
  | timeSliceExpiry (die lid : Nat)
  | shareSave (die lid : Nat)
  | shareRestore (die lid : Nat)
  | shadowSwap (core : Nat)
  | shadowSwapBack (core : Nat)
  | pageTableWalk (die walk : Nat)
  | invalidationByRange (agent req : Nat)
  | drainedReport (agent req : Nat)
  | bkModeloWrite (core : Nat) (hi : Bool) (v : Int)
  | bankConversion (core bank : Nat)
  | waitingLoadRetry (core ctx : Nat)
  | fifoPushEntry (cluster bank : Nat)
  | fifoPopRemove (cluster bank : Nat)
  | scrubAtom (st : Nat)
  | scrubLevelChange (st : Nat)
  | scrubPeriodEnd (st : Nat)
  | scCtlWrite (st : Nat) (v : Int)
  | scStatusWrite (st : Nat) (v : Int)
  | retraining (st ch : Nat)
  | forcedRetraining (st ch : Nat)
  | miItabWrite (j : Nat) (v : Int)
  | miCtlLock (v : Int)
  | queryAccept (query : Nat)
  | expansion (query : Nat)
  | searchProbe (query node : Nat)
  | queryCompletion (query : Nat)
  | matrixPass (op : Nat)
  | drain (op : Nat)
  | blockCopy (op : Nat)
  | copyIntoRegisters (op : Nat)
  | trapEntry (core ctx : Nat)
  | rollback (core ctx : Nat) (reg : Option Reg)
  | halt (core ctx : Nat)
  | resume (core ctx : Nat)
  | step (core ctx : Nat)
  | readVectorLane (core ctx lane reg : Nat)
  | readScalar (core ctx reg : Nat)
  | readState (core ctx : Nat)
  | friezeSample (core : Nat)
  | causalTrialStart (die : Nat) (v : Int)
  | causalTrialEnd (die : Nat)
  | ckLoRead (core ctx : Nat)
  | systemRegisterWrite (core ctx : Nat) (n v : Int)
  | hostWrite (addr : Nat) (l : List Nat)
  | hostRead (addr : Nat)
  | peerAccess (port : Nat) (block : Int) (w : List (Nat × Int))
  | peerNegotiation (port gen : Nat) (base count outBase outCount : Int)
  | windowRegisterWrite (r v : Nat)
  | flitReceive (tail : Nat) (l : List Nat) (ok : Bool)
  | replay (tail good : Nat)
  | linkTraining (link ga gb : Nat)
  | widthReduction (die : Nat)
  | frequencyChange (die : Nat)
  | readShared (m : Msg)
  | readOwned (m : Msg)
  | upgrade (m : Msg)
  | writeBack (m : Msg)
  | partialWrite (m : Msg)
  | atomicRequest (m : Msg)
  | evictionNotice (m : Msg)
  | invalidate (m : Msg)
  | downgrade (m : Msg)
  | fetchAndInvalidate (m : Msg)
  | data (m : Msg)
  | acknowledge (m : Msg)
  | dataDirty (m : Msg)
  | acknowledgeAlreadyWrittenBack (m : Msg)
  | errorResponse (m : Msg)
  | mailboxPacket (m : Msg)
  | linkManagement (m : Msg)
  | generation
  | loadKeySlot
  | clearKeySlot
  | operatingPoint
  | quote
  | dieMap
  | imageUpload
  | transportKey
  | powerOn (b : BringUp)
  | packageReset
  | malformedCommand (q : Nat)
  | lgBudgetWrite (die : Nat) (v : Int)
  | peerPortDown (port : Nat)
  /-- A piece of a launch on a die has ended, and is reported (R162, R175). -/
  | pieceEnd (die lid : Nat)
  /-- The plinth of a die acts on its mailbox and its offers (R177, R178). -/
  | plinth (die : Nat)
  /-- A core's combining buffer sends an entry for its own reasons (R110). -/
  | combSend (core i : Nat)
  /-- A symbol of an atom changes in its memory device (R86). -/
  | memError (block : Int) (sym change : Nat)
  /-- A nonet of cluster SRAM fails its check (R87). -/
  | bankError (cluster bank nonet : Nat)
  /-- A register of a range fails its check (R322). -/
  | rangeError (core entry : Nat)
  /-- The host changes a byte of its own memory. -/
  | hostMemory (addr : Nat) (b : Byte)
  /-- The lane errors of a module of a die's link exceed what its spares repair (R347). -/
  | linkFault (die link m : Nat)
  /-- A flit on its way to an end of a link is damaged (R343). -/
  | flitError (tail : Nat)
  /-- A message of class 3 arrives: an invalidation by range, a drained report, a search probe (R344). -/
  | invalMessage (m : Msg)
  | drainedMessage (m : Msg)
  | probeMessage (m : Msg)
  /-- A cycle of a stack base die (R10, R90). -/
  | baseCycle (st : Nat)
  /-- A cell of a cached line fails: in the die cache of die `h`, or in the slice of stack `h - 9`; `fixed` where the code corrects it
  (R87). -/
  | cacheError (h line : Nat) (fixed : Bool)
  /-- An expander reports an error of an atom, as poison or as uncorrectable (R83). -/
  | deviceReport (block : Int)
  /-- The host port reads or writes device memory (R109). -/
  | hostDevice (block : Int) (key : Nat) (binary : Bool) (w : List (Nat × Int))
  /-- The host reads a window register; it takes a signalled vector (R363). -/
  | windowRegisterRead (r : Nat)
  | vectorTaken (v : Nat)
  deriving DecidableEq, Repr, Inhabited

/-- The instructions of a bundle (rows 0 to 220 of the opcode table) and the events of the other agents (rows 221 to 327). -/
inductive Instr
  /-- R217. -/
  | nopScalar
  /-- R217. -/
  | addScalar (d : Dst) (a b : Opd)
  /-- R217. -/
  | subScalar (d : Dst) (a b : Opd)
  /-- R217. -/
  | mulScalar (d : Dst) (a b : Opd)
  /-- R217. -/
  | mulhScalar (d : Dst) (a b : Opd)
  /-- R217. -/
  | divScalar (d : Dst) (a b : Opd)
  /-- R217. -/
  | remScalar (d : Dst) (a b : Opd)
  /-- R217. -/
  | addsScalar (d : Dst) (a b : Opd)
  /-- R217. -/
  | subsScalar (d : Dst) (a b : Opd)
  /-- R217. -/
  | mulsScalar (d : Dst) (a b : Opd)
  /-- R217. -/
  | minScalar (d : Dst) (a b : Opd)
  /-- R217. -/
  | maxScalar (d : Dst) (a b : Opd)
  /-- R217. -/
  | satnScalar (d : Dst) (a b : Opd)
  /-- R217. -/
  | wrapnScalar (d : Dst) (a b : Opd)
  /-- R217. -/
  | tminScalar (d : Dst) (a b : Opd)
  /-- R217. -/
  | tmaxScalar (d : Dst) (a b : Opd)
  /-- R217. -/
  | negScalar (d : Dst) (a : Opd)
  /-- R217. -/
  | tsumScalar (d : Dst) (a b : Opd)
  /-- R217. -/
  | tmulScalar (d : Dst) (a b : Opd)
  /-- R217. -/
  | absScalar (d : Dst) (a : Opd)
  /-- R218. -/
  | shScalar (d : Dst) (a b : Opd)
  /-- R218. -/
  | shsScalar (d : Dst) (a b : Opd)
  /-- R219. -/
  | movScalar (d : MovDst) (a : Opd)
  /-- R218. -/
  | cmpScalar (d : Dst) (a b : Opd)
  /-- R220. -/
  | ext (d : Dst) (a : Int)
  /-- R221. -/
  | li (d : Dst) (m : Int)
  /-- R221. -/
  | liv (d : Dst) (m : Int)
  /-- R221. -/
  | armx (d : Dst) (m : Int)
  /-- R221. -/
  | army (d : Dst) (m : Int)
  /-- R221. -/
  | armz (d : Dst) (m : Int)
  /-- R221. -/
  | ali (d : Nat) (m : Int)
  /-- R222. -/
  | amov (d a : Nat)
  /-- R222. -/
  | aadv (d : Nat) (b : Opd)
  /-- R222. -/
  | awin (d : Nat) (a b : Opd)
  /-- R222. -/
  | aperm (d : Nat) (a : Opd)
  /-- R223. -/
  | aget (d : Dst) (a : Nat) (b : Int)
  /-- R222. -/
  | acat (d : Nat) (a b : Opd)
  /-- R227. -/
  | br (b : Int)
  /-- R228. -/
  | loop (d : Nat) (b : Int)
  /-- R229. -/
  | ret (a : Nat)
  /-- R231. -/
  | cut (d a : Nat)
  /-- R232. -/
  | join
  /-- R232. -/
  | joinD (a : Opd)
  /-- R233. -/
  | exit
  /-- R234. -/
  | yield
  /-- R235. -/
  | region
  /-- R234. -/
  | safe
  /-- R230. -/
  | br3 (c : Nat) (tn tz tp : Int)
  /-- R230. -/
  | br3s (c : Nat) (tn tz tp : Int)
  /-- R229. -/
  | jmp (tz : Int)
  /-- R229. -/
  | call (c : Nat) (tz : Int)
  /-- R237. -/
  | srd (d : Dst) (a : Opd)
  /-- R237. -/
  | swr (a b : Opd)
  /-- R239. -/
  | trap (a : Opd)
  /-- R240. -/
  | rft
  /-- R241. -/
  | bkpt (a : Int)
  /-- R242. -/
  | inval (d a : Nat) (b : Int)
  /-- R243. -/
  | bkmode (a b : Opd)
  /-- R244. -/
  | launch (d a : Nat)
  /-- R245. -/
  | mbox (d a : Nat)
  /-- R246. -/
  | share (d a : Nat) (b : Opd)
  /-- R247. -/
  | pcomp (a : Nat) (b : Opd)
  /-- R247. -/
  | tcbsig (a : Nat)
  /-- R248. -/
  | prog (a : Opd)
  /-- R251. -/
  | nopVector
  /-- R251. -/
  | addVector (d : Dst) (a b : Opd)
  /-- R251. -/
  | subVector (d : Dst) (a b : Opd)
  /-- R251. -/
  | mulVector (d : Dst) (a b : Opd)
  /-- R251. -/
  | mulhVector (d : Dst) (a b : Opd)
  /-- R251. -/
  | divVector (d : Dst) (a b : Opd)
  /-- R251. -/
  | remVector (d : Dst) (a b : Opd)
  /-- R251. -/
  | addsVector (d : Dst) (a b : Opd)
  /-- R251. -/
  | subsVector (d : Dst) (a b : Opd)
  /-- R251. -/
  | mulsVector (d : Dst) (a b : Opd)
  /-- R251. -/
  | minVector (d : Dst) (a b : Opd)
  /-- R251. -/
  | maxVector (d : Dst) (a b : Opd)
  /-- R251. -/
  | satnVector (d : Dst) (a b : Opd)
  /-- R251. -/
  | wrapnVector (d : Dst) (a b : Opd)
  /-- R251. -/
  | tminVector (d : Dst) (a b : Opd)
  /-- R251. -/
  | tmaxVector (d : Dst) (a b : Opd)
  /-- R251. -/
  | negVector (d : Dst) (a : Opd)
  /-- R251. -/
  | tsumVector (d : Dst) (a b : Opd)
  /-- R251. -/
  | tmulVector (d : Dst) (a b : Opd)
  /-- R251. -/
  | absVector (d : Dst) (a : Opd)
  /-- R251. -/
  | shVector (d : Dst) (a b : Opd)
  /-- R251. -/
  | shsVector (d : Dst) (a b : Opd)
  /-- R251. -/
  | movVector (d : Dst) (a : Opd)
  /-- R251. -/
  | sgn (d : Dst) (a : Opd)
  /-- R253. -/
  | fadd (d : Dst) (a b : Opd)
  /-- R253. -/
  | fsub (d : Dst) (a b : Opd)
  /-- R253. -/
  | fmul (d : Dst) (a b : Opd)
  /-- R253. -/
  | fdiv (d : Dst) (a b : Opd)
  /-- R253. -/
  | fsqrt (d : Dst) (a : Opd)
  /-- R253. -/
  | fmin (d : Dst) (a b : Opd)
  /-- R253. -/
  | fmax (d : Dst) (a b : Opd)
  /-- R253. -/
  | fneg (d : Dst) (a : Opd)
  /-- R253. -/
  | fabs (d : Dst) (a : Opd)
  /-- R253. -/
  | fscl (d : Dst) (a b : Opd)
  /-- R253. -/
  | fint (d : Dst) (a : Opd)
  /-- R254. -/
  | fexp (d : Dst) (a : Opd)
  /-- R254. -/
  | fexp3 (d : Dst) (a : Opd)
  /-- R254. -/
  | flog (d : Dst) (a : Opd)
  /-- R254. -/
  | flog3 (d : Dst) (a : Opd)
  /-- R254. -/
  | frcp (d : Dst) (a : Opd)
  /-- R254. -/
  | frsqrt (d : Dst) (a : Opd)
  /-- R254. -/
  | fsin (d : Dst) (a : Opd)
  /-- R254. -/
  | fcos (d : Dst) (a : Opd)
  /-- R254. -/
  | ftanh (d : Dst) (a : Opd)
  /-- R255. -/
  | fma (d : Dst) (a b c : Opd)
  /-- R255. -/
  | fms (d : Dst) (a b c : Opd)
  /-- R255. -/
  | fnma (d : Dst) (a b c : Opd)
  /-- R255. -/
  | mad (d : Dst) (a b c : Opd)
  /-- R255. -/
  | mads (d : Dst) (a b c : Opd)
  /-- R255. -/
  | sel3 (d : Dst) (a b c : Opd) (x : Nat)
  /-- R255. -/
  | clamp (d : Dst) (a b c : Opd)
  /-- R255. -/
  | fclamp (d : Dst) (a b c : Opd)
  /-- R256. -/
  | cmpVector (d : Nat) (a b : Opd)
  /-- R256. -/
  | fcmp (d : Nat) (a b : Opd)
  /-- R256. -/
  | fcls (d : Nat) (a : Opd)
  /-- R256. -/
  | sgnMask (d : Nat) (a : Opd)
  /-- R256. -/
  | kmin (d a b : Nat)
  /-- R256. -/
  | kmax (d a b : Nat)
  /-- R256. -/
  | kneg (d a : Nat)
  /-- R256. -/
  | ksum (d a b : Nat)
  /-- R256. -/
  | kmul (d a b : Nat)
  /-- R256. -/
  | kval (d a : Nat)
  /-- R258. -/
  | cvt (d : Dst) (a : Opd) (b : Int)
  /-- R260. -/
  | frombin (d : Dst) (a : Opd) (b : Int)
  /-- R260. -/
  | tobin (d : Dst) (a : Opd) (b : Int)
  /-- R262. -/
  | rot (d : Dst) (a b : Opd)
  /-- R262. -/
  | slide (d : Dst) (a b : Opd)
  /-- R262. -/
  | shfl (d : Dst) (a b : Opd)
  /-- R262. -/
  | bcast (d : Dst) (a b : Opd)
  /-- R263. -/
  | radd (d : Dst) (a : Opd)
  /-- R263. -/
  | radds (d : Dst) (a : Opd)
  /-- R263. -/
  | rmin (d : Dst) (a : Opd)
  /-- R263. -/
  | rmax (d : Dst) (a : Opd)
  /-- R263. -/
  | rfadd (d : Dst) (a : Opd)
  /-- R263. -/
  | rfmin (d : Dst) (a : Opd)
  /-- R263. -/
  | rfmax (d : Dst) (a : Opd)
  /-- R263. -/
  | kcnt (d : Dst) (a : Nat) (b : Int)
  /-- R263. -/
  | kfirst (d : Dst) (a : Nat)
  /-- R263. -/
  | sadd (d : Dst) (a : Opd)
  /-- R263. -/
  | sadds (d : Dst) (a : Opd)
  /-- R263. -/
  | smin (d : Dst) (a : Opd)
  /-- R263. -/
  | smax (d : Dst) (a : Opd)
  /-- R263. -/
  | sfadd (d : Dst) (a : Opd)
  /-- R267. -/
  | ld9 (d a : Nat) (b : Opd)
  /-- R267. -/
  | ld27 (d a : Nat) (b : Opd)
  /-- R267. -/
  | ldb8 (d a : Nat) (b : Opd)
  /-- R267. -/
  | ldb16 (d a : Nat) (b : Opd)
  /-- R267. -/
  | ldb32 (d a : Nat) (b : Opd)
  /-- R269. -/
  | ldw9 (d a : Nat) (b : Opd)
  /-- R269. -/
  | ldw27 (d a : Nat) (b : Opd)
  /-- R270. -/
  | lds27 (d a : Nat) (b : Opd)
  /-- R267. -/
  | st9 (d a : Nat) (b : Opd)
  /-- R267. -/
  | st27 (d a : Nat) (b : Opd)
  /-- R267. -/
  | stb8 (d a : Nat) (b : Opd)
  /-- R267. -/
  | stb16 (d a : Nat) (b : Opd)
  /-- R267. -/
  | stb32 (d a : Nat) (b : Opd)
  /-- R272. -/
  | stnt9 (d a : Nat) (b : Opd)
  /-- R272. -/
  | stnt27 (d a : Nat) (b : Opd)
  /-- R270. -/
  | sts27 (d a : Nat) (b : Opd)
  /-- R273. -/
  | pf (a : Nat) (b : Opd)
  /-- R278. -/
  | fenceAcq (a b : Int)
  /-- R278. -/
  | fenceRel (a b : Int)
  /-- R278. -/
  | fenceFull (a b : Int)
  /-- R278. -/
  | fenceSc (a b : Int)
  /-- R271. -/
  | lds54 (d a : Nat) (b : Opd)
  /-- R271. -/
  | sts54 (d a : Nat) (b : Opd)
  /-- R271. -/
  | ldsp (d a : Nat) (b : Opd)
  /-- R271. -/
  | stsp (d a : Nat) (b : Opd)
  /-- R268. -/
  | ldx9 (d : Nat) (a : Opd) (x : Nat) (e : Int)
  /-- R268. -/
  | ldx27 (d : Nat) (a : Opd) (x : Nat) (e : Int)
  /-- R268. -/
  | ldxb8 (d : Nat) (a : Opd) (x : Nat) (e : Int)
  /-- R268. -/
  | ldxb16 (d : Nat) (a : Opd) (x : Nat) (e : Int)
  /-- R268. -/
  | ldxb32 (d : Nat) (a : Opd) (x : Nat) (e : Int)
  /-- R266. -/
  | ldpk (d : Nat) (a : Opd) (c : Int) (x : Nat) (e : Int)
  /-- R269. -/
  | ldwx9 (d : Nat) (a : Opd) (c : Int) (x : Nat) (e : Int)
  /-- R269. -/
  | ldwx27 (d : Nat) (a : Opd) (c : Int) (x : Nat) (e : Int)
  /-- R275. -/
  | ld27Rlx (d : Nat) (a : Opd) (c : Int) (x : Nat) (e : Int)
  /-- R275. -/
  | ld27Acq (d : Nat) (a : Opd) (c : Int) (x : Nat) (e : Int)
  /-- R268. -/
  | stx9 (a b : Opd) (x : Nat) (e : Int)
  /-- R268. -/
  | stx27 (a b : Opd) (x : Nat) (e : Int)
  /-- R268. -/
  | stxb8 (a b : Opd) (x : Nat) (e : Int)
  /-- R268. -/
  | stxb16 (a b : Opd) (x : Nat) (e : Int)
  /-- R268. -/
  | stxb32 (a b : Opd) (x : Nat) (e : Int)
  /-- R266. -/
  | stpk (a b : Opd) (c : Int) (x : Nat) (e : Int)
  /-- R275. -/
  | st27Rlx (a b : Opd) (c : Int) (x : Nat) (e : Int)
  /-- R275. -/
  | st27Rel (a b : Opd) (c : Int) (x : Nat) (e : Int)
  /-- R276. -/
  | atmAdd (d : Nat) (a b : Opd) (c : Int) (x : Nat) (e : Int)
  /-- R276. -/
  | atmAdds (d : Nat) (a b : Opd) (c : Int) (x : Nat) (e : Int)
  /-- R276. -/
  | atmMin (d : Nat) (a b : Opd) (c : Int) (x : Nat) (e : Int)
  /-- R276. -/
  | atmMax (d : Nat) (a b : Opd) (c : Int) (x : Nat) (e : Int)
  /-- R276. -/
  | atmTmin (d : Nat) (a b : Opd) (c : Int) (x : Nat) (e : Int)
  /-- R276. -/
  | atmTmax (d : Nat) (a b : Opd) (c : Int) (x : Nat) (e : Int)
  /-- R276. -/
  | atmSwap (d : Nat) (a b : Opd) (c : Int) (x : Nat) (e : Int)
  /-- R276. -/
  | atmCas (d : Nat) (a b : Opd) (c : Int) (x : Nat) (e : Int)
  /-- R276. -/
  | atmFadd (d : Nat) (a b : Opd) (c : Int) (x : Nat) (e : Int)
  /-- R290. -/
  | mpass (d : Option Nat) (a b : Nat)
  /-- R290. -/
  | mpassx (d : Option Nat) (a x : Nat) (e : Int)
  /-- R291. -/
  | mdrain (d : Option Nat) (a b : Nat)
  /-- R291. -/
  | mdrainx (d : Option Nat) (a x : Nat) (e : Int)
  /-- R293. -/
  | mzero (a : Nat) (b : Int)
  /-- R294. -/
  | mpin (d : Option Nat) (a : Nat)
  /-- R294. -/
  | munpin (a : Nat)
  /-- R297. -/
  | cpy (d : Option Nat) (a : Nat)
  /-- R297. -/
  | cpyx (d : Option Nat) (x : Nat) (e : Int)
  /-- R302. -/
  | nbinit (a : Nat) (b : Opd)
  /-- R303. -/
  | nbarr (d : Option Nat) (a : Nat) (b : Opd)
  /-- R303. -/
  | nbarrx (d : Option Nat) (a : Nat) (b : Opd) (c : Int)
  /-- R304. -/
  | nbwait (a : Nat) (b : Opd)
  /-- R304. -/
  | nbwaitx (a : Nat) (b : Opd) (c : Int)
  /-- R301. -/
  | nbget (d a : Nat)
  /-- R306. -/
  | fpush (a : Opd) (b : Nat)
  /-- R307. -/
  | fpop (d : Nat) (a : Opd)
  /-- R309. -/
  | pclr (a : Nat) (b : Opd)
  /-- R310. -/
  | qpost (d : Option Nat) (a : Nat)
  /-- R311. -/
  | qstat (d : Option Nat) (a : Opd)
  /-- R312. -/
  | leave (a : Opd)
  /-- R312. -/
  | unleave
  /-- R182. -/
  | issueChoice (core : Nat)
  /-- R208. -/
  | valueLanding (core ctx id : Nat)
  /-- R153. -/
  | itemMove (core ctx slot : Nat)
  /-- R154. -/
  | formerGroupIssue (core build : Nat)
  /-- R154. -/
  | formerIssueTimeout (core build : Nat)
  /-- R143. -/
  | teamCast (core entry : Nat)
  /-- R146. -/
  | rangeMerge (core family : Nat)
  /-- R147. -/
  | teamDissolve (team : Nat)
  /-- R161. -/
  | drainingEnd (core ctx : Nat)
  /-- R162. -/
  | teamRetire (team : Nat)
  /-- R169. -/
  | launchCommand (q : Nat)
  /-- R169. -/
  | abort (q : Nat)
  /-- R169. -/
  | noOperation (q : Nat)
  /-- R166. -/
  | doorbell (q : Nat) (v : Int)
  /-- R166. -/
  | hqCtlWrite (q : Nat) (v : Int)
  /-- R168. -/
  | hqPtailWrite (q : Nat) (v : Int)
  /-- R168. -/
  | completionRecordWrite (q : Nat)
  /-- R168. -/
  | eventRecordWrite
  /-- R172. -/
  | launchStart (lid : Nat)
  /-- R180. -/
  | coResidencyCast (lid : Nat)
  /-- R173. -/
  | launchComplete (lid : Nat)
  /-- R177. -/
  | workPacket (die : Nat)
  /-- R245. -/
  | mboxPacketArrival (die : Nat)
  /-- R187. -/
  | leaveGrant (die : Nat)
  /-- R193. -/
  | timeSliceExpiry (die lid : Nat)
  /-- R189. -/
  | shareSave (die lid : Nat)
  /-- R193. -/
  | shareRestore (die lid : Nat)
  /-- R192. -/
  | shadowSwap (core : Nat)
  /-- R192. -/
  | shadowSwapBack (core : Nat)
  /-- R57. -/
  | pageTableWalk (die walk : Nat)
  /-- R64. -/
  | invalidationByRange (agent req : Nat)
  /-- R64. -/
  | drainedReport (agent req : Nat)
  /-- R70. -/
  | bkModeloWrite (core : Nat) (hi : Bool) (v : Int)
  /-- R70. -/
  | bankConversion (core bank : Nat)
  /-- R73. -/
  | waitingLoadRetry (core ctx : Nat)
  /-- R306. -/
  | fifoPushEntry (cluster bank : Nat)
  /-- R307. -/
  | fifoPopRemove (cluster bank : Nat)
  /-- R89. -/
  | scrubAtom (st : Nat)
  /-- R91. -/
  | scrubLevelChange (st : Nat)
  /-- R91. -/
  | scrubPeriodEnd (st : Nat)
  /-- R90. -/
  | scCtlWrite (st : Nat) (v : Int)
  /-- R90. -/
  | scStatusWrite (st : Nat) (v : Int)
  /-- R92. -/
  | retraining (st ch : Nat)
  /-- R92. -/
  | forcedRetraining (st ch : Nat)
  /-- R80. -/
  | miItabWrite (j : Nat) (v : Int)
  /-- R80. -/
  | miCtlLock (v : Int)
  /-- R126. -/
  | queryAccept (query : Nat)
  /-- R120. -/
  | expansion (query : Nat)
  /-- R124. -/
  | searchProbe (query node : Nat)
  /-- R129. -/
  | queryCompletion (query : Nat)
  /-- R290. -/
  | matrixPass (op : Nat)
  /-- R291. -/
  | drain (op : Nat)
  /-- R297. -/
  | blockCopy (op : Nat)
  /-- R298. -/
  | copyIntoRegisters (op : Nat)
  /-- R316. -/
  | trapEntry (core ctx : Nat)
  /-- R321. -/
  | rollback (core ctx : Nat) (reg : Option Reg)
  /-- R325. -/
  | halt (core ctx : Nat)
  /-- R328. -/
  | resume (core ctx : Nat)
  /-- R329. -/
  | step (core ctx : Nat)
  /-- R325. -/
  | readVectorLane (core ctx lane reg : Nat)
  /-- R325. -/
  | readScalar (core ctx reg : Nat)
  /-- R325. -/
  | readState (core ctx : Nat)
  /-- R335. -/
  | friezeSample (core : Nat)
  /-- R338. -/
  | causalTrialStart (die : Nat) (v : Int)
  /-- R338. -/
  | causalTrialEnd (die : Nat)
  /-- R238. -/
  | ckLoRead (core ctx : Nat)
  /-- R236. -/
  | systemRegisterWrite (core ctx : Nat) (n v : Int)
  /-- R109. -/
  | hostWrite (addr : Nat) (l : List Nat)
  /-- R109. -/
  | hostRead (addr : Nat)
  /-- R364. -/
  | peerAccess (port : Nat) (block : Int) (w : List (Nat × Int))
  /-- R364. -/
  | peerNegotiation (port gen : Nat) (base count outBase outCount : Int)
  /-- R363. -/
  | windowRegisterWrite (r v : Nat)
  /-- R343. -/
  | flitReceive (tail : Nat) (l : List Nat) (ok : Bool)
  /-- R343. -/
  | replay (tail good : Nat)
  /-- R346. -/
  | linkTraining (link ga gb : Nat)
  /-- R347. -/
  | widthReduction (die : Nat)
  /-- R348. -/
  | frequencyChange (die : Nat)
  /-- R344. -/
  | readShared (m : Msg)
  /-- R344. -/
  | readOwned (m : Msg)
  /-- R344. -/
  | upgrade (m : Msg)
  /-- R344. -/
  | writeBack (m : Msg)
  /-- R344. -/
  | partialWrite (m : Msg)
  /-- R344. -/
  | atomicRequest (m : Msg)
  /-- R344. -/
  | evictionNotice (m : Msg)
  /-- R344. -/
  | invalidate (m : Msg)
  /-- R344. -/
  | downgrade (m : Msg)
  /-- R344. -/
  | fetchAndInvalidate (m : Msg)
  /-- R344. -/
  | data (m : Msg)
  /-- R344. -/
  | acknowledge (m : Msg)
  /-- R344. -/
  | dataDirty (m : Msg)
  /-- R350. -/
  | acknowledgeAlreadyWrittenBack (m : Msg)
  /-- R344. -/
  | errorResponse (m : Msg)
  /-- R344. -/
  | mailboxPacket (m : Msg)
  /-- R344. -/
  | linkManagement (m : Msg)
  /-- R361. -/
  | generation
  /-- R361. -/
  | loadKeySlot
  /-- R361. -/
  | clearKeySlot
  /-- R361. -/
  | operatingPoint
  /-- R362. -/
  | quote
  /-- R361. -/
  | dieMap
  /-- R361. -/
  | imageUpload
  /-- R362. -/
  | transportKey
  /-- R352. -/
  | powerOn (b : BringUp)
  /-- R67. -/
  | packageReset
  /-- R169. -/
  | malformedCommand (q : Nat)
  /-- R186. -/
  | lgBudgetWrite (die : Nat) (v : Int)
  /-- R364. -/
  | peerPortDown (port : Nat)
  deriving DecidableEq, Repr

/-- A bundle after decoding (R196): guard mask, guard test, and a pair of halves or one wide instruction. -/
inductive Body
  | pair (v s : Instr)
  | wide (i : Instr)
  deriving DecidableEq, Repr

structure Bundle where
  gmask : Nat
  gtest : Int
  body : Body
  deriving DecidableEq, Repr

end Sys2Proof
end

