-- ==== Sys2Proof/Machine/State.lean ====
section
/-! DEFINITION. The state of the package: every register, memory, table and queue that the spec names, as plain data.
Contexts, clusters, dies and stacks are sparse tables; what is not listed is as reset leaves it. -/

namespace Sys2Proof.Machine

open Sys2Proof

/-! ## Memory -/

/-- One atom behind the shell (R39). The payload is held deciphered; `epoch` is the load count of the key slot under
which the tag was formed, so a tag mismatch (R40 check 4) is an epoch that is not the slot's. What the memory device holds may
differ from the block: `poison` is its poison bit; `errs` are the symbols that are wrong, with the change in each, in place of the ECC
field; `badTag` says that a miscorrected word has been written back (R86, R89), `reported` that an expander reports an error (R83). A
block that a cached line holds is read from the line, past these. -/
structure Atom where
  payload : List Nat
  key : Nat := 0
  epoch : Nat := 0
  poison : Bool := false
  errs : List (Nat × Nat) := []
  badTag : Bool := false
  reported : Bool := false
  deriving DecidableEq, Repr, Inhabited

/-- One entry of a core's combining buffer (R77): the stores gathered for one block, and the trits that they cover of each nonet
that they do not cover whole (R266). -/
structure CombEntry where
  block : Int
  key : Nat
  binary : Bool
  super : Bool := true
  places : SMap Int
  cover : SMap (List Nat) := []
  deriving DecidableEq, Repr, Inhabited

/-- The caches that an access of a write-back page goes through: those of a core, the die cache of a die, or the home slice
alone (R76). -/
inductive Via
  | home
  | die (d : Nat)
  | core (c : Nat)
  deriving DecidableEq, Repr, Inhabited

/-- How a physical access is made: key index, cache policy, view, whether its agent is in supervisor mode, through which caches, and
whether it is an atomic that the home slice performs. -/
structure Attr where
  key : Nat := 0
  policy : Int := 0
  binary : Bool := false
  super : Bool := true
  via : Via := .home
  atomic : Bool := false
  deriving DecidableEq, Repr, Inhabited

/-- One unit of an access: a nonet of a ternary page or a byte of a binary one. -/
structure PUnit where
  pa : Int
  attr : Attr
  deriving DecidableEq, Repr, Inhabited

/-- A translation that the walk of R57 has given. -/
structure Leaf where
  frame : Int
  key : Nat := 0
  policy : Int := 0
  binary : Bool := false
  span : Bool := false
  glob : Bool := false
  x : Bool := false
  w : Bool := false
  r : Bool := false
  deriving DecidableEq, Repr, Inhabited

/-- A cached translation (R60). -/
structure TlbEntry where
  asid : Int
  page : Int
  leaf : Leaf
  deriving DecidableEq, Repr, Inhabited

/-- A cached non-leaf entry (R60): the identifier, the level of the table it stands in, the numbers of the entries that lead to it
and its own as one number, and the table that it names. -/
structure TableEntry where
  asid : Int
  level : Nat
  pref : Int
  table : Int
  deriving DecidableEq, Repr, Inhabited

/-- A walk in flight on a die (R61, R64). -/
structure Walk where
  id : Nat
  asid : Int
  page : Int
  super : Bool
  userOk : Bool
  uroot : Int
  sroot : Int
  stale : Bool := false
  deriving DecidableEq, Repr, Inhabited

/-! ## What agents may not have seen yet -/

/-- The paths of R95, and `sync`, the place of an agent's fences, releases and acquires in happens-before (R102). -/
inductive Path
  | core | stream | copy | matrix | search | host | sync
  deriving DecidableEq, Repr, Inhabited

/-- An agent on one of its paths (R94, R95): the place is a core's number on the paths core, stream and sync, a cluster's on
copy and matrix, a peer's number plus one on host. -/
structure Agent where
  path : Path
  place : Nat := 0
  deriving DecidableEq, Repr, Inhabited

/-- How a release is met: by an acquire that reads a strong write which publishes it, or that names it; by sequential fences too; by what
the machine itself does for a launch, a packet or an acknowledgement (R65, R101, R103, R111, R112). -/
inductive RelKind
  | fence | seq | work
  deriving DecidableEq, Repr, Inhabited

/-- A release that a write happens before (R101): its number, who made it, its scope, its mask, how it is met. -/
structure Release where
  id : Nat
  by_ : Agent
  scope : Nat
  mask : List Path
  kind : RelKind := .fence
  deriving DecidableEq, Repr, Inhabited

/-- What an acquire that reads a strong write synchronises with (R101): a release that it publishes, and the path of the write that
the release sequence begins with. -/
structure Head where
  rel : Release
  path : Path
  deriving DecidableEq, Repr, Inhabited

/-- A write to a location while some agents may still read what stood there before it (R98, R104), or while an acquire may meet a
release by it: its number in the order of writes; the value before it, and the view in which it is one; the scope of a strong write, 0
for a plain one; who made it; the agents that a read of the old value would now contradict, or that every agent is one; the releases
that it happens before; the releases that it publishes. -/
structure Late where
  stamp : Nat
  old : Int
  binary : Bool
  strong : Nat
  by_ : Agent
  knows : List Agent
  all : Bool := false
  rel : List Release := []
  heads : List Head := []
  deriving DecidableEq, Repr, Inhabited

/-- A block as it stood before a write, for fetches of the launches started no later than `stamp` (R112). -/
structure CodeVersion where
  block : Int
  stamp : Nat
  atom : Atom
  deriving DecidableEq, Repr, Inhabited

/-! ## Registers of a context -/

/-- A vector register in form U, A or F (R134); form F holds one value per slot. -/
inductive VReg
  | u (b : Int)
  | a (b sx sy sz : Int)
  | f (lanes : List Int)
  deriving DecidableEq, Repr, Inhabited

/-- A mask register (R137): one trit for all items, or one per slot. -/
inductive KReg
  | u (t : Int)
  | f (lanes : List Int)
  deriving DecidableEq, Repr, Inhabited

/-- An address register (R44): pointer, base, limit, space and permissions. The reserved trits always read 0. -/
structure AReg where
  ptr : Int := 0
  base : Int := 0
  limit : Int := 0
  scratch : Bool := false
  engine : Bool := false
  atomic : Bool := false
  store : Bool := false
  load : Bool := false
  deriving DecidableEq, Repr, Inhabited

/-- The trap registers (R315). Addresses are held as their 36 trits. -/
structure TrapRegs where
  vec : Int := 0
  fp : Int := 0
  cause : Int := 0
  ret : Int := 0
  lanes : List Nat := []
  rollbacks : Nat := 0
  inHandler : Bool := false
  deriving DecidableEq, Repr, Inhabited

/-- The registers of a range or a group. -/
structure Regs where
  v : SMap VReg := []
  s : SMap Int := []
  a : SMap AReg := []
  k : SMap KReg := []
  fm : SMap Int := []
  sticky : Flags := {}
  suppress : Bool := false
  oob : List Nat := []
  super : Bool := false
  userOk : Bool := false
  uroot : Int := 0
  sroot : Int := 0
  asid : Int := 0
  ckhi : Int := 0
  tr : TrapRegs := {}
  deriving DecidableEq, Repr, Inhabited

/-! ## Groups, ranges, teams -/

/-- The entry of one trapping lane in the trap frame (R316). -/
structure LaneEntry where
  slot : Nat
  addr : Int := 0
  cause : Int := 0
  level : Int := 0
  deriving DecidableEq, Repr, Inhabited

/-- A raised trap: class, detail, trapping lanes with their entries, the bundle and the return address (R313). -/
structure Trap where
  cls : Nat
  detail : Int := 0
  lanes : List LaneEntry := []
  pc : Int := 0
  ret : Int := 0
  deriving DecidableEq, Repr, Inhabited

/-- Which instruction a pending destination belongs to (R208, R314). -/
inductive PendKind
  | load | atomic | copy | other
  deriving DecidableEq, Repr, Inhabited

/-- The acquire that a status word is as it lands (R65, R107, R245): its scope, its mask, and the releases that it meets, by number, or
what the machine has released. -/
structure Acq where
  scope : Nat
  mask : List Path
  meets : Option (List Nat) := none
  deriving DecidableEq, Repr, Inhabited

/-- What lands in a pending destination: values of slots, values of registers, the failing lanes of class 12, and
the acquire that a status word is as it lands (R103, R107). -/
structure Landing where
  lanes : List (Nat × Int) := []
  words : List (Reg × Int) := []
  ptr : Option Int := none
  fails : List LaneEntry := []
  flags : Flags := {}
  acq : Option Acq := none
  deriving DecidableEq, Repr, Inhabited

/-- A pending destination (R208). -/
structure Pend where
  id : Nat
  kind : PendKind
  regs : List Reg
  slots : List Nat := []
  land : Option Landing := none
  inHandler : Bool := false
  pc : Int := 0
  deriving DecidableEq, Repr, Inhabited

/-- One entry of the mask stack (R157): saved mask, reconvergence address, the paths that wait, each with its lanes. -/
structure MEntry where
  saved : List Nat
  reconv : Int
  paths : List (Int × List Nat)
  deriving DecidableEq, Repr, Inhabited

/-- The mode of a context (R163); a context that is not listed is free. -/
inductive GState
  | reserved | ready | stalled | halted | draining
  deriving DecidableEq, Repr, Inhabited

/-- What a stalled group waits for. -/
inductive Wait
  /-- A phase of a named barrier (R304). -/
  | barrier (nb : Nat) (phase : Int)
  /-- A dissolving join (R147). -/
  | join (live : Nat)
  /-- Presence (R73), with the bundle's address. -/
  | park
  /-- A grant of leave (R187). -/
  | leave
  /-- Room in an engine's table, the copy queue or the team's queries (R281, R126). -/
  | engine
  /-- The acknowledgement of an invalidation it issued (R63). -/
  | inval
  /-- Room in a FIFO bank for its push (R306). -/
  | push
  /-- Writes of its core that are not yet performed at package scope (R275, R278, R351). -/
  | own
  deriving DecidableEq, Repr, Inhabited

/-- An item in the spawn store (R153). -/
structure Stored where
  team : Nat
  role : Nat
  target : Int
  item : Item
  pos : Int
  v : SMap Int := []
  k : SMap Int := []
  shared : Regs
  width : Nat
  nospawn : Bool
  stepped : Bool := false
  since : Int := 0
  deriving DecidableEq, Repr, Inhabited

/-- An item that left its slot while destinations of its lane were pending: what it carries, and those destinations
(R153). -/
structure Transit where
  slot : Nat
  it : Stored
  waits : List Nat
  deriving DecidableEq, Repr, Inhabited

/-- State kept out of the program's sight at trap entry (R316 step 4). -/
structure Kept where
  active : List Nat
  mstack : List MEntry
  nospawn : Bool
  forms : SMap Nat := []
  deriving DecidableEq, Repr, Inhabited

/-- A group context (R163). `storage` are its lane-registers (R149), `low` those of them that the shadow bank exchanges (R192). `reason` is
the stall reason of a ready group in the last cycle (R185); `absent` are the scratchpad blocks
that a parked load found absent (R73, R108); `exempt` is the bundle that is to execute once without its breakpoint and watchpoints (R328). -/
structure Group where
  st : GState := .reserved
  lid : Nat := 0
  team : Nat := 0
  num : Nat := 0
  role : Nat := 0
  width : Nat := 9
  nf : Nat := 0
  storage : Nat := 0
  low : Nat := 0
  items : SMap Item := []
  transit : List Transit := []
  active : List Nat := []
  pc : Int := 0
  age : Nat := 0
  reason : Nat := 0
  haltCause : Nat := 0
  haltPending : Bool := false
  haltAt : Int := 0
  exempt : Option Int := none
  stepping : Bool := false
  builtUnderStep : Bool := false
  stepSpawn : List (Nat × Int) := []
  nospawn : Bool := false
  mstack : List MEntry := []
  r : Regs := {}
  pending : List Pend := []
  raised : Option Trap := none
  held12 : Option Trap := none
  kept : Option Kept := none
  restart : Int := 0
  restartActive : List Nat := []
  restartStack : List MEntry := []
  restartCount : Nat := 0
  region : List Reg := []
  wait : Option Wait := none
  absent : List Nat := []
  leave : Nat := 0
  leaveGranted : Bool := false
  hold : Option (List Int) := none
  holdCharge : Nat := 0
  pushed : Option Int := none
  ops : List Nat := []
  inval : Option Nat := none
  stopped : Bool := false
  rolling : Bool := false
  displaced : Bool := false
  collect : Option (Int × Nat) := none
  paid : Nat := 0
  deriving DecidableEq, Repr, Inhabited

/-- A box of items (R132). -/
structure Box where
  x0 : Int := 0
  x1 : Int := 0
  y0 : Int := 0
  y1 : Int := 0
  z0 : Int := 0
  z1 : Int := 0
  deriving DecidableEq, Repr, Inhabited

/-- The states of a range that holds a table entry (R140). -/
inductive RState
  | running | atJoin | casting
  deriving DecidableEq, Repr, Inhabited

/-- A range context (R138). -/
structure Range where
  lid : Nat := 0
  box : Box := {}
  p0 : Int := 0
  p1 : Int := 0
  pc : Int := 0
  r : Regs := {}
  family : Nat := 0
  st : RState := .running
  castAt : Int := 0
  wait : Nat := 0
  paid : Nat := 0
  deriving DecidableEq, Repr, Inhabited

/-- A named barrier (R300); the releases of the arrivals at its present phase, and of those that completed the phases before it,
each with the phase that it completed (R108). -/
structure Barrier where
  phase : Int := 0
  arrived : Int := 0
  expected : Int := 0
  rels : List Nat := []
  met : List (Int × Nat) := []
  deriving DecidableEq, Repr, Inhabited

/-- A team (R148). -/
structure Team where
  core : Nat := 0
  lid : Nat := 0
  number : Int := 0
  box : Box := {}
  p0 : Int := 0
  family : Nat := 0
  size : Nat := 0
  castGroups : Nat := 0
  exited : Bool := false
  spawned : Bool := false
  pool : List Nat := []
  saved : Bool := false
  nb : SMap Barrier := []
  nextSeq : Int := 1
  queries : SMap Int := []
  queryRel : SMap Nat := []
  outstanding : Nat := 0
  deriving DecidableEq, Repr, Inhabited

/-- A group that the former is building (R154): its context and its items in slot order. -/
structure Build where
  id : Nat
  team : Nat
  role : Nat
  target : Int
  ctx : Nat
  shared : Regs
  sticky : Flags
  items : List Stored := []
  awaited : Nat := 0
  stepped : Bool := false
  deriving DecidableEq, Repr, Inhabited

/-! ## The issue slot -/

/-- Who issues (R181). -/
inductive Who
  | group (ctx : Nat)
  | range (entry : Nat)
  deriving DecidableEq, Repr, Inhabited

/-- The bundle now in the issue slot of a core. `snap` holds the registers that the second half of a pair reads (R204);
`broke` is set by a half that trapped, stalled, cast or halted, `after` by one that traps after the bundle,
`restart` by one that sets the restart address (R235); `inHandler` says that the bundle is one of a trap handler (R319). -/
structure Issue where
  core : Nat
  who : Who
  pc : Int
  guard : List Nat := []
  gmask : Nat := 4
  gtest : Int := 0
  packed : Bool := false
  partners : List Nat := []
  snap : Option Regs := none
  broke : Bool := false
  after : Option Trap := none
  restart : Bool := false
  inHandler : Bool := false
  deriving DecidableEq, Repr, Inhabited

/-! ## Cores, clusters -/

/-- The present cycle of a core's issue choice (R182, R338): whether it has begun, the contexts that a trial pauses in it, and
those that have issued. -/
structure Cycle where
  begun : Bool := false
  paused : List Who := []
  issued : List Who := []
  deriving DecidableEq, Repr, Inhabited

/-- A line of a core's L1 (R76): the bank that holds it, the key index and view under which it was filled, its valid blocks, those
marked poisoned. It is always clean. -/
structure L1Line where
  way : Nat
  key : Nat
  binary : Bool
  blocks : List Nat
  poison : List Nat := []
  deriving DecidableEq, Repr, Inhabited

/-- A bundle in the fetch buffer (R181). -/
structure Fetched where
  lid : Nat
  addr : Int
  value : Int
  deriving DecidableEq, Repr, Inhabited

/-- One core. -/
structure Core where
  modelo : Int := 0
  modehi : Int := 9841
  setlo : Int := 0
  sethi : Int := 9841
  busy : List Nat := []
  vlatch : List Int := [0, 0, 0]
  slatch : List Int := [0, 0, 0]
  owner : Option Who := none
  groups : SMap Group := []
  ranges : SMap Range := []
  store : List Stored := []
  builds : List Build := []
  idleLs : Nat := 729
  idleV : Nat := 729
  idleS : Nat := 729
  sinceRange : Nat := 27
  fetch : List Fetched := []
  l1 : SMap L1Line := []
  comb : List CombEntry := []
  used : Nat := 0
  shadow : Option (Nat × SMap Group) := none
  swapped : Bool := false
  swapping : Bool := false
  swapWait : Nat := 0
  sampleNext : Nat := 0
  cyc : Cycle := {}
  deriving DecidableEq, Repr, Inhabited

/-- A push or pop that a FIFO bank holds (R306, R307): whose it is, by core, context, team and number, and the pending destination of a
pop. -/
structure Held where
  push : Bool
  core : Nat
  ctx : Nat
  id : Nat
  team : Nat := 0
  num : Nat := 0
  entries : List (List Int) := []
  count : Nat := 0
  op : Option Nat := none
  deriving DecidableEq, Repr, Inhabited

/-- One bank of cluster SRAM in scratch or FIFO mode: nonets, present blocks, queue, held pushes and pops; `parity`
lists the nonets whose check trit fails (R87), `setBy` the releases that made blocks present (R108). -/
structure Bank where
  data : SMap Int := []
  present : List Nat := []
  setBy : SMap Nat := []
  fifo : List (List Int) := []
  held : List Held := []
  parity : List Nat := []
  deriving DecidableEq, Repr, Inhabited

/-- One entry of the pin table (R294). -/
structure Pin where
  lid : Nat
  addr : Int
  scratch : Bool
  gen : Int
  block : List Int
  deriving DecidableEq, Repr, Inhabited

/-- One cluster: banks 0 to 107, tiles, pins, idle counters of its engines (R182, R285, R294). -/
structure Cluster where
  banks : SMap Bank := []
  tiles : SMap (SMap Int) := []
  pins : List Pin := []
  mtable : List Nat := []
  copyq : List Nat := []
  idleM : Nat := 729
  idleC : Nat := 729
  deriving DecidableEq, Repr, Inhabited

/-! ## Engine operations, queries, requests -/

/-- What an accepted engine operation is. -/
inductive EngKind
  | pass | drain | zero | copy | regCopy
  deriving DecidableEq, Repr, Inhabited

/-- An accepted engine operation (R281): its fixed parameter block, tiles, issuer, destination and charge; how far it
has come: its lines or rows done, the units done of a copy's row, entries popped or blocks or slots read, entries pushed of a row; what else it has read: blocks of B, a
drain's corrections and multipliers, metadata; the accesses that failed, with their row fields, codes, causes and addresses; the
greatest magnitude drained; what a copy's destinations held before it; what its rows have raised. -/
structure EngineOp where
  kind : EngKind
  core : Nat
  ctx : Nat
  team : Nat
  lid : Nat
  pend : Option Nat := none
  block : List Int := []
  tile : Nat := 0
  count : Nat := 1
  charge : Nat := 0
  super : Bool := false
  userOk : Bool := false
  uroot : Int := 0
  sroot : Int := 0
  asid : Int := 0
  got : List (List Int) := []
  sent : Nat := 0
  row : Nat := 0
  part : Nat := 0
  more : List (List Int) := []
  metas : List (List Nat) := []
  fails : List (Int × Int × Int × Int) := []
  am : FVal := .fin 0 0
  olds : SMap (Option Int) := []
  poisonRow : Option Nat := none
  flags : Flags := {}
  awaiting : Bool := false
  lost : Bool := false
  spoilt : Bool := false
  cancelled : Bool := false
  deriving DecidableEq, Repr, Inhabited

/-- A node of a query's working list (R120): distance, identifier, expanded or not. -/
structure SNode where
  dist : FVal
  node : Int
  expanded : Bool := false
  deriving DecidableEq, Repr, Inhabited

/-- What a probe returns (R124): a distance, or a failure with its cause and the address that failed. -/
inductive PAnswer
  | dist (d : FVal)
  | fail (code cause addr : Int)
  deriving DecidableEq, Repr, Inhabited

/-- How far a query has come (R124, R126, R129). -/
inductive QState
  | posted | waiting | running | ended
  deriving DecidableEq, Repr, Inhabited

/-- A search query (R126): the packet's address, who posted it, its place in its team's order, its packet, descriptor and
query vector, its coordinator and its turn where it waits for it, the probes of its present expansion, working list and visited set, its outcome,
and the flags that its sums have raised (R28, R122). -/
structure Query where
  core : Nat
  ctx : Nat
  team : Nat
  lid : Nat
  addr : Int
  seq : Int := 0
  pend : Option Nat := none
  super : Bool := false
  userOk : Bool := false
  uroot : Int := 0
  sroot : Int := 0
  asid : Int := 0
  st : QState := .posted
  packet : List Int := []
  desc : List Int := []
  vec : List FVal := []
  method : Int := 0
  coord : Nat := 0
  turn : Nat := 0
  list : List SNode := []
  visited : List Int := []
  asked : List (Int × Option PAnswer) := []
  full : Bool := false
  probes : Int := 0
  expansions : Int := 0
  status : Int := 0
  cause : Int := 0
  faultAt : Int := 0
  flags : Flags := {}
  cancelled : Bool := false
  deriving DecidableEq, Repr, Inhabited

/-- An invalidation by range (R63): who asked, what it covers, the agents that have not yet reported drained. -/
structure Inval where
  core : Nat
  ctx : Nat
  team : Nat
  pend : Option Nat := none
  asid : Int
  page : Int
  count : Int
  glob : Bool
  waiting : List Nat
  arrived : List Nat := []
  deriving DecidableEq, Repr, Inhabited

/-! ## Launches and queues -/

/-- The fields of block 0 of a task control block, and the context image of block 1 (R171). -/
structure Tcb where
  kernel : Int := 0
  param : Int := 0
  nx : Int := 1
  ny : Int := 1
  nz : Int := 1
  uroot : Int := 0
  sroot : Int := 0
  asid : Int := 0
  succ : Int := 0
  slice : Nat := 0
  spread : Bool := false
  shadow : Bool := false
  serving : Bool := false
  bankControl : Bool := false
  coResident : Bool := false
  userOk : Bool := false
  super : Bool := false
  image : Int := 0
  deriving DecidableEq, Repr, Inhabited

/-- A kernel header (R212). -/
structure Header where
  T : Nat := 9
  w : Nat := 9
  spawn : Nat := 0
  nospawn : Bool := false
  regs : Nat := 0
  gP : Nat := 0
  nP : Nat := 0
  gC : Nat := 0
  nC : Nat := 0
  entry : Int := 0
  deriving DecidableEq, Repr, Inhabited

/-- Where a launch's completion is reported: a host command, or the plinth of a die (R173, R177). -/
inductive Source
  | host (q : Nat) (seq : Int)
  | die (d : Nat)
  deriving DecidableEq, Repr, Inhabited

/-- The state of an accepted launch. -/
inductive LState
  | waiting | queued | running | complete
  deriving DecidableEq, Repr, Inhabited

/-- An accepted launch (R172): the task control block's address and holder, how far it has come, the dies whose pieces are not
reported, the aborts that wait for its record (R169), what its fetches see (R112); of a launch through a shadow bank whether its
header has been checked, the core where its team is staged, and whether its piece has reached its die (R192). -/
structure Launch where
  addr : Int
  holder : Nat := 0
  source : Source
  tcb : Tcb := {}
  hdr : Header := {}
  st : LState := .waiting
  status : Int := 0
  pieces : List Nat := []
  aborting : Bool := false
  doubleFault : Bool := false
  user : Bool := false
  castAll : Bool := false
  abortBy : List (Nat × Int) := []
  start : Nat := 0
  checked : Bool := false
  staged : Option Nat := none
  due : Bool := false
  deriving DecidableEq, Repr, Inhabited

/-- A work packet (R176), with the status that kinds 4 and 5 carry (R245); whether a device-side launch comes from user mode
(R177). -/
structure Packet where
  first : Int
  last : Int
  addr : Int
  lid : Nat
  kind : Nat
  source : Nat
  status : Int := 0
  user : Bool := false
  deriving DecidableEq, Repr, Inhabited

/-- The ranges of a piece that no table entry was free for (R178): core, run. -/
structure Offer where
  core : Nat
  lid : Nat
  p0 : Int
  p1 : Int
  family : Nat
  deriving DecidableEq, Repr, Inhabited

/-- An `mbox` that waits for a packet (R245): its group and destination, where the packet goes, the identifier that its translations are
of, the first and last page that each of them covers, and the invalidations that wait for its store (R64). -/
structure MboxWait where
  core : Nat
  ctx : Nat
  id : Nat
  units : List PUnit := []
  scratch : Option Int := none
  asid : Int := 0
  pages : List (Int × Int) := []
  inv : List Nat := []
  deriving DecidableEq, Repr, Inhabited

/-- A share that `share` placed on a core (R246): its family, and the descriptor that its end is reported with. -/
structure SoftShare where
  core : Nat
  family : Nat
  desc : Packet
  deriving DecidableEq, Repr, Inhabited

/-- A share of a launch on a die (R188): the cycle from which its time slice is counted, the cycle at which it began (R191), the
clusters that it has used (R285), a request; its place, the blocks of its image and what was saved. -/
structure Share where
  lid : Nat
  start : Int
  begun : Int := 0
  used : List Nat := []
  requested : Bool := false
  saved : Bool := false
  soft : Bool := false
  order : Nat := 0
  size : Nat := 0
  groups : List (Nat × Nat × Group) := []
  ranges : List (Nat × Range) := []
  stores : List (Nat × Stored) := []
  builds : List (Nat × Build) := []
  banks : List (Nat × Nat × Bank) := []
  deriving DecidableEq, Repr, Inhabited

/-- A completion or event record before it is written (R170), with the aborts, by queue and number, that are answered after it
(R169); `link` is one more than the die whose link manager sends it, 0 for every other record (R348). -/
structure Rec where
  cmd : Int := 0
  kind : Int := 1
  status : Int := 0
  code : Int := 0
  addr : Int := 0
  extra : Int := 0
  follow : List (Nat × Int) := []
  link : Nat := 0
  deriving DecidableEq, Repr, Inhabited

/-- One queue's registers (R166), its expectations (R167), waiting records and unfinished commands (R168, R169). -/
structure Queue where
  gen : Int := 0
  jc : Nat := 0
  jp : Nat := 0
  enable : Bool := false
  cbase : Int := 0
  pbase : Int := 0
  ctail : Nat := 0
  ptail : Nat := 0
  seen : Int := 0
  chead : Nat := 0
  phead : Nat := 0
  lastcmd : Int := 0
  lastcpl : Int := 0
  lost : Int := 0
  expect : Int := 1
  nextRec : Int := 1
  records : List Rec := []
  unfinished : List Int := []
  deriving DecidableEq, Repr, Inhabited

/-! ## Dies -/

/-- A request to the leave governor (R187): its charge, its group by context, team and number. -/
structure LeaveReq where
  charge : Nat
  core : Nat
  ctx : Nat
  team : Nat
  num : Nat
  explicit : Bool
  deriving DecidableEq, Repr, Inhabited

/-- A request of a die for a line that its home slice has not yet answered (R342, R344): its tag, its opcode, the blocks still to
come. -/
structure Ask where
  tag : Nat
  op : Nat
  blocks : List Nat := []
  deriving DecidableEq, Repr, Inhabited

/-- A die-cache line's standing (R76, R349 to R351): invalid while it holds no block, else shared or owned; its dirty blocks, those
marked poisoned; the key index and view under which it was filled; what the die has asked its home slice for, and whether what comes is
not to be held; the writes accepted while it waits for ownership, each with its core and block; the tags of its write-backs that are
not yet acknowledged. -/
structure CLine where
  owned : Bool := false
  blocks : List Nat := []
  dirty : List Nat := []
  poison : List Nat := []
  key : Nat := 0
  binary : Bool := false
  asks : List Ask := []
  stale : Bool := false
  pend : List (Option Nat × Nat) := []
  backs : List Nat := []
  deriving DecidableEq, Repr, Inhabited

/-- A write or atomic of a die's core or engine on its way to a home slice, as a request of opcode 5 or 6 (R78, R344, R351): its tag,
its core, its block, key index and view, whether the slice is to hold it, whether its contents are poisoned, and whether it has been
performed there. -/
structure Flight where
  die : Nat
  tag : Nat
  core : Option Nat
  block : Int
  key : Nat
  binary : Bool
  alloc : Bool
  bad : Bool := false
  landed : Bool := false
  deriving DecidableEq, Repr, Inhabited

/-- A request of a die's link manager (R347): a module of a link is reduced, or the die moves to another operating point for a
command of the firmware API. -/
inductive LinkReq
  | width (link m : Nat)
  | frequency (point : Nat) (cmd : Int)
  deriving DecidableEq, Repr, Inhabited

/-- The link manager of a die (R347, R348): the requests that wait, each with its number, and the next number; the request whose quiesce
window is open, with the cycle of the die in which it opened; the records of the changes applied that are not yet sent, the oldest
first, and whether one that has been sent is not yet written. -/
structure Manager where
  reqs : List (Nat × LinkReq) := []
  next : Nat := 1
  window : Option (Nat × LinkReq) := none
  opened : Int := 0
  out : List Rec := []
  busy : Bool := false
  deriving DecidableEq, Repr, Inhabited

/-- Kinds of dies' standing (R358). -/
inductive DieLife
  | out | live | computeOut
  deriving DecidableEq, Repr, Inhabited

/-- An event that the trigger sequencer has yet to test (R333, R334): the group that it is of, -1 where there is none, its launch,
team and number there, the event and its parameter, and the bundle that caused it, where one did. -/
structure TrigEvent where
  core : Int
  ctx : Int
  lid : Nat := 0
  team : Nat := 0
  num : Nat := 0
  ev : Int
  param : Int
  at_ : Option Int := none
  deriving DecidableEq, Repr, Inhabited

/-- One compute die; `plinthUp` says that the plinth image has been loaded into core 0 of the plinth's cluster and has begun at its entry
(R353). -/
structure Die where
  life : DieLife := .out
  liveClusters : List Nat := []
  plinth : Nat := 0
  plinthUp : Bool := false
  routes : SMap (Nat × Bool) := []
  cycle : Int := 0
  pg : SMap Int := []
  budget : Nat := 0
  held : Nat := 0
  leaveQ : List LeaveReq := []
  dbgctl : Int := 0
  dbgsel : Int := 0
  dbgcmd : Int := 0
  dbgdata : Int := 0
  w0ctl : Int := 0
  w0lo : Int := 0
  w0len : Int := 0
  w1ctl : Int := 0
  w1lo : Int := 0
  w1len : Int := 0
  mbox : Int := 0
  tsq : Int := 0
  tr : SMap Int := []
  fzctl : Int := 0
  fzseq : Int := 0
  fzsmp : Int := 0
  ctctl : Int := 0
  ctlo : Int := 0
  cthi : Int := 0
  ctpaid : Int := 0
  cthits : Int := 0
  ctcount : Int := 0
  trialG : Nat := 0
  trialS : Int := 0
  trialLeft : Nat := 0
  mail : List Packet := []
  senders : List Packet := []
  chain : List Packet := []
  mboxWait : List MboxWait := []
  softShares : List SoftShare := []
  offers : List Offer := []
  shares : List Share := []
  nextFamily : Nat := 0
  tlb : List TlbEntry := []
  tables : List TableEntry := []
  walks : List Walk := []
  missq : List Walk := []
  lines : SMap CLine := []
  nextTag : Nat := 0
  cellsFixed : Nat := 0
  point : Nat := 0
  nextCore : Nat := 0
  trigDue : List TrigEvent := []
  deriving DecidableEq, Repr, Inhabited

/-- A directory entry of a home slice (R349). -/
inductive DirEntry
  | uncached
  | shared (dies : List Nat)
  | owned (die : Nat)
  deriving DecidableEq, Repr, Inhabited

/-- A transaction that a home slice handles for a line (R350): its request and opcode, the dies whose answers are awaited, those
whose write-back has come in the meantime, those that have said so before it came, and the requests that wait behind it, each
with its opcode. -/
structure Busy where
  req : Msg
  op : Nat
  snoops : List Nat
  came : List Nat := []
  early : List Nat := []
  waiting : List (Nat × Msg) := []
  deriving DecidableEq, Repr, Inhabited

/-- A line of a home slice (R76): the key index and view under which it was filled, its valid blocks, its dirty ones, those marked
poisoned. -/
structure SLine where
  key : Nat
  binary : Bool
  blocks : List Nat
  dirty : List Nat := []
  poison : List Nat := []
  deriving DecidableEq, Repr, Inhabited

/-- One stack base die. -/
structure Stack where
  live : Bool := false
  lines : Int := 0
  period : Nat := 20
  enable : Bool := true
  level : Nat := 0
  missed : Bool := false
  corrected : Nat := 0
  uncorrectable : Nat := 0
  next : Nat := 0
  elapsed : Nat := 0
  late : Bool := false
  held : SMap SLine := []
  cellsFixed : Nat := 0
  dir : SMap DirEntry := []
  busy : SMap Busy := []
  deriving DecidableEq, Repr, Inhabited

/-- One end of a die-to-die link (R341, R343, R347): the agreed generation; the sender's flits that are not acknowledged, the
number of its last flit, its credits by class and the messages that wait, each with its class and channel set; whether a quiesce
window keeps it from accepting messages; the receiver's last flit in order, whether it drops flits until a replay and still owes
the control flit that asks for it, the buffers it has freed and not yet reported, and its error count. -/
structure LinkEnd where
  up : Bool := false
  gen : Nat := 0
  unacked : List (Nat × List Nat) := []
  sent : Nat := 0
  credits : List Nat := [0, 0, 0, 0]
  waitq : List (Nat × Nat × List Nat) := []
  quiesce : Bool := false
  lastGood : Nat := 0
  dropping : Bool := false
  owes : Bool := false
  freed : List Nat := [0, 0, 0, 0]
  errors : Nat := 0
  deriving DecidableEq, Repr, Inhabited

/-- The width of one module (R340). -/
inductive Width
  | full | half | off
  deriving DecidableEq, Repr, Inhabited

/-- One peer port (R364): the generation agreed, the window that the peer exports, and the one that this package exports to it;
the messages that have left for the peer, the oldest first, each with the operands of a partial write that its header has no place
for. -/
structure Port where
  up : Bool := false
  negotiated : Bool := false
  gen : Nat := 0
  out : List (List Nat × List (Nat × Int)) := []
  base : Int := 0
  count : Int := 0
  outBase : Int := 0
  outCount : Int := 0
  deriving DecidableEq, Repr, Inhabited

/-- A key slot (R84): loaded or not, and the keys that it holds as one number, 0 where it is not loaded. -/
structure KeySlot where
  loaded : Bool := false
  epoch : Nat := 0
  deriving DecidableEq, Repr, Inhabited

/-- The module's bring-up state (R352, R353). -/
inductive Phase
  | off | recovery | ready
  deriving DecidableEq, Repr, Inhabited

/-- The firmware API's own state (R360 to R362): its queue and agreed generation, the transport key, the decapsulation key with the nonce
of its quote, the reports signed, the versions of the images. -/
structure Firmware where
  q : Queue := {}
  gen : Int := 0
  transport : Option (List Nat) := none
  decaps : Option (List Nat) := none
  nonce : List Nat := []
  quotes : Nat := 0
  versions : List Nat := []
  deriving DecidableEq, Repr, Inhabited

/-- The control-space registers that have no number in R236 (R47 region 0). -/
inductive CReg
  /-- `die.ident` of a die (R339). -/
  | ident (die : Nat)
  /-- The frame counts, by region (R354); -3 names `pm.countpeer`. -/
  | count (region : Int)
  /-- `mi.itab` 0 to 8 and `mi.ctl` (R80). -/
  | itab (j : Nat)
  | miCtl
  /-- `sb.lines`, `sc.ctl`, `sc.status` of a stack (R355, R90). -/
  | sbLines (st : Nat)
  | scCtl (st : Nat)
  | scStatus (st : Nat)
  /-- `lg.budget`, `lg.held` of a compute die (R186). -/
  | lgBudget (die : Nat)
  | lgHeld (die : Nat)
  /-- Register `r` of queue `q` in the order of R166; queue 81 is the firmware API's (R360). -/
  | queue (q r : Nat)
  deriving DecidableEq, Repr, Inhabited

/-- The whole package. -/
structure State where
  mem : SMap Atom := []
  host : List Host.Cell := []
  late : SMap (List Late) := []
  made : List Release := []
  taken : List (Agent × Head) := []
  code : List CodeVersion := []
  flights : List Flight := []
  starts : Nat := 0
  cores : SMap Core := []
  clusters : SMap Cluster := []
  dies : SMap Die := []
  sbs : SMap Stack := []
  links : SMap LinkEnd := []
  widths : SMap (List Width) := []
  managers : SMap Manager := []
  hdB : Bool := false
  phase : Phase := .off
  count0 : Int := 0
  count1 : Int := 0
  count2 : Int := 0
  count3 : Int := 0
  countHost : Int := 0
  countByte : Int := 0
  countPeer : Int := 0
  itab : SMap Nat := []
  locked : Bool := false
  hT : Nat := 0
  hB : Nat := 0
  sT : Nat := 0
  sB : Nat := 0
  ports : SMap Port := []
  keys : SMap KeySlot := []
  queues : SMap Queue := []
  fw : Firmware := {}
  portData : List Nat := []
  signals : List Nat := []
  launches : SMap Launch := []
  teams : SMap Team := []
  ops : SMap EngineOp := []
  qrys : SMap Query := []
  invals : SMap Inval := []
  events : List Rec := []
  nextId : Nat := 1
  issue : Option Issue := none
  agenda : List Event := []
  fresh : Nat := 0
  nextQueue : Nat := 0
  deriving DecidableEq, Repr

/-- Why a step stops. -/
inductive Fault
  /-- Raised by the meaning of an instruction of a bundle when no bundle is in the issue slot. Never raised by `step`,
  which runs such an instruction only from the issue slot. Safe. -/
  | noIssue
  deriving DecidableEq, Repr

/-- Why a step has no meaning. -/
inductive Refusal
  /-- Raised by an arm of the dispatch whose instruction has no meaning yet. Safe. -/
  | notModelled (mnemonic : String)
  deriving DecidableEq, Repr

/-- The package right after package reset, before bring-up: every field at its default, which is the value the spec
gives or the value the assumption log names. -/
def State.reset : State := {}

end Sys2Proof.Machine
end

