-- ==== Sys2Proof/Config.lean ====
section
/-! DEFINITION. What an implementation fixes and what the spec leaves open: constants without a body, so that no proof
can use a value of them. A constant applied to the state's counter `fresh` gives a new free value at each use. -/

namespace Sys2Proof.Config

open Sys2Proof Sys2Proof.Machine

/-- Which of the things that may happen next happens (R10, R61, R181, R285, R299): an index, taken modulo their number. -/
opaque pick : Nat → Nat
/-- What the outside does next, if anything: the host, peers, power, links and the environment. -/
opaque input : Nat → Option Event
/-- A yes or a no that the spec leaves open. -/
opaque choice : Nat → Bool
/-- Whether a write is seen by every agent at once; where it is not, each agent may go on reading what stood there before it, as
long as R104 allows (R93 to R107). -/
opaque settled : Nat → Bool
/-- How far back a read goes that may still return values before the last writes (R104): an index, taken modulo their number. -/
opaque seenAt : Nat → Nat
/-- A word that the spec leaves open. -/
opaque word : Nat → Int
/-- What an atom that no write has reached holds (R401). -/
opaque powerOnAtom : Int → Atom
/-- What a byte of host memory that nothing has written holds (R49). -/
opaque powerOnHostByte : Nat → Byte
/-- The register at a physical address of control space (R47), outside the queue page. -/
opaque controlPlace : Int → Option CReg
/-- The frame of control space that is the queue page (R166), taken modulo the 27 frames of that region (R356). -/
opaque queueFrame : Nat
/-- The number of the peer's port at the other end of a peer port (R364). -/
opaque farPort : Nat → Nat
/-- Added to the numbers of a launch's teams (R148). -/
opaque teamOffset : Nat → Int
/-- Whether an error of more than five symbols is miscorrected (R86). -/
opaque miscorrects : List (Nat × Nat) → Bool
/-- The 96 bytes of the root of trust's identity key, fused at manufacture: the seed of its public key, that of its secrets, that of its
signatures' randomness (R362). -/
opaque identityKey : List Nat
/-- The receive buffers that an end of a link has for each class (R343). -/
opaque linkBuffers : Nat
/-- The bytes in which a die map lays out the identities and the modules' states (R361). -/
opaque dieMapBytes : List Int → List (List Width) → List Nat
/-- The random bytes that a quote's key pair is generated from (R362); 64 are used. -/
opaque keySeed : Nat → List Nat
/-- The fused minimum version of the image in a slot (R352). -/
opaque fusedVersion : Nat → Nat

end Sys2Proof.Config
end

