-- ==== Sys2Proof/Machine/Access.lean ====
section
/-! DEFINITION. Reads and updates of the parts of the state, each by its own name: cores, dies, clusters, contexts,
queues; the agenda of due events and the counter of free values. -/

namespace Sys2Proof.Machine

open Sys2Proof

/-! ## Places -/

/-- The die of a core, the cluster of a core, a core's number on its die (R1, R252 of the place registers). -/
def dieOf (core : Nat) : Nat := core / 81
def clusterOf (core : Nat) : Nat := core / 3
def coreInCluster (core : Nat) : Nat := core % 3
def coreInDie (core : Nat) : Nat := core % 81

/-! ## Parts -/

def getCore (s : State) (c : Nat) : Core := mget {} s.cores c
def setCore (s : State) (c : Nat) (v : Core) : State := { s with cores := mput {} s.cores c v }
def updCore (s : State) (c : Nat) (f : Core → Core) : State := setCore s c (f (getCore s c))

def getCluster (s : State) (c : Nat) : Cluster := mget {} s.clusters c
def setCluster (s : State) (c : Nat) (v : Cluster) : State := { s with clusters := mput {} s.clusters c v }
def updCluster (s : State) (c : Nat) (f : Cluster → Cluster) : State := setCluster s c (f (getCluster s c))

def getDie (s : State) (d : Nat) : Die := mget {} s.dies d
def setDie (s : State) (d : Nat) (v : Die) : State := { s with dies := mput {} s.dies d v }
def updDie (s : State) (d : Nat) (f : Die → Die) : State := setDie s d (f (getDie s d))

def getStack (s : State) (h : Nat) : Stack := mget {} s.sbs h
def setStack (s : State) (h : Nat) (v : Stack) : State := { s with sbs := mput {} s.sbs h v }
def updStack (s : State) (h : Nat) (f : Stack → Stack) : State := setStack s h (f (getStack s h))

def getQueue (s : State) (q : Nat) : Queue := if q = 81 then s.fw.q else mget {} s.queues q
def setQueue (s : State) (q : Nat) (v : Queue) : State :=
  if q = 81 then { s with fw := { s.fw with q := v } } else { s with queues := mput {} s.queues q v }

def getPort (s : State) (p : Nat) : Port := mget {} s.ports p
def setPort (s : State) (p : Nat) (v : Port) : State := { s with ports := mput {} s.ports p v }

def getLink (s : State) (l : Nat) : LinkEnd := mget {} s.links l
def setLink (s : State) (l : Nat) (v : LinkEnd) : State := { s with links := mput {} s.links l v }

def getKey (s : State) (k : Nat) : KeySlot := mget {} s.keys k

/-- A group context, where it is not free. -/
def getGroup (s : State) (core ctx : Nat) : Option Group := mfind (getCore s core).groups ctx
def setGroup (s : State) (core ctx : Nat) (g : Group) : State :=
  updCore s core fun c => { c with groups := mset c.groups ctx g }
def delGroup (s : State) (core ctx : Nat) : State :=
  updCore s core fun c => { c with groups := mdel c.groups ctx }
/-- Update of a context; nothing where it is free. -/
def updGroup (s : State) (core ctx : Nat) (f : Group → Group) : State :=
  match getGroup s core ctx with
  | some g => setGroup s core ctx (f g)
  | none => s

/-- The groups that a core's shadow bank holds (R192). -/
def shadowGroups (c : Core) : SMap Group := match c.shadow with | some p => p.2 | none => []
/-- The group of a context that has a property: in the context, or displaced into the shadow bank (R192). -/
def findHolder (s : State) (core ctx : Nat) (p : Group → Bool) : Option Group :=
  let c := getCore s core
  match mfind c.groups ctx with
  | some g => if p g then some g else (mfind (shadowGroups c) ctx).filter p
  | none => (mfind (shadowGroups c) ctx).filter p
/-- Update of the group that `findHolder` finds. -/
def updHolder (s : State) (core ctx : Nat) (p : Group → Bool) (f : Group → Group) : State :=
  updCore s core fun c =>
    let inShadow : Core :=
      { c with shadow := c.shadow.map fun h => (h.1, h.2.map fun e => if e.1 = ctx ∧ p e.2 then (e.1, f e.2) else e) }
    match mfind c.groups ctx with
    | some g => if p g then { c with groups := mset c.groups ctx (f g) } else inShadow
    | none => inShadow
/-- Does a group hold a pending destination of a number? -/
def holdsPend (id : Nat) (g : Group) : Bool := g.pending.any fun p => p.id == id

def getRange (s : State) (core e : Nat) : Option Range := mfind (getCore s core).ranges e
def setRange (s : State) (core e : Nat) (r : Range) : State :=
  updCore s core fun c => { c with ranges := mset c.ranges e r }
def delRange (s : State) (core e : Nat) : State :=
  updCore s core fun c =>
    { c with ranges := mdel c.ranges e, owner := if c.owner = some (.range e) then none else c.owner }
def updRange (s : State) (core e : Nat) (f : Range → Range) : State :=
  match getRange s core e with
  | some r => setRange s core e (f r)
  | none => s

def getTeam (s : State) (t : Nat) : Option Team := mfind s.teams t
def setTeam (s : State) (t : Nat) (v : Team) : State := { s with teams := mset s.teams t v }
def updTeam (s : State) (t : Nat) (f : Team → Team) : State :=
  match getTeam s t with
  | some v => setTeam s t (f v)
  | none => s

def getLaunch (s : State) (l : Nat) : Option Launch := mfind s.launches l
def setLaunch (s : State) (l : Nat) (v : Launch) : State := { s with launches := mset s.launches l v }
def updLaunch (s : State) (l : Nat) (f : Launch → Launch) : State :=
  match getLaunch s l with
  | some v => setLaunch s l (f v)
  | none => s

/-- The task control block and the kernel header of a launch. -/
def launchTcb (s : State) (l : Nat) : Tcb := match getLaunch s l with | some v => v.tcb | none => {}
def launchHdr (s : State) (l : Nat) : Header := match getLaunch s l with | some v => v.hdr | none => {}

/-- Bank `b` (0 to 107) of a cluster. -/
def getBank (s : State) (cl b : Nat) : Bank := mget {} (getCluster s cl).banks b
def setBank (s : State) (cl b : Nat) (v : Bank) : State :=
  updCluster s cl fun c => { c with banks := mput {} c.banks b v }
def updBank (s : State) (cl b : Nat) (f : Bank → Bank) : State := setBank s cl b (f (getBank s cl b))

/-- The core that owns cluster bank `b`, and the bank's number there (R67). -/
def bankCore (cl b : Nat) : Nat := 3 * cl + b / 36
/-- The mode in which bank `b` of a cluster is settled, none while it converts: -1 FIFO, 0 cache, 1 scratch (R68, R70). -/
def bankMode (s : State) (cl b : Nat) : Option Int :=
  let c := getCore s (bankCore cl b)
  let i := b % 36
  if c.busy.contains i then none
  else some (if i < 27 then trit c.setlo i else trit c.sethi (i - 27))
/-- The mode last requested for bank `i` of a core. -/
def bankWanted (c : Core) (i : Nat) : Int := if i < 27 then trit c.modelo i else trit c.modehi (i - 27)

/-! ## Values of vector registers (R134, R261) -/

/-- The value of an armature for an item (R134). -/
def armAt (b sx sy sz : Int) (it : Item) : Int := wrap 27 (b + sx * it.x + sy * it.y + sz * it.z)
/-- A register's value in a slot; forms A and F read 0 in an empty slot (R261). -/
def laneVal (v : VReg) (items : SMap Item) (slot : Nat) : Int :=
  match v with
  | .u b => b
  | .a b x y z => match mfind items slot with | some it => armAt b x y z it | none => 0
  | .f l => match mfind items slot with | some _ => l.getD slot 0 | none => 0
/-- What a register stores for a slot: as `laneVal`, but form F holds a value in an empty slot too. -/
def storedVal (v : VReg) (items : SMap Item) (slot : Nat) : Int :=
  match v with
  | .f l => l.getD slot 0
  | v => laneVal v items slot
/-- All slots' values as they are stored. -/
def allLanes (v : VReg) (items : SMap Item) (w : Nat) : List Int := (List.range w).map (storedVal v items)

/-! ## Agenda and free values -/

/-- An event becomes due. -/
def push (s : State) (e : Event) : State := { s with agenda := s.agenda ++ [e] }
/-- The counter of free values moves on. -/
def tick (s : State) : State := { s with fresh := s.fresh + 1 }
/-- A new number for an operation, a launch, a team or a destination. -/
def newId (s : State) : Nat × State := (s.nextId, { s with nextId := s.nextId + 1 })

/-- The link manager of a die (R347). -/
def getManager (s : State) (n : Nat) : Manager := mget {} s.managers n
def setManager (s : State) (n : Nat) (m : Manager) : State := { s with managers := mput {} s.managers n m }

/-- An event record goes to queue 0 (R168, R170). -/
def sendEvent (s : State) (code addr : Int) : State :=
  push { s with events := s.events ++ [{ kind := 2, code := code, addr := addr }] } .eventRecordWrite

/-- The launch that an executing context belongs to, its registers and its program address. -/
def whoLid (s : State) (core : Nat) : Who → Nat
  | .group c => match getGroup s core c with | some g => g.lid | none => 0
  | .range e => match getRange s core e with | some r => r.lid | none => 0
def whoRegs (s : State) (core : Nat) : Who → Regs
  | .group c => match getGroup s core c with | some g => g.r | none => {}
  | .range e => match getRange s core e with | some r => r.r | none => {}
def whoPc (s : State) (core : Nat) : Who → Int
  | .group c => match getGroup s core c with | some g => g.pc | none => 0
  | .range e => match getRange s core e with | some r => r.pc | none => 0
def updRegs (s : State) (core : Nat) (w : Who) (f : Regs → Regs) : State :=
  match w with
  | .group c => updGroup s core c fun g => { g with r := f g.r }
  | .range e => updRange s core e fun r => { r with r := f r.r }
def setPc (s : State) (core : Nat) (w : Who) (pc : Int) : State :=
  match w with
  | .group c => updGroup s core c fun g => { g with pc := pc }
  | .range e => updRange s core e fun r => { r with pc := pc }

/-- The slots of a group that hold items, ascending. -/
def occupied (g : Group) : List Nat := g.items.map (·.1)
/-- The lanes that execute: active and occupied. -/
def activeLanes (g : Group) : List Nat := g.active.filter fun l => (occupied g).contains l

/-- The address of a frame's first nonet (R47). -/
def frameBase (f : Int) : Int := 19683 * f
/-- A number of 27 trits and one of 9 above it, as one number of 36 trits. -/
def join36 (lo hi : Int) : Int := lo + hi * 3 ^ 27

end Sys2Proof.Machine
end

