-- ==== Sys2Proof/Machine/Queue.lean ====
section
/-! DEFINITION. Control-space registers: their reads and the rules of their writes (07 R166, R186; 03 R80, R90;
13 R339, R354, R355, R363). -/

namespace Sys2Proof.Machine

open Sys2Proof

/-- The frame count of a region; none where the region is not assigned (R47, R48). -/
def regionCount (s : State) (r : Int) : Option Int :=
  if r = 0 then some s.count0
  else if r = 1 then some s.count1
  else if r = 2 then some s.count2
  else if r = 3 then some s.count3
  else if r = -1 then some s.countHost
  else if r = -2 then some s.countByte
  else if -10 ≤ r ∧ r ≤ -3 then some s.countPeer
  else none

/-- A frame of region -1 that is backed (R166). -/
def backedHost (s : State) (f : Int) : Bool :=
  decide (trits f 23 19 = -1) && decide (0 ≤ trits f 18 0) && decide (trits f 18 0 < s.countHost)

/-- `hq.ctl` as it reads (R166). -/
def queueCtl (q : Queue) : Int := q.gen * 3 ^ 9 + q.jc * 3 ^ 6 + q.jp * 3 ^ 3 + (if q.enable then 1 else 0)

/-- A queue is turned on: the heads meet the tails and the sequence expectations restart (R166, R167). -/
def queueOn (q : Queue) : Queue :=
  { q with enable := true, chead := q.ctail, phead := q.ptail, expect := 1, nextRec := 1 }

/-- May the queue be on in the module's present state? (R352, R353) -/
def queueAllowed (s : State) (q : Nat) : Bool :=
  if q = 81 then s.phase != .off else s.phase == .ready

/-- Records that wait may be written (R168). -/
def offerRecords (s : State) (q : Nat) : State :=
  if (getQueue s q).records = [] then s else push s (.completionRecordWrite q)

/-- Write of `hq.ctl` (R166). -/
def writeQueueCtl (s : State) (q : Nat) (v : Int) : State :=
  let k := getQueue s q
  let en := trit v 0
  if trits v 26 12 ≠ 0 ∨ trits v 2 1 ≠ 0 ∨ en = -1 then s
  else if k.enable then (if en = 1 then s else setQueue s q { k with enable := false })
  else
    let gen := trits v 11 9
    let jc := trits v 8 6
    let jp := trits v 5 3
    if gen < 1 ∨ jc < 3 ∨ jc > 6 ∨ jp < 3 ∨ jp > 6 then s
    else
      let k' := { k with gen := min gen 1, jc := jc.toNat, jp := jp.toNat }
      if en = 0 then setQueue s q k'
      else if k.cbase = k.pbase ∨ !queueAllowed s q then s
      else offerRecords (setQueue s q (queueOn k')) q

/-- Write of `hq.cbase` or `hq.pbase` (R166). -/
def writeQueueBase (s : State) (q : Nat) (completion : Bool) (v : Int) : State :=
  let k := getQueue s q
  if k.enable ∨ trits v 26 24 ≠ 0 ∨ !backedHost s (trits v 23 0) then s
  else setQueue s q (if completion then { k with pbase := trits v 23 0 } else { k with cbase := trits v 23 0 })

/-- Write of `hq.ctail`: the doorbell (R166). -/
def writeQueueCtail (s : State) (q : Nat) (v : Int) : State :=
  let k := getQueue s q
  if 0 ≤ v ∧ v < 3 ^ k.jc then setQueue s q { k with ctail := v.toNat } else s

/-- Write of `hq.ptail`: the host has consumed records, and waiting ones may be written (R168). -/
def writeQueuePtail (s : State) (q : Nat) (v : Int) : State :=
  let k := getQueue s q
  if 0 ≤ v ∧ v < 3 ^ k.jp then offerRecords (setQueue s q { k with ptail := v.toNat }) q else s

/-- Write of `hq.seen` (R166). -/
def writeQueueSeen (s : State) (q : Nat) (v : Int) : State :=
  if 0 ≤ v ∧ v ≤ half 27 then setQueue s q { getQueue s q with seen := v } else s

/-- Write of register `r` of a queue, in the order of R166; the others are read-only. -/
def writeQueueReg (s : State) (q r : Nat) (v : Int) : State :=
  match r with
  | 0 => writeQueueCtl s q v
  | 1 => writeQueueBase s q false v
  | 2 => writeQueueBase s q true v
  | 3 => writeQueueCtail s q v
  | 4 => writeQueuePtail s q v
  | 5 => writeQueueSeen s q v
  | _ => s

/-- Register `r` of a queue as it reads (R166). -/
def readQueueReg (s : State) (q r : Nat) : Int :=
  let k := getQueue s q
  match r with
  | 0 => queueCtl k
  | 1 => k.cbase
  | 2 => k.pbase
  | 3 => k.ctail
  | 4 => k.ptail
  | 5 => k.seen
  | 6 => k.chead
  | 7 => k.phead
  | 8 => k.lastcmd
  | 9 => k.lastcpl
  | 10 => k.lost
  | _ => 0

/-! ## The interleave table (R80 to R82) -/

/-- Entry `i` of the table. -/
def itabEntry (s : State) (i : Nat) : Nat := mget 0 s.itab i
/-- `mi.itab` `j` as it reads. -/
def readItab (s : State) (j : Nat) : Int :=
  (List.range 9).foldl (fun x i => x + itabEntry s (9 * j + i) * 3 ^ (3 * i)) 0
/-- Write of `mi.itab` `j`: ignored while locked; an entry that names no live stack keeps its value. -/
def writeItab (s : State) (j : Nat) (v : Int) : State :=
  if s.locked then s
  else (List.range 9).foldl (fun s i =>
    let h := trits v (3 * i + 2) (3 * i)
    if 0 ≤ h ∧ h ≤ 8 ∧ (getStack s h.toNat).live then { s with itab := mput 0 s.itab (9 * j + i) h.toNat } else s) s
/-- Write of `mi.ctl`: + freezes the table; ignored once locked. The reserved trits are ignored (R8). -/
def writeMiCtl (s : State) (v : Int) : State :=
  if s.locked ∨ trit v 0 ≠ 1 then s else { s with locked := true }

/-- Home stack of a line number of its region (R81). -/
def homeOf (s : State) (line : Int) : Nat := itabEntry s (line % 81).toNat
/-- Entries of the table that hold stack `h`: in all, and before entry `i`. -/
def itabCount (s : State) (h n : Nat) : Nat := ((List.range n).filter fun j => itabEntry s j == h).length
/-- The line's number within its home stack (R81). -/
def localLine (s : State) (line : Int) : Int :=
  line / 81 * itabCount s (homeOf s line) 81 + itabCount s (homeOf s line) (line % 81).toNat

/-! ## Scrubber, leave governor -/

/-- `sc.ctl` and `sc.status` as they read (R90). -/
def readScCtl (k : Stack) : Int := k.period * 9 + (if k.enable then 1 else 0)
def readScStatus (k : Stack) : Int :=
  k.level * 3 ^ 25 + (if k.missed then 3 ^ 24 else 0) + k.corrected * 3 ^ 12 + k.uncorrectable
/-- Write of `sc.ctl`: refused where the trits above the period are not 0; the reserved trit 1 is ignored (R8, R90). -/
def writeScCtl (s : State) (st : Nat) (v : Int) : State :=
  let p := trits v 10 2
  if trits v 26 11 ≠ 0 ∨ trit v 0 = -1 ∨ p < 1 then s
  else updStack s st fun k =>
    if trit v 0 = 1 ∧ !k.enable then
      { k with period := p.toNat, enable := true, next := 0, elapsed := 0, late := false }
    else { k with period := p.toNat, enable := decide (trit v 0 = 1) }
/-- Any write of `sc.status` clears its counts and the deadline trit (R90). -/
def writeScStatus (s : State) (st : Nat) : State :=
  updStack s st fun k => { k with missed := false, corrected := 0, uncorrectable := 0 }

/-- Write of `lg.budget` (R186); later grants use it. -/
def writeLgBudget (s : State) (d : Nat) (v : Int) : State :=
  if 81 ≤ v ∧ v ≤ 2187 then
    let s := updDie s d fun k => { k with budget := v.toNat }
    if (getDie s d).leaveQ = [] then s else push s (.leaveGrant d)
  else s

/-! ## Every control-space register -/

/-- Is a die of a number of R339 in the package: not left out by bring-up (R1, R358)? -/
def dieLive (s : State) (n : Nat) : Bool :=
  if n < 9 then (getDie s n).life != .out
  else if n < 18 then (getStack s (n - 9)).live
  else decide (n = 18) || (decide (n = 19) && s.hdB)
/-- `die.ident` of a die number of R339. DESIGN CHOICE (log 65): for a die that is left out the state reads as the value that no
reachable die holds. -/
def readIdent (s : State) (n : Nat) : Int :=
  let out := if dieLive s n then 0 else -27
  if n < 9 then
    let d := getDie s n
    d.plinth * 3 ^ 9 + (if d.life = .computeOut then 27 else 0) + out + n
  else if n < 18 then 729 + out + (n - 9 : Nat)
  else -729 + out + (n - 18 : Nat)

def readCReg (s : State) : CReg → Int
  | .ident n => readIdent s n
  | .count r => (regionCount s r).getD 0
  | .itab j => readItab s j
  | .miCtl => if s.locked then 1 else 0
  | .sbLines st => (getStack s st).lines
  | .scCtl st => readScCtl (getStack s st)
  | .scStatus st => readScStatus (getStack s st)
  | .lgBudget d => (getDie s d).budget
  | .lgHeld d => (getDie s d).held
  | .queue q r => readQueueReg s q r

/-- A write by an agent in supervisor mode; the read-only registers ignore it. -/
def writeCReg (s : State) (r : CReg) (v : Int) : State :=
  match r with
  | .itab j => writeItab s j v
  | .miCtl => writeMiCtl s v
  | .scCtl st => writeScCtl s st v
  | .scStatus st => writeScStatus s st
  | .lgBudget d => writeLgBudget s d v
  | .queue q r => writeQueueReg s q r v
  | _ => s

end Sys2Proof.Machine
end

