-- ==== Sys2Proof/Machine/Atom.lean ====
section
/-! DEFINITION. Atoms behind the shell: packing, frames, the checks of a read, the contents in a view
(01 R35 to R41, R401; 02 R47, R48; 03 R84 to R86). -/

namespace Sys2Proof.Machine

open Sys2Proof

/-! ## Packing -/

/-- The code of five trits (R35). -/
def quintet (l : List Int) : Nat := (ofTrits l + 121).toNat

/-- Codes of a trit stream, five trits to a byte (R36). -/
def packTrits : Nat → List Int → List Nat
  | 0, _ => []
  | n + 1, l => quintet (l.take 5) :: packTrits n (l.drop 5)

/-- The 49 bytes of a block of 27 nonets (R36). -/
def packBlock (l : List Int) : List Nat := packTrits 49 (l.flatMap (toTrits 9))

/-- Nonets of a trit stream. -/
def nonetsOf : Nat → List Int → List Int
  | 0, _ => []
  | n + 1, l => ofTrits (l.take 9) :: nonetsOf n (l.drop 9)

/-- Are the 49 bytes codes that the shell accepts? (R37) -/
def codesOk (b : List Nat) : Bool :=
  (b.take 48).all (fun x => decide (x < 243)) && (b.drop 48).all (fun x => decide (108 ≤ x) && decide (x ≤ 134))

/-- The block that 49 bytes hold; none where they are rejected (R37). -/
def unpackBlock (b : List Nat) : Option (List Int) :=
  if codesOk b then some (nonetsOf 27 (b.flatMap fun (x : Nat) => toTrits 5 ((x : Int) - 121))) else none

/-- A block of zero nonets. -/
def zeroBlock : List Int := List.replicate 27 0

/-! ## Frames -/

/-- Region and index of a frame (R47). -/
def frameRegion (f : Int) : Int := trits f 23 19
def frameIndex (f : Int) : Int := trits f 18 0
/-- Is the frame backed? (R48) -/
def backed (s : State) (f : Int) : Bool :=
  match regionCount s (frameRegion f) with
  | some n => decide (0 ≤ frameIndex f) && decide (frameIndex f < n)
  | none => false
/-- A frame of regions +1 to +3 that is backed (R331, R335). -/
def backedMem (s : State) (f : Int) : Bool :=
  backed s f && decide (1 ≤ frameRegion f) && decide (frameRegion f ≤ 3)
/-- The frame of a physical address, and of a block. -/
def frameOf (pa : Int) : Int := pa / 19683
def blockFrame (b : Int) : Int := b / 729

/-! ## Atoms -/

/-- The load count of a key slot; key index 0 has a fixed key (R84). DESIGN CHOICE (log 55): a slot that is not loaded has a
key identity of its own, so that blocks written under it read back until the slot is loaded. -/
def keySeal (s : State) (k : Nat) : Nat := if k = 0 then 0 else (getKey s k).epoch

/-- The list of wrong symbols with one more change: changes of one symbol add up, and a symbol that is right again leaves the
list (R86). -/
def addError : List (Nat × Nat) → Nat → Nat → List (Nat × Nat)
  | [], y, c => if c = 0 then [] else [(y, c)]
  | (z, d) :: t, y, c =>
    if z = y then (if Nat.xor d c = 0 then t else (z, Nat.xor d c) :: t) else (z, d) :: addError t y c
/-- The atom that 64 free bytes make: 49 bytes of payload, a key index of 7 bits, symbols below 64 that change by a byte
(R39, R86, R401). -/
def boundAtom (a : Atom) : Atom :=
  { a with payload := (List.range 49).map fun i => a.payload.getD i 0 % 256
           key := a.key % 128
           errs := a.errs.foldl (fun l e => addError l (e.1 % 64) (e.2 % 256)) [] }
/-- The atom of a block; what no write has reached is free (R401). -/
def atomAt (s : State) (b : Int) : Atom := (mfind s.mem b.toNat).getD (boundAtom (Config.powerOnAtom b))
def setAtom (s : State) (b : Int) (a : Atom) : State := { s with mem := mset s.mem b.toNat a }

/-- The payload with its wrong symbols as they are (R86). -/
def rawPayload (a : Atom) : List Nat :=
  a.errs.foldl (fun l e => l.set e.1 (Nat.xor (l.getD e.1 0) e.2)) a.payload

/-- The first failing check of R40 on reading an atom from its device, by its R282 cause: 1 uncorrectable, which an expander
also reports (R83), 2 poison, 3 integrity. -/
def atomCause (s : State) (a : Atom) (key : Nat) : Option Nat :=
  let n := a.errs.length
  if a.reported ∨ n = 4 ∨ n = 5 then some 1
  else if n > 5 ∧ !Config.miscorrects a.errs then some 1
  else if a.poison then some 2
  else if n > 5 ∨ a.badTag then some 3
  else if a.key ≠ key ∨ a.key > 81 then some 3
  else if a.epoch ≠ keySeal s key then some 3
  else none

/-- The places of a payload in a view: 27 bytes, or 27 nonets where the codes are accepted (R37, R50). -/
def viewOf (payload : List Nat) (binary : Bool) : Except Nat (List Int) :=
  if binary then .ok ((List.range 27).map fun (j : Nat) => ((payload.getD j 0 : Nat) : Int))
  else match unpackBlock payload with
    | some l => .ok l
    | none => .error 4
/-- The contents of an atom that its device delivers in a view, or the first failing check (R40, R50). -/
def atomRead (s : State) (a : Atom) (key : Nat) (binary : Bool) : Except Nat (List Int) :=
  match atomCause s a key with
  | some c => .error c
  | none => viewOf a.payload binary
/-- The contents of a block that a cached line holds, `bad` where it is marked poisoned there: the device's errors are not met (R76,
R88). Contents that have been replaced under another key index since the line was filled do not pass (R77). -/
def lineRead (a : Atom) (bad : Bool) (key : Nat) (binary : Bool) : Except Nat (List Int) :=
  if bad then .error 2 else if a.key ≠ key then .error 3 else viewOf a.payload binary

/-- The payload of 27 nonets, or of 27 bytes followed by zero bytes (R36, R50). -/
def payloadOf (binary : Bool) (l : List Int) : List Nat :=
  if binary then l.map Int.toNat ++ List.replicate 22 0 else packBlock l

/-- A new atom for a whole block (R40). -/
def freshAtom (s : State) (key : Nat) (binary : Bool) (l : List Int) : Atom :=
  { payload := payloadOf binary l, key := key, epoch := keySeal s key }

/-- The atom as its device holds it after a write of the whole atom: no error is left (R40). -/
def cleanAtom (a : Atom) : Atom := { a with errs := [], badTag := false, reported := false }
/-- New contents of a block that stay on chip: the device still holds the old atom (R76). -/
def chipAtom (old new : Atom) : Atom :=
  { new with errs := old.errs, poison := old.poison, badTag := old.badTag, reported := old.reported }

/-! ## Places of a block to write -/

/-- The contents with the written places replaced. -/
def putPlaces (l : List Int) (ps : SMap Int) : List Int := ps.foldl (fun l p => l.set p.1 p.2) l
/-- Does the write cover all 27 places? -/
def wholeBlock (ps : SMap Int) : Bool := (List.range 27).all fun i => ps.any fun p => p.1 == i

end Sys2Proof.Machine
end

