-- ==== Sys2Proof/Machine/Wire.lean ====
section
/-! DEFINITION. Die-to-die links, the sending side: topology, routes, flits, messages, credits (13 R339 to R345, R359). -/

namespace Sys2Proof.Machine

open Sys2Proof

/-! ## Topology and routes (R339, R340, R345, R359) -/

/-- The two dies of each link: a compute die and its stack base die; mesh neighbours in a row, and in a column; HD-A and CD0,
CD3, CD6; HD-B and CD2, CD5, CD8. -/
def linkDies : List (Nat × Nat) :=
  [(0, 9), (1, 10), (2, 11), (3, 12), (4, 13), (5, 14), (6, 15), (7, 16), (8, 17)] ++
  [(0, 1), (1, 2), (3, 4), (4, 5), (6, 7), (7, 8)] ++ [(0, 3), (3, 6), (1, 4), (4, 7), (2, 5), (5, 8)] ++
  [(18, 0), (18, 3), (18, 6), (19, 2), (19, 5), (19, 8)]
/-- The full module count of a link (R340). -/
def linkModules (l : Nat) : Nat := if l < 9 then 24 else 8
/-- End `2 l` of link `l` is at its first die, end `2 l + 1` at its second. -/
def endDie (e : Nat) : Nat := let p := linkDies.getD (e / 2) (0, 0); if e % 2 = 0 then p.1 else p.2
def farEnd (e : Nat) : Nat := if e % 2 = 0 then e + 1 else e - 1
/-- The end at die `a` of its link to die `b`. -/
def endBetween (a b : Nat) : Option Nat := (List.range 54).find? fun e => endDie e == a && endDie (farEnd e) == b
/-- The links of a die. -/
def linksOf (d : Nat) : List Nat := (List.range 27).filter fun l => endDie (2 * l) == d || endDie (2 * l + 1) == d
/-- The modules of a link. -/
def linkWidths (s : State) (l : Nat) : List Width := (mfind s.widths l).getD (List.replicate (linkModules l) .full)

/-- Mesh neighbours of a compute die, the moves within its row first, then the lower die index (R359). -/
def meshMoves (d : Nat) : List Nat :=
  ((List.range 9).filter fun n => n / 3 == d / 3 && (n == d + 1 || n + 1 == d)) ++
  ((List.range 9).filter fun n => n == d + 3 || n + 3 == d)
/-- The moves from a die whose far die carries messages, over links that are up. -/
def liveMoves (ok : Nat → Bool) (up : Nat → Bool) (d : Nat) : List Nat :=
  if ok d then (meshMoves d).filter fun m => ok m && match endBetween d m with | some e => up (e / 2) | none => false
  else []
/-- One round of the search for hops: dies next to one that has been reached are reached in one hop more. -/
def meshRound (mv : Nat → List Nat) (l : List (Option Nat)) (n : Nat) : List (Option Nat) :=
  (List.range 9).map fun d =>
    match l.getD d none with
    | some k => some k
    | none => if (mv d).any fun m => (l.getD m none).isSome then some (n + 1) else none
/-- Hops from each compute die to the nearest of some dies; none where there is no path. -/
def meshDist (mv : Nat → List Nat) (goal : List Nat) : List (Option Nat) :=
  (List.range 8).foldl (meshRound mv) ((List.range 9).map fun d => if goal.contains d then some 0 else none)
/-- The next die from compute die `a` to compute die `b` (R359). -/
def nextHop (mv : Nat → List Nat) (a b : Nat) : Option Nat :=
  let l := meshDist mv [b]
  match l.getD a none with
  | some (k + 1) => (mv a).find? fun m => l.getD m none == some k
  | _ => none
/-- The compute dies that a host die is linked to, by mesh row, and their links (R340). -/
def hostDoors (h : Nat) : List (Nat × Nat) := if h = 18 then [(0, 21), (3, 22), (6, 23)] else [(2, 24), (5, 25), (8, 26)]
/-- Of some dies the first of fewest hops; none where there are none for any. -/
def leastOf (hops : Nat → Option Nat) (ds : List Nat) : Option Nat :=
  ds.foldl (fun best d => match best, hops d with
    | none, some _ => some d
    | some b, some n => (match hops b with | some m => if n < m then some d else best | none => some d)
    | b, none => b) none
/-- The nearest of some dies from a die: the first of fewest hops, its own row's before the others' (R345). -/
def nearestOf (mv : Nat → List Nat) (a : Nat) (ds : List Nat) : Option Nat :=
  leastOf (fun d => (meshDist mv [d]).getD a none) ((ds.filter fun d => d / 3 == a / 3) ++ ds.filter fun d => d / 3 != a / 3)
/-- The compute die at which messages leave the mesh for a die: of a host die, the nearest linked one whose link is up, which is
the first of the column-first path where that can be reached (R345). -/
def meshExit (mv : Nat → List Nat) (up : Nat → Bool) (a b : Nat) : Option Nat :=
  if b < 9 then some b
  else if b < 18 then some (b - 9)
  else nearestOf mv a (((hostDoors b).filter fun p => up p.2).map (·.1))
/-- Is a move one that changes the column, within a mesh row? (R359) -/
def sideways (a b : Nat) : Bool := decide (a / 3 = b / 3)
/-- The outgoing link of compute die `a` for a die, with the next die of the mesh where there is one (R345, R359). -/
def routeStep (mv : Nat → List Nat) (up : Nat → Bool) (a b : Nat) : Option (Nat × Option Nat) :=
  match meshExit mv up a b with
  | none => none
  | some x =>
    if a = b then none
    else if x = a then (endBetween a b).map fun e => (e / 2, none)
    else match nextHop mv a x with
      | none => none
      | some m => (endBetween a m).map fun e => (e / 2, some m)
/-- Does a message that reaches compute die `a` by a row-changing move turn here, on its way to a die? (R359) -/
def turnsAt (mv : Nat → List Nat) (up : Nat → Bool) (a b : Nat) : Bool :=
  match routeStep mv up a b with
  | some (_, some m) => sideways a m
  | _ => false
/-- The route table of compute die `a` (R345): for each die the outgoing link, and whether a message that comes by a row-changing
move goes on in channel set 1. -/
def routeTable (mv : Nat → List Nat) (up : Nat → Bool) (a : Nat) : SMap (Nat × Bool) :=
  (List.range 20).filterMap fun b => (routeStep mv up a b).map fun r => (b, (r.1, turnsAt mv up a b))
/-- Is a link up? -/
def linkUp (s : State) (l : Nat) : Bool := (getLink s (2 * l)).up
/-- The moves between compute dies that carry messages (R358, R359). -/
def packageMoves (s : State) : Nat → List Nat :=
  liveMoves (fun d => (getDie s d).life != .out) (linkUp s)
/-- The route tables are computed over the links that are up (R345, R346, R359). -/
def computeRoutes (s : State) : State :=
  (List.range 9).foldl (fun s d =>
    if (getDie s d).life = .out then s
    else updDie s d fun k => { k with routes := routeTable (packageMoves s) (linkUp s) d }) s
/-- The end by which die `a` sends to die `b`: by its route table; a stack base die through its compute die; a host die through
the linked die from which the way is shortest (R345). -/
def outEnd (s : State) (a b : Nat) : Option Nat :=
  if a < 9 then
    (mfind (getDie s a).routes b).map fun r => if endDie (2 * r.1) = a then 2 * r.1 else 2 * r.1 + 1
  else if a < 18 then endBetween a (a - 9)
  else
    let doors (h : Nat) : List Nat := ((hostDoors h).filter fun p => linkUp s p.2).map (·.1)
    let door :=
      if b < 18 then nearestOf (packageMoves s) (b % 9) (doors a)
      else leastOf (fun d => (meshDist (packageMoves s) (doors b)).getD d none) (doors a)
    door.bind fun d => endBetween a d

/-! ## Bits and bytes (R341, R342) -/

/-- The number that bytes hold, the least significant first. -/
def leNat : List Nat → Nat
  | [] => 0
  | b :: t => b + 256 * leNat t
def leBytes : Nat → Nat → List Nat
  | 0, _ => []
  | n + 1, x => x % 256 :: leBytes n (x / 256)
/-- Bits `hi` to `lo`. -/
def bits (x hi lo : Nat) : Nat := x / 2 ^ lo % 2 ^ (hi + 1 - lo)

/-- A flit header. -/
structure FlitHead where
  gen : Nat
  credit : List Nat
  valid : List Nat
  kind : Nat
  ack : Nat
  seq : Nat
  deriving DecidableEq, Repr

/-- The header of a flit of 240 bytes; none where a field is rejected (R341). -/
def flitHead (gen : Nat) (l : List Nat) : Option FlitHead :=
  let x := leNat (l.take 12)
  if l.length = 240 ∧ bits x 95 88 = 0 ∧ bits x 87 80 = gen ∧ bits x 63 57 = 0 ∧ bits x 51 48 ≤ 2 ∧ l.getD 239 0 = 0 then
    some { gen := gen, credit := (List.range 4).map fun c => bits x (67 + 4 * c) (64 + 4 * c)
           valid := (List.range 5).filter fun i => bits x (52 + i) (52 + i) == 1, kind := bits x 51 48, ack := bits x 47 24
           seq := bits x 23 0 }
  else none
/-- The bytes of a flit with one message, or none, in its slots. -/
def flitBytes (h : FlitHead) (slot : Option (Nat × List Nat)) : List Nat :=
  let x := h.gen * 2 ^ 80 + ((List.range 4).map fun c => h.credit.getD c 0 * 2 ^ (64 + 4 * c)).sum +
    (h.valid.map fun i => 2 ^ (52 + i)).sum + h.kind * 2 ^ 48 + h.ack * 2 ^ 24 + h.seq
  let base := leBytes 12 x ++ List.replicate 228 0
  match slot with
  | none => base
  | some (i, m) => (m.zipIdx).foldl (fun (l : List Nat) p => l.set (slotAt i + p.2) p.1) base
where
  /-- Where a slot begins. -/
  slotAt (i : Nat) : Nat := if i < 3 then 12 + 65 * i else 207 + 16 * (i - 3)
/-- The bytes of a slot of a flit. -/
def slotBytes (l : List Nat) (i : Nat) : List Nat :=
  if i < 3 then (l.drop (12 + 65 * i)).take 65 else (l.drop (207 + 16 * (i - 3))).take 16

/-- The bytes of a message: its header, and its block where it carries one (R342). -/
def msgBytes (cls op : Nat) (m : Msg) : List Nat :=
  let x := cls + op * 2 ^ 2 + m.src * 2 ^ 8 + m.dst * 2 ^ 13 + m.tag * 2 ^ 18 +
    (m.blocks.map fun b => 2 ^ (30 + b)).sum + (if m.block.isSome then 2 ^ 33 else 0) + (if m.poison then 2 ^ 34 else 0) +
    m.key * 2 ^ 35 + m.errCode * 2 ^ 60 + m.errCause * 2 ^ 56
  leBytes 8 x ++ packTrits 7 (toTrits 35 (81 * m.line)) ++ [0] ++
    match m.block with | some b => packBlock b | none => []
/-- Are a class and an opcode defined? (R344) -/
def opcodeOk (cls op : Nat) : Bool :=
  decide (1 ≤ op) && decide (op ≤ if cls = 0 then 7 else if cls = 1 then 3 else if cls = 2 then 5 else 6)
/-- The class, opcode and fields of a message in a slot; none where it is rejected (R342, R344). -/
def msgOf (full : Bool) (l : List Nat) : Option (Nat × Nat × Msg) :=
  let x := leNat (l.take 8)
  let cls := bits x 1 0
  let op := bits x 7 2
  let ad := (l.drop 8).take 7
  let a := ofTrits (ad.flatMap fun (b : Nat) => toTrits 5 ((b : Int) - 121))
  let isErr := decide (cls = 2) && decide (op = 5)
  let blocks := (List.range 3).filter fun b => bits x (30 + b) (30 + b) == 1
  let data := bits x 33 33 == 1
  let blk := if data then unpackBlock ((l.drop 16).take 49) else some []
  if opcodeOk cls op ∧ bits x 12 8 < 20 ∧ bits x 17 13 < 20 ∧ bits x 41 35 ≤ 81 ∧ bits x 55 42 = 0 ∧ (data → full) ∧
      (if isErr then 1 ≤ bits x 63 60 ∧ bits x 63 60 ≤ 8 ∧ bits x 59 56 ≤ 7 else bits x 63 56 = 0) ∧
      (data → blocks.length = 1) ∧ (ad.all fun b => decide (b < 243)) ∧ a % 81 = 0 ∧ -half 33 ≤ a ∧ a ≤ half 33 ∧
      l.getD 15 0 = 0 ∧ blk.isSome then
    some (cls, op, { src := bits x 12 8, dst := bits x 17 13, tag := bits x 29 18, blocks := blocks
                     poison := bits x 34 34 == 1, key := bits x 41 35, errCode := bits x 63 60, errCause := bits x 59 56
                     line := a / 81, block := if data then blk else none })
  else none

/-! ## Sending (R343) -/

/-- The channel set in which a message leaves die `a` (R359): 1 from the turn on, which is where its way has come by a
row-changing move and goes on by one that changes the column; `n` bounds the hops. -/
def channelGo (s : State) (a b : Nat) : Nat → Nat → Bool → Nat → Nat
  | 0, _, _, set => set
  | n + 1, at_, down, set =>
    if 9 ≤ at_ then set
    else match mfind (getDie s at_).routes b with
      | none => set
      | some r =>
        let m := endDie (if endDie (2 * r.1) = at_ then 2 * r.1 + 1 else 2 * r.1)
        let set := if down && r.2 then 1 else set
        if at_ = a then set else channelGo s a b n m (decide (m < 9) && !sideways at_ m) set
/-- The compute die at which a message from a die enters the mesh (R345). -/
def meshEntry (s : State) (src b : Nat) : Nat :=
  if src < 9 then src
  else if src < 18 then src - 9
  else match outEnd s src b with
    | some e => endDie (farEnd e)
    | none => 0
def channelSet (s : State) (a src b : Nat) : Nat :=
  if 9 ≤ a then 0 else channelGo s a b 20 (meshEntry s src b) false 0

/-- The fields of a flit that leaves an end: it acknowledges, and returns credits (R341). -/
def flitOf (k : LinkEnd) (kind seq : Nat) (slot : Option (Nat × List Nat)) : List Nat :=
  flitBytes { gen := k.gen, credit := k.freed.map (min 15), valid := match slot with | some p => [p.1] | none => []
              kind := kind, ack := k.lastGood, seq := seq } slot
/-- A data or control flit leaves an end: it is kept until it is acknowledged, and arrives at the other end. -/
def sendFlit (s : State) (e : Nat) (kind : Nat) (slot : Option (Nat × List Nat)) : State :=
  let k := getLink s e
  let seq := (k.sent + 1) % 2 ^ 24
  let b := flitOf k kind seq slot
  push (setLink s e { k with sent := seq, unacked := k.unacked ++ [(seq, b)], freed := k.freed.map fun n => n - min 15 n })
    (.flitReceive (farEnd e) b true)
/-- An idle flit: it is not numbered and not kept; it carries the acknowledgement and the credits (R341, R343). -/
def sendIdle (s : State) (e : Nat) : State :=
  let k := getLink s e
  push (setLink s e { k with freed := k.freed.map fun n => n - min 15 n }) (.flitReceive (farEnd e) (flitOf k 2 k.sent none) true)
/-- Is a class that of snoops or of responses, whose messages stay in their order? DEDUCED (log 80): a snoop that overtook the grant of
a line would find nothing to invalidate, and the directory of R349 would not hold. -/
def orderedClass (c : Nat) : Bool := c == 1 || c == 2
/-- The messages that may be sent next: of each class that holds a credit and each channel set, the first that waits; snoops and
responses behind one another. -/
def readyMsgs (k : LinkEnd) : List Nat :=
  (List.range k.waitq.length).filter fun i =>
    match k.waitq[i]? with
    | none => false
    | some m => decide (0 < k.credits.getD m.1 0) && (k.waitq.take i).all fun o =>
        !(o.1 == m.1 && o.2.1 == m.2.1) && !(orderedClass o.1 && orderedClass m.1)
/-- One of them; which one is not stated where there are several. -/
def nextOf (s : State) : List Nat → Option Nat
  | [i] => some i
  | l => l[Config.pick s.fresh % l.length]?
/-- Messages that may be sent are sent, up to 243 flits unacknowledged, a control flit that is owed first; none while a quiesce
window is open (R343, R347). -/
def pumpLink (e : Nat) : Nat → State → State
  | 0, s => s
  | n + 1, s =>
    let k := getLink s e
    if !k.up ∨ 243 ≤ k.unacked.length then s
    else if k.owes then pumpLink e n (sendFlit (setLink s e { k with owes := false }) e 1 none)
    else if k.quiesce then s
    else
      let l := readyMsgs k
      match nextOf s l with
      | none => s
      | some i =>
        match k.waitq[i]? with
        | none => s
        | some (c, _, m) =>
          let s := if l.length = 1 then s else tick s
          let s := setLink s e { k with waitq := k.waitq.eraseIdx i, credits := k.credits.modify c (· - 1) }
          pumpLink e n (sendFlit s e 0 (some (if m.length = 65 then 0 else 3, m)))
def pumpAll (s : State) (e : Nat) : State := pumpLink e ((getLink s e).waitq.length + 1) s
/-- A message is sent from a die towards its destination; one for which there is no way waits nowhere and is dropped. -/
def sendMsg (s : State) (die cls op : Nat) (m : Msg) : State :=
  match outEnd s die m.dst with
  | none => s
  | some e =>
    pumpAll (setLink s e { getLink s e with
      waitq := (getLink s e).waitq ++ [(cls, channelSet s die m.src m.dst, msgBytes cls op m)] }) e

end Sys2Proof.Machine
end

