-- ==== Sys2Proof/Machine/Lines.lean ====
section
/-! DEFINITION. Lines held on chip: the L1 of each core, the die caches, the home slices; which of them an access meets, their
fills, writes and evictions (03 R67 to R70, R76 to R78, R83 to R88; 13 R349 to R351). The contents of a block stand in one
place, its atom; a line holds its standing: key index, view, valid and dirty blocks. -/

namespace Sys2Proof.Machine

open Sys2Proof

/-- The line of a block, the block's place in it, and the block at a place of a line (R76). -/
def lineOf (b : Int) : Nat := (b / 3).toNat
def blockIn (b : Int) : Nat := (b % 3).toNat
def lineBlock (line b : Nat) : Int := 3 * (line : Int) + (b : Int)
/-- The home slice of a line of regions +1 to +3 (R81). -/
def lineHome (s : State) (line : Nat) : Nat :=
  homeOf s (243 * frameIndex ((line : Int) / 243) + (line : Int) % 243)
/-- A list with a block, ascending. -/
def withBlock (l : List Nat) (b : Nat) : List Nat := (List.range 3).filter fun i => l.contains i || i == b

def getLine (s : State) (die line : Nat) : CLine := mget {} (getDie s die).lines line
def setLine (s : State) (die line : Nat) (c : CLine) : State :=
  updDie s die fun d => { d with lines := mput {} d.lines line c }
def getL1 (s : State) (core line : Nat) : Option L1Line := mfind (getCore s core).l1 line
def setL1 (s : State) (core line : Nat) (l : L1Line) : State := updCore s core fun c => { c with l1 := mset c.l1 line l }
def delL1 (s : State) (core line : Nat) : State := updCore s core fun c => { c with l1 := mdel c.l1 line }
def getSlice (s : State) (h line : Nat) : Option SLine := mfind (getStack s h).held line
def setSlice (s : State) (h line : Nat) (l : SLine) : State := updStack s h fun k => { k with held := mset k.held line l }
def delSlice (s : State) (h line : Nat) : State := updStack s h fun k => { k with held := mdel k.held line }
def getDir (s : State) (h line : Nat) : DirEntry := mget .uncached (getStack s h).dir line
def setDir (s : State) (h line : Nat) (e : DirEntry) : State :=
  updStack s h fun k => { k with dir := mput .uncached k.dir line e }

/-! ## What an access meets -/

/-- The die of an access, and the core whose L1 it goes through. -/
def viaDie : Via → Option Nat
  | .home => none
  | .die d => some d
  | .core c => some (dieOf c)
def viaCore : Via → Option Nat
  | .core c => some c
  | _ => none
/-- The blocks of a die's line that have their contents on the die: valid ones, and those that writes which wait for ownership
have written (R350). -/
def lineHas (c : CLine) (b : Nat) : Bool := c.blocks.contains b || c.pend.any fun p => p.2 == b
/-- The die that owns a line, if one does (R349). -/
def ownerOf (s : State) (line : Nat) : Option Nat :=
  match getDir s (lineHome s line) line with
  | .owned d => some d
  | _ => none
/-- The writes of a block that are on their way to its home slice, the newest first (R351). -/
def flightsOf (s : State) (b : Int) : List Flight := (s.flights.filter fun f => !f.landed && decide (f.block = b)).reverse
/-- The key indices and views that the lines carry which an access would meet: in its L1 and die cache, in the home slice, in the
die cache of an owner; and those of its block's writes that are on their way (R76, R77). -/
def lineTags (s : State) (b : Int) (via : Via) : List (Nat × Bool) :=
  let line := lineOf b
  let ofDie (d : Option Nat) : List (Nat × Bool) := match d with
    | some d => let c := getLine s d line; if c.blocks = [] ∧ c.pend = [] then [] else [(c.key, c.binary)]
    | none => []
  (match viaCore via with
    | some c => (match getL1 s c line with | some l => [(l.key, l.binary)] | none => [])
    | none => []) ++
  ofDie (viaDie via) ++
  (match getSlice s (lineHome s line) line with | some l => [(l.key, l.binary)] | none => []) ++
  ofDie (ownerOf s line) ++ (flightsOf s b).map fun f => (f.key, f.binary)
/-- Does a cached line that the access meets carry another key index or view? (R77) -/
def lineClash (s : State) (b : Int) (at_ : Attr) : Bool := (lineTags s b at_.via).any fun t => t != (at_.key, at_.binary)
/-- The poison mark of a block in a line that holds it. -/
def l1Mark (s : State) (core line i : Nat) : Option Bool :=
  match getL1 s core line with
  | some l => if l.blocks.contains i then some (l.poison.contains i) else none
  | none => none
def dieMark (s : State) (die line i : Nat) : Option Bool :=
  let c := getLine s die line
  if lineHas c i then some (c.poison.contains i) else none
def sliceMark (s : State) (line i : Nat) : Option Bool :=
  match getSlice s (lineHome s line) line with
  | some l => if l.blocks.contains i then some (l.poison.contains i) else none
  | none => none
/-- The cached line from which an access reads a block, by its poison mark there: a write of the block that is on its way, a line on
the access's way that its policy admits, or the line of an owner; none where the device is read (R76, R77, R350). -/
def blockSource (s : State) (b : Int) (at_ : Attr) : Option Bool :=
  let line := lineOf b
  let i := blockIn b
  ((flightsOf s b).head?.map (·.bad)).orElse fun _ =>
  (if at_.policy = 0 then
    ((viaCore at_.via).bind fun c => l1Mark s c line i).orElse fun _ => (viaDie at_.via).bind fun d => dieMark s d line i
  else none).orElse fun _ =>
  (if at_.policy = 0 ∨ at_.policy = 1 then sliceMark s line i else none).orElse fun _ =>
  (ownerOf s line).bind fun d => dieMark s d line i
/-- Where a write to part of a block finds its contents on chip: as a read does, or in the home slice (R77, R400). -/
def mergeSource (s : State) (b : Int) (at_ : Attr) : Option Bool :=
  (blockSource s b at_).orElse fun _ => sliceMark s (lineOf b) (blockIn b)
/-- A list of marks with a block's set or cleared. -/
def withMark (l : List Nat) (i : Nat) (bad : Bool) : List Nat := if bad then withBlock l i else l.filter (· ≠ i)

/-! ## L1 (R69, R70, R76) -/

/-- The banks of a core that are ways of its L1. -/
def cacheWays (s : State) (core : Nat) : List Nat :=
  (List.range 36).filter fun i => bankMode s (clusterOf core) (36 * coreInCluster core + i) == some 0
/-- A block enters a core's L1, with its poison mark: into its line, or into a way of its set; where every way is taken, which line
leaves is not stated (R69, R76). -/
def l1Fill (s : State) (core : Nat) (b : Int) (at_ : Attr) (bad : Bool) : State :=
  let line := lineOf b
  let i := blockIn b
  match getL1 s core line with
  | some l => setL1 s core line { l with blocks := withBlock l.blocks i, poison := withMark l.poison i bad }
  | none =>
    let inSet := (getCore s core).l1.filter fun e => e.1 % 243 == line % 243
    let new (w : Nat) : L1Line := { way := w, key := at_.key, binary := at_.binary, blocks := [i], poison := withMark [] i bad }
    match (cacheWays s core).find? fun w => inSet.all fun e => e.2.way != w with
    | some w => setL1 s core line (new w)
    | none =>
      match inSet[Config.pick s.fresh % inSet.length]? with
      | some e => setL1 (delL1 (tick s) core e.1) core line (new e.2.way)
      | none => s
/-- A bank leaves the L1 with its lines, which are clean (R70). -/
def l1DropWay (s : State) (core way : Nat) : State :=
  updCore s core fun c => { c with l1 := c.l1.filter fun e => e.2.way != way }
/-- The cores of a die whose L1 holds a line: the die's L1 presence filter (R351). -/
def l1Holders (s : State) (die line : Nat) : List Nat :=
  (s.cores.filter fun (e : Nat × Core) => dieOf e.1 == die && (mfind e.2.l1 line).isSome).map (·.1)
/-- Every L1 copy of a line on a die is dropped (R351). -/
def l1DropDie (s : State) (die line : Nat) : State := (l1Holders s die line).foldl (fun s c => delL1 s c line) s
/-- A die's L1 copies of a block follow a write of it (R76). -/
def l1Follow (s : State) (die : Nat) (b : Int) (bad : Bool) : State :=
  let mark (l : L1Line) : L1Line :=
    if l.blocks.contains (blockIn b) then { l with poison := withMark l.poison (blockIn b) bad } else l
  (l1Holders s die (lineOf b)).foldl (fun s c => match getL1 s c (lineOf b) with
    | some l => setL1 s c (lineOf b) (mark l)
    | none => s) s

/-! ## Home slices (R76 to R78, R89) -/

/-- A block is written back to its memory device, with its poison mark (R85, R88). -/
def writeBackBlock (s : State) (b : Int) (bad : Bool) : State := setAtom s b { cleanAtom (atomAt s b) with poison := bad }
/-- The dirty blocks of a slice's line are written back. -/
def sliceClean (s : State) (h line : Nat) : State :=
  match getSlice s h line with
  | none => s
  | some l =>
    setSlice (l.dirty.foldl (fun s i => writeBackBlock s (lineBlock line i) (l.poison.contains i)) s) h line { l with dirty := [] }
/-- Room for a line in a home slice: of 27 lines of its set one leaves, which is not stated. -/
def sliceRoom (s : State) (h line : Nat) : State :=
  let inSet := (getStack s h).held.filter fun e => e.1 % 6561 == line % 6561
  if inSet.length < 27 then s
  else match inSet[Config.pick s.fresh % inSet.length]? with
    | some e => delSlice (sliceClean (tick s) h e.1) h e.1
    | none => s
/-- A block is held by its home slice from now on, dirty where it has been written there. What a line holds under another key index or
view leaves it (R78). -/
def sliceFill (s : State) (b : Int) (at_ : Attr) (bad dirty : Bool) : State :=
  let line := lineOf b
  let h := lineHome s line
  let i := blockIn b
  let new : SLine :=
    { key := at_.key, binary := at_.binary, blocks := [i], dirty := if dirty then [i] else [], poison := withMark [] i bad }
  match getSlice s h line with
  | some l =>
    if l.key = at_.key ∧ l.binary = at_.binary then
      setSlice s h line { l with blocks := withBlock l.blocks i, dirty := if dirty then withBlock l.dirty i else l.dirty
                                 poison := withMark l.poison i bad }
    else setSlice (sliceClean (setSlice s h line { l with dirty := l.dirty.filter (· ≠ i) }) h line) h line new
  | none => setSlice (sliceRoom s h line) h line new

/-! ## Die caches (R76, R349 to R351) -/

/-- A block's contents, and its poison mark, as a message carries them (R342). -/
def blockData (s : State) (b : Int) (bad : Bool) : List Int × Bool := ((unpackBlock (atomAt s b).payload).getD zeroBlock, bad)
/-- Is there a way from a die to the home slice of a line? -/
def reaches (s : State) (die line : Nat) : Bool := (outEnd s die (9 + lineHome s line)).isSome
/-- A die's next tag, by which a response is paired with its request (R342). -/
def nextTag (s : State) (die : Nat) : Nat := (getDie s die).nextTag
/-- A request of a die to the home slice of a line, under its next tag. -/
def toHome (s : State) (die op line key : Nat) (blocks : List Nat) (data : Option (List Int × Bool)) : State :=
  sendMsg (updDie s die fun d => { d with nextTag := (d.nextTag + 1) % 4096 }) die 0 op
    { src := die, dst := 9 + lineHome s line, tag := nextTag s die, blocks := blocks, key := key, line := line
      block := data.map (·.1), poison := match data with | some d => d.2 | none => false }
/-- A line of a die that is not owned, holds nothing and waits for nothing is invalid. -/
def tidyLine (c : CLine) : CLine := if !c.owned ∧ c.blocks = [] ∧ c.pend = [] ∧ c.asks = [] ∧ c.backs = [] then {} else c
/-- A die asks the home slice for blocks of a line, for ownership, or gives notice that it has left (R344). -/
def askHome (s : State) (die op line : Nat) (blocks : List Nat) : State :=
  let c := getLine s die line
  toHome (setLine s die line { c with asks := c.asks ++ [{ tag := nextTag s die, op := op, blocks := blocks }] })
    die op line c.key blocks none
/-- A dirty block is written back to the home slice, which stands for it from now on: what asks for the line meanwhile waits there until
the write-back has come (R350). -/
def backHome (s : State) (die line i : Nat) (bad : Bool) : State :=
  let c := getLine s die line
  let s := sliceFill s (lineBlock line i) { key := c.key, binary := c.binary } bad true
  toHome (setLine s die line { c with backs := c.backs ++ [nextTag s die] }) die 4 line c.key [i]
    (some (blockData s (lineBlock line i) bad))
/-- Has a die asked for a line in a way that makes it the owner? -/
def asksOwned (c : CLine) : Bool := c.asks.any fun a => a.op == 2 || a.op == 3
/-- A line leaves a die cache: a shared one without notice, an owned clean one with an eviction notice, a dirty one with a
write-back of each dirty block (R350), and an owned one with the die's L1 copies, since the home slice then keeps no place for the die
(R351). What it has asked for is not held when it comes. -/
def evictLine (s : State) (die line : Nat) : State :=
  let c := getLine s die line
  let s := setLine s die line (tidyLine
    { c with owned := false, blocks := [], dirty := [], poison := [], stale := c.stale || !c.asks.isEmpty })
  if !c.owned then s
  else if c.dirty = [] then askHome (setLine (l1DropDie s die line) die line { getLine s die line with key := c.key, binary := c.binary }) die 7 line []
  else c.dirty.foldl (fun s i => backHome s die line i (c.poison.contains i))
    (setLine (l1DropDie s die line) die line { getLine s die line with key := c.key, binary := c.binary })
/-- Does a line take a way of its set: does it hold blocks, or wait for some? -/
def takesWay (c : CLine) : Bool := !c.blocks.isEmpty || !c.pend.isEmpty || c.asks.any fun a => decide (a.op ≤ 3)
/-- Room for a line in a die cache: of 27 lines of its set one that waits for nothing leaves, which is not stated (R76); false where
every one waits. -/
def dieRoom (s : State) (die line : Nat) : Bool × State :=
  if takesWay (getLine s die line) then (true, s)
  else
    let inSet := (getDie s die).lines.filter fun e => e.1 % 2187 == line % 2187 && e.1 != line && takesWay e.2
    let idle := inSet.filter fun e => e.2.asks.isEmpty && e.2.pend.isEmpty && e.2.backs.isEmpty
    if inSet.length < 27 then (true, s)
    else match idle[Config.pick s.fresh % idle.length]? with
      | some e => (true, evictLine (tick s) die e.1)
      | none => (false, s)
/-- Does a line of a die carry a key index and a view, where it carries any? -/
def lineIs (c : CLine) (at_ : Attr) : Bool := !takesWay c || (c.key == at_.key && c.binary == at_.binary)
/-- A die asks the home slice for those of some blocks of a line that it neither holds nor waits for (R79, R344, R350). -/
def dieFetch (s : State) (die line : Nat) (bs : List Nat) (at_ : Attr) : State :=
  let c := getLine s die line
  let bs := bs.filter fun i => !lineHas c i && !c.asks.any fun a => a.blocks.contains i
  if bs = [] ∨ c.asks.any (fun a => a.op != 1) ∨ c.stale ∨ c.backs ≠ [] ∨ !lineIs c at_ ∨ !reaches s die line then s
  else match dieRoom s die line with
    | (true, s) => askHome (setLine s die line { getLine s die line with key := at_.key, binary := at_.binary }) die 1 line bs
    | (false, s) => s
/-- What a die asks for so as to own a line in which it is to write some blocks (R350, R351): an upgrade where it holds them, else
read owned. -/
def fetchOwned (s : State) (die line : Nat) (bs : List Nat) : State :=
  let c := getLine s die line
  if bs = [] ∨ c.asks ≠ [] ∨ c.backs ≠ [] then s
  else askHome s die (if !c.owned && bs.all c.blocks.contains then 3 else 2) line bs
/-- A die asks to own a line in which writes wait. -/
def askOwned (s : State) (die line : Nat) : State :=
  fetchOwned s die line ((List.range 3).filter fun i => (getLine s die line).pend.any fun p => p.2 == i)
/-- The blocks of a line that an instruction's stores write are asked for together, where the die must own them first (R79). -/
def storeFetch (s : State) (die line : Nat) (bs : List Nat) (at_ : Attr) : State :=
  let c := getLine s die line
  let bs := if c.owned then bs.filter fun i => !c.blocks.contains i else bs
  if bs = [] ∨ c.asks ≠ [] ∨ c.backs ≠ [] ∨ !lineIs c at_ ∨ !reaches s die line then s
  else match dieRoom s die line with
    | (true, s) => fetchOwned (setLine s die line { getLine s die line with key := at_.key, binary := at_.binary }) die line bs
    | (false, s) => s
/-- A write of a block in a die cache: into an owned line it is performed at package scope; else it is accepted, and the die asks
for ownership (R349, R351). None where its set has no room (R76). -/
def dieWrite (s : State) (die : Nat) (core : Option Nat) (b : Int) (at_ : Attr) (bad : Bool) : Option State :=
  let line := lineOf b
  let i := blockIn b
  match if reaches s die line then dieRoom s die line else (false, s) with
  | (false, _) => none
  | (true, s) =>
    let s := l1Follow s die b bad
    let c : CLine := { getLine s die line with poison := withMark (getLine s die line).poison i bad }
    if c.owned ∧ c.blocks.contains i then some (setLine s die line { c with dirty := withBlock c.dirty i })
    else
      let p := (core, i)
      some (askOwned (setLine s die line { c with key := at_.key, binary := at_.binary
                                                  pend := if c.pend.contains p then c.pend else c.pend ++ [p] }) die line)
/-- The line is owned: the writes that waited for blocks that have come are merged into it (R350). -/
def takeOwned (c : CLine) : CLine :=
  let ws := (c.pend.map (·.2)).filter c.blocks.contains
  { c with owned := true, pend := c.pend.filter fun p => !ws.contains p.2
           dirty := (List.range 3).filter fun i => c.dirty.contains i || ws.contains i }
/-- Writes of a core that are not yet performed at package scope: those that wait for ownership of a line of its die, and those on
their way to a home slice (R351). -/
def writesWait (s : State) (core : Nat) : Bool :=
  ((getDie s (dieOf core)).lines.any fun e => e.2.pend.any fun p => p.1 == some core) ||
  s.flights.any fun f => f.core == some core
/-- Are the writes of a die's cores and engines performed at package scope? -/
def dieSettled (s : State) (die : Nat) : Bool :=
  ((getDie s die).lines.all fun e => decide (e.2.pend = [])) && s.flights.all fun f => f.die != die
/-- A die's copy of a line is dropped; its dirty blocks are the home slice's (R350). -/
def dropDieCopy (s : State) (die line : Nat) : State :=
  let c := getLine s die line
  let s := c.dirty.foldl (fun s i =>
    sliceFill s (lineBlock line i) { key := c.key, binary := c.binary } (c.poison.contains i) true) s
  setLine s die line (tidyLine
    { c with owned := false, blocks := [], dirty := [], poison := c.poison.filter fun i => c.pend.any fun p => p.2 == i })
/-- Does a die wait for the home slice's answer to a request for a line? (R344) -/
def asksFor (s : State) (line die : Nat) : Bool := (getLine s die line).asks.any fun a => decide (a.op ≤ 3)
/-- The directory entry of a line whose copies are dropped: a die to which the line may be on its way keeps its place (R349, R350). -/
def withoutCopies (s : State) (line : Nat) : DirEntry → DirEntry
  | .uncached => .uncached
  | .shared ds => match ds.filter (asksFor s line) with | [] => .uncached | l => .shared l
  | .owned d => if asksFor s line d then .owned d else .uncached
/-- A line's copies are dropped at every L1 and die cache: a write of no die's reaches the home slice past them (R78, R350). -/
def dropCopies (s : State) (line : Nat) : State :=
  let s := (s.dies.filter fun (e : Nat × Die) => (mfind e.2.lines line).isSome).foldl (fun s e => dropDieCopy s e.1 line) s
  let s := (s.cores.filter fun (e : Nat × Core) => (mfind e.2.l1 line).isSome).foldl (fun s e => delL1 s e.1 line) s
  setDir s (lineHome s line) line (withoutCopies s line (getDir s (lineHome s line) line))

/-! ## Writes at the home slice (R76 to R78) -/

/-- A write of a block is performed at its home slice: the slice holds it where it held its line or where the policy allocates; else
the atom is rewritten. -/
def landWrite (s : State) (b : Int) (at_ : Attr) (alloc bad : Bool) : State :=
  if (getSlice s (lineHome s (lineOf b)) (lineOf b)).isSome || alloc then sliceFill s b at_ bad true
  else writeBackBlock s b bad
/-- A write of a die on its way is performed. -/
def landFlight (s : State) (f : Flight) : State :=
  landWrite { s with flights := s.flights.map fun g => if g = f then { g with landed := true } else g } f.block
    { key := f.key, binary := f.binary } f.alloc f.bad

/-! ## Key slots (R84) -/

/-- A line leaves every die cache, every L1 and its home slice; what they hold dirty, and what waits to be merged, is written back.
What has been asked for under the key index is not held when it comes. -/
def dropLine (s : State) (line : Nat) : State :=
  let s := (s.dies.filter fun (e : Nat × Die) => (mfind e.2.lines line).isSome).foldl (fun s e =>
    let c := getLine s e.1 line
    let s := (List.range 3).foldl (fun s i =>
      if c.dirty.contains i || c.pend.any fun p => p.2 == i then writeBackBlock s (lineBlock line i) (c.poison.contains i) else s) s
    setLine s e.1 line (tidyLine { key := c.key, binary := c.binary, asks := c.asks, stale := !c.asks.isEmpty, backs := c.backs })) s
  let h := lineHome s line
  delSlice (sliceClean (dropCopies s line) h line) h line
/-- The lines that die caches and home slices hold or wait for under a key index. -/
def keyLines (s : State) (k : Nat) : List Nat :=
  (s.dies.flatMap fun (e : Nat × Die) => (e.2.lines.filter fun l => l.2.key == k && takesWay l.2).map (·.1)) ++
  s.sbs.flatMap fun (e : Nat × Stack) => (e.2.held.filter fun l => l.2.key == k).map (·.1)
/-- Every on-chip line that carries a key index is written back and dropped, after the writes under it that are on their way (R84). -/
def dropKey (s : State) (k : Nat) : State :=
  let s := (s.flights.filter fun f => !f.landed && f.key == k).foldl landFlight s
  let s := (keyLines s k).foldl dropLine s
  (s.cores.filter fun (e : Nat × Core) => e.2.l1.any fun l => l.2.key == k).foldl (fun s e =>
    updCore s e.1 fun c => { c with l1 := c.l1.filter fun l => l.2.key != k }) s

/-! ## Cells of cached lines (R87) -/

/-- A cell of a line in the die cache of die `h`, or in the slice of stack `h - 9`, fails. A corrected failure is counted; else a clean
line is dropped, and a dirty one is marked poisoned (R87). -/
def cacheError (h line : Nat) (fixed : Bool) (s : State) : State :=
  if h < 9 then
    let c := getLine s h line
    if c.blocks = [] then s
    else if fixed then updDie s h fun d => { d with cellsFixed := d.cellsFixed + 1 }
    else if c.dirty = [] then
      (if c.asks ≠ [] ∨ c.pend ≠ [] then
        setLine (l1DropDie s h line) h line
          { c with blocks := [], poison := c.poison.filter fun i => c.pend.any fun p => p.2 == i }
      else evictLine (l1DropDie s h line) h line)
    else setLine s h line { c with poison := c.blocks }
  else match getSlice s (h - 9) line with
    | none => s
    | some l =>
      if fixed then updStack s (h - 9) fun k => { k with cellsFixed := k.cellsFixed + 1 }
      else if l.dirty = [] then delSlice s (h - 9) line
      else setSlice s (h - 9) line { l with poison := l.blocks }

/-! ## Fills and writes -/

/-- The block is held from now on, with its poison mark, by the caches on the access's way that its policy admits (R76, R77, R79). An
access that a policy keeps from a level leaves what that level holds as it is. An L1 holds what its die holds or waits for. -/
def lineFill (s : State) (b : Int) (at_ : Attr) (bad : Bool) : State :=
  if at_.policy = 0 then
    match viaDie at_.via with
    | some d =>
      let s := dieFetch s d (lineOf b) [blockIn b] at_
      let c := getLine s d (lineOf b)
      match viaCore at_.via with
      | some k =>
        if lineHas c (blockIn b) || (c.asks.any fun a => a.blocks.contains (blockIn b)) || !reaches s d (lineOf b) then
          l1Fill s k b at_ bad
        else s
      | none => s
    | none => sliceFill s b at_ bad false
  else if at_.policy = 1 then sliceFill s b at_ bad false
  else s
/-- Does some line on chip hold the block's contents, or a write bring them? -/
def heldOnChip (s : State) (b : Int) : Bool :=
  let i := blockIn b
  (s.dies.any fun (e : Nat × Die) => lineHas (getLine s e.1 (lineOf b)) i) ||
  (s.cores.any fun (e : Nat × Core) => (l1Mark s e.1 (lineOf b) i).isSome) ||
  (sliceMark s (lineOf b) i).isSome || !(flightsOf s b).isEmpty
/-- An uncorrectable atom is rewritten poisoned, with its payload as read, and an event of code 1 is sent (R88). Lines that hold the
block keep it. DEDUCED (log 56): at every read of the device, by a fill, the scrubber or an uncached access. -/
def poisonAtom (s : State) (b : Int) : State :=
  let a := atomAt s b
  let a' : Atom :=
    { cleanAtom a with badTag := a.badTag, payload := if heldOnChip s b then a.payload else rawPayload a, poison := true }
  sendEvent (setAtom s b a') 1 (27 * b)
/-- A block's atom as reads find it: with the poison mark of the line that holds it. -/
def atomSeen (s : State) (b : Int) : Atom :=
  let a := atomAt s b
  { a with poison := (blockSource s b { policy := 1 }).getD a.poison }
/-- A block as it stood before a write is kept for fetches of the launches that run (R112). -/
def keepVersion (s : State) (b : Int) (a : Atom) : State :=
  if (s.launches.any fun e => e.2.st == .running) && !(s.code.any fun v => v.block == b && v.stamp == s.starts) then
    { s with code := s.code ++ [{ block := b, stamp := s.starts, atom := a }] }
  else s
def keepCode (s : State) (b : Int) : State := keepVersion s b (atomSeen s b)
/-- Is a write of a block not yet performed at package scope: does it wait for ownership on some die, or is it on its way to the home
slice? (R351) -/
def blockWaits (s : State) (b : Int) : Bool :=
  decide (0 ≤ b) && ((s.dies.any fun (e : Nat × Die) => (getLine s e.1 (lineOf b)).pend.any fun p => p.2 == blockIn b) || !(flightsOf s b).isEmpty)
/-- A launch starts: its fetches see the writes that have been performed at package scope (R112). -/
def newStart (s : State) : State :=
  { s with starts := s.starts + 1
           code := s.code.map fun v => if v.stamp = s.starts ∧ blockWaits s v.block then { v with stamp := v.stamp + 1 } else v }
/-- A write or atomic leaves a die for the home slice, as a request of opcode 5 or 6; `whole` where it carries a whole block. Copies of
the line on its way are dropped (R78, R344, R351); those of a line that the die is to own are dropped when the home slice snoops the
die. -/
def sendWrite (s : State) (die : Nat) (b : Int) (at_ : Attr) (alloc whole bad : Bool) : State :=
  let line := lineOf b
  let s := l1DropDie s die line
  let c := getLine s die line
  let s := if asksOwned c ∨ c.pend ≠ [] then s else evictLine s die line
  let f : Flight :=
    { die := die, tag := nextTag s die, core := viaCore at_.via, block := b, key := at_.key, binary := at_.binary, alloc := alloc
      bad := bad }
  toHome { s with flights := s.flights ++ [f] } die (if at_.atomic then 6 else 5) line at_.key [blockIn b]
    (if whole && !at_.atomic then some (blockData s b bad) else none)
/-- New contents of a block are written: in the die cache for a write-back page; else at the home slice, to which a die sends them
(R76 to R78, R350, R351). What no die sends is performed there at once, and every other copy is dropped. -/
def placeAtom (s : State) (b : Int) (at_ : Attr) (stream whole : Bool) (a : Atom) : State :=
  let s := keepCode s b
  let s := setAtom s b (chipAtom (atomAt s b) a)
  let s := { s with flights := s.flights.map fun f => if f.block = b then { f with bad := a.poison } else f }
  let alloc := !stream && (at_.policy == 0 || at_.policy == 1)
  let atHome (s : State) : State := landWrite (dropCopies s (lineOf b)) b at_ alloc a.poison
  match viaDie at_.via with
  | none => atHome s
  | some d =>
    let send (s : State) : State :=
      if reaches s d (lineOf b) then sendWrite s d b at_ alloc whole a.poison else atHome s
    if at_.policy = 0 ∧ !stream ∧ !at_.atomic then (dieWrite s d (viaCore at_.via) b at_ a.poison).getD (send s) else send s

end Sys2Proof.Machine
end

