-- ==== Sys2Proof/Machine/Visible.lean ====
section
/-! DEFINITION. Visibility: which agents may still read a value before the last write to a location, and what releases, acquires,
fences, barriers and completions end (04 R93 to R108). Contents always hold the last write of the coherence order; the entries of
`late` give the values before it, the newest first. What is kept of happens-before is never less than the rule's: an agent is taken to
know of a write where it may not. -/

namespace Sys2Proof.Machine

open Sys2Proof

/-! ## Agents, scopes, locations -/

/-- The smallest scope of an agent: 1 core, 2 cluster, 3 die, 4 package, 5 system (R94, R274). -/
def agentLevel (a : Agent) : Nat :=
  match a.path with
  | .core | .stream | .sync => 1
  | .copy | .matrix => 2
  | .search => 4
  | .host => 5
/-- The cluster of an agent of a cluster. -/
def agentCluster (a : Agent) : Nat := if agentLevel a = 1 then a.place / 3 else a.place
/-- Is it an agent of a die: a core of it, or an engine of one of its clusters? -/
def onDie (die : Nat) (a : Agent) : Bool := decide (agentLevel a ≤ 2) && agentCluster a / 27 == die
/-- Does agent `a`'s instance of a scope, or of the smallest that it has, contain `b`? (R94) -/
def scopeHas (scope : Nat) (a b : Agent) : Bool :=
  match max scope (agentLevel a) with
  | 0 | 1 => agentLevel b == 1 && b.place == a.place
  | 2 => decide (agentLevel b ≤ 2) && agentCluster b == agentCluster a
  | 3 => decide (agentLevel b ≤ 2) && agentCluster b / 27 == agentCluster a / 27
  | 4 => decide (agentLevel b ≤ 4)
  | _ => true
/-- The agent of a core, or of the engines that its groups issue to, on a path. -/
def onPath (core : Nat) (p : Path) : Agent :=
  match p with
  | .core | .stream | .sync => { path := p, place := core }
  | .copy | .matrix => { path := p, place := clusterOf core }
  | .search | .host => { path := p }
/-- Who an agent acts for: a core on each of its paths, else the agent itself. -/
def owner (a : Agent) : Agent := if agentLevel a = 1 then { a with path := .core } else a
/-- The paths of a mask number (R274): core 1, stream 2, copy 4, matrix 8, search 16, host 32. -/
def maskPaths (m : Int) : List Path :=
  ([(1, .core), (2, .stream), (4, .copy), (8, .matrix), (16, .search), (32, .host)] : List (Int × Path)).filterMap fun p =>
    if m / p.1 % 2 = 1 then some p.2 else none
/-- The key of a location: a nonet or byte of memory by its physical address, a nonet of a cluster's scratchpad (R93). -/
def memKey (pa : Int) : Nat := 2 * pa.toNat
def spKey (cl : Nat) (a : Int) : Nat := 2 * (2125764 * cl + a.toNat) + 1

/-! ## Writes -/

/-- One location of an access: its key, the view of the access, its contents. -/
structure Loc where
  key : Nat
  binary : Bool
  val : Int
  deriving DecidableEq, Repr

/-- The writes kept of a location, the newest first. -/
def lateAt (s : State) (k : Nat) : List Late := mget [] s.late k
/-- Every write kept is changed. -/
def mapLate (s : State) (f : Late → Late) : State := { s with late := s.late.map fun p => (p.1, p.2.map f) }
/-- Agents that are known to follow a write. -/
def learn (e : Late) (l : List Agent) : Late := { e with knows := l.foldl (fun k a => if k.contains a then k else k ++ [a]) e.knows }
/-- Must an agent no longer read what stood before a write? -/
def sees (e : Late) (ag : Agent) : Bool := e.all || e.knows.contains ag
/-- A bank of a cluster's scratchpad is cleared: nothing that stood in it can be read any more (R70). -/
def endBank (s : State) (cl b : Nat) : State :=
  let lo := spKey cl (19683 * (b : Int))
  { s with late := s.late.filter fun e => e.1 % 2 == 0 || decide (e.1 < lo) || decide (lo + 2 * 19683 ≤ e.1) }
/-- What a write of an agent publishes (R101): the releases that it is, or the fences of its agent whose mask names its path, where it
is strong; an atomic goes on with what the write before it published, since it belongs to its release sequence. -/
def headsOf (s : State) (ag : Agent) (strong : Nat) (rmw : Bool) (l : List Late) : List Head :=
  ((s.made.filter fun r => owner r.by_ == owner ag && r.mask.contains ag.path && (decide (0 < strong) || agentLevel ag != 1)).map
    fun r => { rel := r, path := ag.path }) ++
  if rmw then (match l with | e :: _ => e.heads | [] => []) else []
/-- An access writes locations, by their keys; `old` gives their contents before it, which agents may go on reading (R98, R104);
none where no agent could read them in the view of the access. -/
def noteWrite (s : State) (ag : Agent) (strong : Nat) (rmw binary : Bool) (ks : List Nat) (old : Nat → Option Int) : State :=
  let one (m : SMap (List Late)) (k : Nat) : SMap (List Late) :=
    let l := mget [] m k
    let e : Late :=
      { stamp := s.fresh, old := (old k).getD 0, binary := binary, strong := strong, by_ := ag, knows := [ag]
        all := Config.settled s.fresh || (old k).isNone, heads := headsOf s ag strong rmw l }
    if !e.all then mset m k (e :: l) else if l = [] ∧ e.heads = [] then m else mset m k [e]
  { s with late := ks.foldl one s.late, fresh := s.fresh + 1 }

/-! ## Reads -/

/-- Are a write and an access of an agent at a scope morally strong towards each other? Both are events of one location (R93,
R100). -/
def morallyStrong (e : Late) (ag : Agent) (strong : Nat) : Bool :=
  decide (0 < e.strong) && decide (0 < strong) && scopeHas e.strong e.by_ ag && scopeHas strong ag e.by_
/-- The writes of a location that an access may read past: those that its agent need not follow, in its own view; an atomic reads
past none that is morally strong towards it (R98, R104). -/
def past (s : State) (ag : Agent) (strong : Nat) (rmw : Bool) (l : Loc) : List Late :=
  (lateAt s l.key).takeWhile fun e => !sees e ag && e.binary == l.binary && !(rmw && morallyStrong e ag strong)
/-- The number of the newest write of a location that an access may not read past; 0 where there is none. -/
def floorAt (s : State) (l : Loc) (p : List Late) : Nat :=
  match (lateAt s l.key).drop p.length with
  | e :: _ => e.stamp
  | [] => 0
/-- What a location held before the writes from number `cut` on. -/
def valAt (cut : Option Nat) (l : Loc) (p : List Late) : Int × Nat :=
  match cut with
  | none => (l.val, 0)
  | some n =>
    let q := p.takeWhile fun e => decide (n ≤ e.stamp)
    (match q.getLast? with | some e => e.old | none => l.val, q.length)
/-- The agent has read the write at a place of a location's list; of a strong read it is kept what it may synchronise with (R101). -/
def tookAt (s : State) (ag : Agent) (strong k n : Nat) : State :=
  match (lateAt s k).drop n with
  | [] => s
  | e :: t =>
    { s with
      late := mset s.late k ((lateAt s k).take n ++ learn e [ag] :: t)
      taken := if strong = 0 then s.taken
        else e.heads.foldl (fun l h => if l.contains (owner ag, h) then l else l ++ [(owner ag, h)]) s.taken }
/-- A single-copy atomic read: every location as it stood at one point of the order of writes, no earlier than the agent may read
(R98, R99, R104). -/
def seeAtomic (s : State) (ag : Agent) (strong : Nat) (rmw : Bool) (ls : List Loc) : List Int × State :=
  let ps := ls.map fun l => (l, past s ag strong rmw l)
  let low := ps.foldl (fun n p => max n (floorAt s p.1 p.2)) 0
  let cuts := (ps.flatMap fun p => p.2.map (·.stamp)).filter (low < ·)
  let cut := cuts[Config.seenAt s.fresh % (cuts.length + 1)]?
  let vs := ps.map fun p => (p.1, valAt cut p.1 p.2)
  (vs.map (·.2.1),
   vs.foldl (fun s v => tookAt s ag strong v.1.key v.2.2) { s with fresh := if cuts = [] then s.fresh else s.fresh + 1 })
/-- What an access reads: at one point of the order where it is single-copy atomic, else each location at one of its own (R99). -/
def seeLocs (s : State) (ag : Agent) (strong : Nat) (rmw one : Bool) (ls : List Loc) : List Int × State :=
  if one then seeAtomic s ag strong rmw ls
  else
    let r := ls.foldl (fun (p : List Int × State) l =>
      let q := seeAtomic p.2 ag strong rmw [l]
      (p.1 ++ q.1, q.2)) ([], s)
    r

/-! ## Releases (R101 to R103, R106, R107) -/

/-- Is some write kept that a release covers? -/
def relHeld (s : State) (id : Nat) : Bool := s.late.any fun p => p.2.any fun e => e.rel.any fun r => r.id == id
/-- The engines that a release reaches: those of its mask within its scope (R106). -/
def enginesOf (core scope : Nat) (mask : List Path) : List Agent :=
  (mask.filter fun p => (decide (2 ≤ scope) && (p == .copy || p == .matrix)) || (decide (4 ≤ scope) && p == .search)).map
    (onPath core)
/-- The writes that an agent must follow, by a test, happen before a release; `ags` are the agents that follow it at once. -/
def releaseOf (s : State) (r : Release) (p : Late → Bool) (ags : List Agent) : State :=
  mapLate { s with fresh := s.fresh + 1 } fun e => if p e then { learn e ags with rel := e.rel ++ [r] } else e
/-- Does a core's release of a mask cover a write? (R102) -/
def releaseCovers (e : Late) (core : Nat) (mask : List Path) : Bool :=
  e.knows.contains (onPath core .sync) || mask.any fun p => (p == .core || p == .stream) && e.knows.contains (onPath core p)
/-- The release that a core makes next. -/
def nextRelease (s : State) (core scope : Nat) (mask : List Path) (kind : RelKind) : Release :=
  { id := s.fresh, by_ := onPath core .core, scope := scope, mask := mask, kind := kind }
/-- A release write or fence of a core: every write that it covers happens before it (R102, R106). Strong writes that follow it publish
it, where it still holds any (R101). -/
def release (s : State) (core scope : Nat) (mask : List Path) (kind : RelKind) (ags : List Agent := []) : State :=
  let r := nextRelease s core scope mask kind
  let s := releaseOf s r (fun e => releaseCovers e core mask) (onPath core .sync :: enginesOf core scope mask ++ ags)
  { s with made := (s.made ++ if kind = .work then [] else [r]).filter fun r => relHeld s r.id }
/-- A release that is a write is published by no other write. -/
def unmade (s : State) (id : Nat) : State := { s with made := s.made.filter fun r => r.id != id }
/-- The completion of an agent's operation, or a write of one that arrives at a port, as a release with its path as the mask (R107,
R109). -/
def agentRelease (s : State) (ag : Agent) (scope : Nat) : Release :=
  { id := s.fresh, by_ := ag, scope := scope, mask := [ag.path] }
def releaseBy (s : State) (ag : Agent) (scope : Nat) : State :=
  releaseOf s (agentRelease s ag scope) (fun e => e.knows.contains ag) []
/-- Writes of an agent other than a core that are a release, or by which it publishes the completion of its operation: they happen
before it as well (R107, R109). -/
def publish {α : Type} (s : State) (ag : Agent) (scope : Nat) (k : State → α × State) : α × State :=
  let r := agentRelease s ag scope
  let t := k { s with made := s.made ++ [r], fresh := s.fresh + 1 }
  (t.1, unmade (mapLate t.2 fun e => if e.knows.contains ag then { e with rel := e.rel ++ [r] } else e) r.id)
/-- What the agents of a die have done is released by the machine: the end of a launch's work there, the drain of an invalidation
(R65, R111, R245). -/
def releaseDie (s : State) (die scope : Nat) : State :=
  releaseOf s { id := s.fresh, by_ := onPath (81 * die) .core, scope := scope, mask := [], kind := .work }
    (fun e => e.knows.any (onDie die)) []
/-- What search operations have done is released by the machine (R64, R65). -/
def releaseSearch (s : State) : State :=
  releaseOf s { id := s.fresh, by_ := { path := .search }, scope := 4, mask := [], kind := .work }
    (fun e => e.knows.contains { path := .search }) []

/-! ## Acquires (R101 to R103, R107, R108) -/

/-- Every path (R111, R112). -/
def allPaths : List Path := [.core, .stream, .copy, .matrix, .search, .host]
/-- The agents that follow an acquire of a mask: on the paths that it names (R102). -/
def followers (core : Nat) (mask : List Path) : List Agent := onPath core .sync :: mask.map (onPath core)
/-- Are a release and an acquire of an agent morally strong by their scopes? (R100, R101) -/
def towards (r : Release) (ag : Agent) (scope : Nat) : Bool := scopeHas r.scope r.by_ ag && scopeHas scope ag r.by_
/-- What a core's acquire meets, and what its releases and acquires have followed before, happens before what follows it (R102). -/
def follow (s : State) (core : Nat) (mask : List Path) (p : Release → Bool) : State :=
  mapLate s fun e =>
    if e.knows.contains (onPath core .sync) || e.rel.any p then learn e (followers core mask) else e
/-- Does an acquire of a mask at a scope synchronise with a release through one of the heads that strong reads have taken? (R101) -/
def linked (hs : List Head) (ag : Agent) (scope : Nat) (mask : List Path) (r : Release) : Bool :=
  towards r ag scope && hs.any fun h => h.rel.id == r.id && mask.contains h.path
/-- The heads of the write that an agent has last read at a location. -/
def sourceHeads (s : State) (ag : Agent) (k : Nat) : List Head :=
  match (lateAt s k).find? fun e => sees e ag with
  | some e => e.heads
  | none => []
/-- An acquire read of a core, from the locations that it has read (R101). -/
def acquireRead (s : State) (core scope : Nat) (mask : List Path) (ks : List Nat) : State :=
  follow s core mask (linked (ks.flatMap (sourceHeads s (onPath core .core))) (onPath core .core) scope mask)
/-- The heads that a core's strong reads have taken, for a fence whose mask names their path (R101). -/
def takenBy (s : State) (core : Nat) (mask : List Path) : List Head :=
  if mask.contains .core then (s.taken.filter fun t => t.1 == onPath core .core).map (·.2) else []
/-- An acquire fence of a core; a sequential fence meets every sequential fence before it that is morally strong towards it as well
(R101, R103). -/
def acquire (s : State) (core scope : Nat) (mask : List Path) (kind : RelKind) : State :=
  follow s core mask fun r =>
    linked (takenBy s core mask) (onPath core .core) scope mask r ||
    (kind == .seq && r.kind == .seq && towards r (onPath core .core) scope)
/-- A full or sequential fence: an acquire and a release. DEDUCED (log 81): what precedes it on the core's own paths is ordered before
those paths of its mask, and before the engines of its mask within its scope alone (R96, R103, R106). -/
def fullFence (s : State) (core scope : Nat) (mask : List Path) (kind : RelKind) : State :=
  release (acquire s core scope mask kind) core scope mask kind
    ((mask.filter fun p => p == .core || p == .stream).map (onPath core))
/-- An acquire that meets what the machine has released for launches, packets and invalidations, within its scope (R65, R112, R245). -/
def acquireWork (s : State) (core scope : Nat) (mask : List Path) : State :=
  follow s core mask fun r => r.kind == .work && towards r (onPath core .core) scope
/-- The acquire of a status word that lands (R65, R107, R245). -/
def acquireStatus (s : State) (core : Nat) (a : Acq) : State :=
  match a.meets with
  | none => acquireWork s core a.scope a.mask
  | some ids => follow s core a.mask fun r =>
      ids.contains r.id && towards r (onPath core .core) a.scope && r.mask.any a.mask.contains
/-- The end of a wait on a named barrier: it meets the arrivals that completed the phase; those of engines where its mask names them,
whatever their scope (R107, R108). -/
def barrierAcquire (s : State) (core : Nat) (mask : List Path) (ids : List Nat) : State :=
  follow s core mask fun r => ids.contains r.id && r.mask.any mask.contains
/-- A waiting load that found blocks absent and then present meets the writes that set their presence, those of engines where its mask
names them; it reads nothing older than those in the blocks (R107, R108). -/
def presenceAcquire (s : State) (core : Nat) (mask : List Path) (ids ks : List Nat) : State :=
  let s := follow s core mask fun r => ids.contains r.id && (r.by_.path == .core || mask.contains r.by_.path)
  { s with late := s.late.map fun p =>
      (p.1, p.2.map fun e =>
        if ks.contains p.1 && (ids.any fun n => decide (e.stamp ≤ n)) && (e.by_.path == .core || mask.contains e.by_.path) then
          learn e [onPath core .core]
        else e) }
/-- The agents of the host and of the peers (R94, R109). -/
def hostAgent : Agent := { path := .host }
def peerAgent (p : Nat) : Agent := { path := .host, place := p + 1 }
/-- A strong acquire read of an access that arrives at a port, with the mask of the host's path (R109). -/
def acquireBy (s : State) (ag : Agent) (ks : List Nat) : State :=
  mapLate s fun e =>
    if e.rel.any (linked (ks.flatMap (sourceHeads s ag)) ag 5 [.host]) then learn e [ag] else e
/-- The record of a launch: the host follows what the machine has released of it (R111). -/
def releaseHost (s : State) : State :=
  mapLate s fun e => if e.rel.any fun r => r.kind == .work then learn e [hostAgent] else e
/-- The sequential fence that a point of R112 implies on a list of cores. -/
def impliedFence (s : State) (scope : Nat) (cores : List Nat) : State :=
  cores.foldl (fun s c => fullFence s c scope allPaths .seq) s
/-- The fence that the start of a launch implies on a core. DEDUCED (log 81): it meets what was released for the launch, and what the
host has written before it (R109, R112). -/
def startFence (s : State) (core : Nat) : State :=
  let s := fullFence s core 5 allPaths .seq
  mapLate (acquireWork s core 5 allPaths) fun e =>
    if e.knows.contains hostAgent then learn e (followers core allPaths) else e

end Sys2Proof.Machine
end

