-- ==== Sys2Proof/Machine/Memory.lean ====
section
/-! DEFINITION. Memory: reads and writes of blocks of every region, merges of partial writes, the host windows, peers, control
space, the combining buffer and the scratchpad (01 R40, R41, R400; 02 R47 to R52; 03 R72 to R79, R88; 04 R97, R110). -/

namespace Sys2Proof.Machine

open Sys2Proof

/-! ## Blocks of device memory -/

/-- A read of one block of regions +1 to +3: from a cached line, or from its device (R40, R76, R77, R88). -/
def readMemBlock (s : State) (b : Int) (at_ : Attr) : Except Nat (List Int) × State :=
  if lineClash s b at_ then (.error 3, s)
  else match blockSource s b at_ with
    | some bad => (lineRead (atomAt s b) bad at_.key at_.binary, lineFill s b at_ bad)
    | none =>
      match atomRead s (atomAt s b) at_.key at_.binary with
      | .ok l => (.ok l, lineFill s b at_ false)
      | .error 1 => (.error 1, lineFill (poisonAtom s b) b at_ true)
      | .error 2 => (.error 2, lineFill s b at_ true)
      | .error c => (.error c, s)

/-- The places that a write gives, completed where it covers only some trits of a nonet (R266). -/
def fillParts (l : List Int) (ps : SMap Int) (cov : SMap (List Nat)) : SMap Int :=
  ps.map fun p => match mfind cov p.1 with
    | some ts => (p.1, ts.foldl (fun x t => setTrits x t t (trit p.2 t)) (l.getD p.1 0))
    | none => p
/-- Does a write cover the whole block? (R400) -/
def wholeWrite (ps : SMap Int) (cov : SMap (List Nat)) : Bool := cov.isEmpty && wholeBlock ps
/-- The contents of a block after a write to it. -/
def mergeBlock (l : List Int) (ps : SMap Int) (cov : SMap (List Nat)) : List Int := putPlaces l (fillParts l ps cov)

/-- The contents into which a write of part of a block is merged (R77, R400). -/
def mergeRead (s : State) (b : Int) (at_ : Attr) : Except Nat (List Int) :=
  match mergeSource s b at_ with
  | some bad => lineRead (atomAt s b) bad at_.key at_.binary
  | none => atomRead s (atomAt s b) at_.key at_.binary
/-- A write to one block of regions +1 to +3: whole, or merged under R400; `stream` for a stream store, which replaces a
whole block whatever a cached line carries (R77, R78). -/
def writeMemBlock (s : State) (b : Int) (at_ : Attr) (stream : Bool) (ps : SMap Int) (cov : SMap (List Nat)) : State :=
  let whole := wholeWrite ps cov
  let new (l : List Int) : Atom := freshAtom s at_.key at_.binary (mergeBlock l ps cov)
  if stream && whole then placeAtom s b at_ true true (new zeroBlock)
  else if lineClash s b at_ then sendEvent s 5 (27 * b)
  else if whole then placeAtom s b at_ false true (new zeroBlock)
  else
    match mergeRead s b at_ with
    | .ok l => placeAtom s b at_ stream false (new l)
    | .error 1 => poisonAtom s b
    | .error 2 => s
    | .error _ => sendEvent s 5 (27 * b)

/-! ## The host windows -/

/-- A byte of host memory. -/
def hostByte (s : State) (a : Nat) : Byte := (mfind s.host a).getD (Config.powerOnHostByte a)
def setHostByte (s : State) (a : Nat) (v : Byte) : State := { s with host := mset s.host a v }
def hostBytes (s : State) (a : Nat) : Nat → List Nat
  | 0 => []
  | n + 1 => (hostByte s a).toNat :: hostBytes s (a + 1) n
def setHostBytes (s : State) (a : Nat) : List Nat → State
  | [] => s
  | x :: t => setHostBytes (setHostByte s a (BitVec.ofNat 8 x)) (a + 1) t

/-- The host bus address of the packed block of nonet block `b` of region -1 (R49). -/
def hostBlockAddr (s : State) (b : Int) : Nat :=
  s.hT + (35721 * frameIndex (blockFrame b) + 49 * (b % 729)).toNat
/-- The host bus address of a byte of region -2 (R49). -/
def hostByteAddr (s : State) (pa : Int) : Nat :=
  s.hB + (19683 * frameIndex (frameOf pa) + pa % 19683).toNat

/-- A read of a T-image block: only check 5 applies (R41). -/
def readHostBlock (s : State) (b : Int) : Except Nat (List Int) :=
  match unpackBlock (hostBytes s (hostBlockAddr s b) 49) with
  | some l => .ok l
  | none => .error 4

/-- A T-image block as it stood before a write is kept for fetches of the launches that run (R47, R112). -/
def keepHostCode (s : State) (b : Int) : State := keepVersion s b { payload := hostBytes s (hostBlockAddr s b) 49 }
/-- The block of region -1 that a byte of host memory lies in (R49). -/
def hostBlockAt (s : State) (a : Nat) : Option Int :=
  let f := (a - s.hT) / 35721
  if s.hT ≤ a ∧ (f : Int) < s.countHost then some (729 * ((f : Int) - 3 ^ 19) + ((a - s.hT) % 35721 / 49 : Nat)) else none
/-- Bytes of host memory are written otherwise than as a block of region -1. -/
def putHostBytes (s : State) (a : Nat) (l : List Nat) : State :=
  let bs := distinct ((List.range l.length).filterMap fun i => hostBlockAt s (a + i))
  setHostBytes (bs.foldl keepHostCode s) a l
/-- A write to a T-image block, whole or merged by the host port (R400). -/
def writeHostBlock (s : State) (b : Int) (ps : SMap Int) (cov : SMap (List Nat)) : State :=
  let s := keepHostCode s b
  if wholeWrite ps cov then setHostBytes s (hostBlockAddr s b) (packBlock (putPlaces zeroBlock ps))
  else match readHostBlock s b with
    | .ok l => setHostBytes s (hostBlockAddr s b) (packBlock (mergeBlock l ps cov))
    | .error _ => sendEvent s 5 (27 * b)

/-! ## Control space -/

/-- The frame of control space that is the queue page, one of the 27 (R166, R356). -/
def queueFrame : Int := ((Config.queueFrame % 27 : Nat) : Int)
/-- The register and the nonet of it at an address of control space: the queue page holds the queues' registers, three
nonets each in the order of R166, two blocks to a queue; where the others stand is not stated. -/
def controlAt (pa : Int) : Option (CReg × Nat) :=
  if frameIndex (frameOf pa) = queueFrame then
    let o := (pa % 19683).toNat
    let q := o / 54
    let r := o % 54 / 3
    if q ≤ 81 ∧ r < 11 then some (.queue q r, o % 3) else none
  else (Config.controlPlace (3 * (pa / 3))).map fun r => (r, (pa % 3).toNat)

/-- One nonet of control space; 0 where no register stands. -/
def readControlNonet (s : State) (pa : Int) : Int :=
  match controlAt pa with
  | some (r, j) => trits (readCReg s r) (9 * j + 8) (9 * j)
  | none => 0

/-- Writes to one block of control space: each register takes the nonets written to it at once; registers of the queue
page's odd blocks, and every register for an agent in user mode, are not written (R166). DESIGN CHOICE (log 57): the registers of
one block take effect in ascending address. -/
def writeControlBlock (s : State) (b : Int) (super : Bool) (ps : SMap Int) : State :=
  if super then
    (List.range 9).foldl (fun s i =>
      let w := (List.range 3).filterMap fun j => (mfind ps (3 * i + j)).map fun v => (j, v)
      match w, controlAt (27 * b + 3 * i) with
      | [], _ => s
      | _, none => s
      | w, some (r, _) => writeCReg s r (w.foldl (fun x p => setTrits x (9 * p.1 + 8) (9 * p.1) p.2) (readCReg s r))) s
  else s

/-! ## Peers (R364) -/

/-- The port of a frame's region, and the block at the peer that a block of the region is carried to. -/
def peerPort (b : Int) : Nat := (-3 - frameRegion (blockFrame b)).toNat
def peerBlock (p : Port) (b : Int) : Int := 729 * (p.base + frameIndex (blockFrame b)) + b % 729
/-- Is the block in the window that the peer exports? -/
def peerReached (p : Port) (b : Int) : Bool :=
  p.up && decide (0 ≤ frameIndex (blockFrame b)) && decide (frameIndex (blockFrame b) < p.count)
/-- A request leaves for the peer, in the layout of R342 with port numbers in place of dies. Beside it stand the operands of a partial
write. -/
def peerSend (s : State) (n op : Nat) (b : Int) (block : Option (List Int)) (part : List (Nat × Int)) : State :=
  let p := getPort s n
  let m : Msg := { src := n, dst := Config.farPort n % 8, tag := p.out.length % 4096, blocks := [blockIn (peerBlock p b)]
                   line := lineOf (peerBlock p b), block := block }
  setPort s n { p with out := p.out ++ [(msgBytes 0 op m, part)] }

/-! ## Blocks of any region -/

/-- A read of the block `b`: 27 nonets, or 27 bytes in a binary view, or the R282 cause of the failing check. What a peer answers
comes from outside; it refuses an address beyond its window. -/
def readBlock (s : State) (b : Int) (at_ : Attr) : Except Nat (List Int) × State :=
  let r := frameRegion (blockFrame b)
  if 1 ≤ r ∧ r ≤ 3 then readMemBlock s b at_
  else if r = -1 then (readHostBlock s b, s)
  else if r = -2 then
    (.ok ((List.range 27).map fun (i : Nat) => ((hostByte s (hostByteAddr s (27 * b + i))).toNat : Int)), s)
  else if r = 0 then (.ok ((List.range 27).map fun (i : Nat) => readControlNonet s (27 * b + i)), s)
  else if peerReached (getPort s (peerPort b)) b then
    (.ok ((List.range 27).map fun i => wrap 9 (Config.word (s.fresh + i))),
      { peerSend s (peerPort b) 1 b none [] with fresh := s.fresh + 27 })
  else (.error 1, s)

/-- A write to places of the block `b`. A write to a peer leaves the package; one beyond the peer's export takes the uncorrectable-error
outcome, of which a write shows the event of code 1 alone. DEDUCED (log 41): it has no landing, and no atom that could be poisoned (R364,
R400). -/
def writeBlock (s : State) (b : Int) (at_ : Attr) (stream : Bool) (ps : SMap Int) (cov : SMap (List Nat) := []) : State :=
  let r := frameRegion (blockFrame b)
  if 1 ≤ r ∧ r ≤ 3 then writeMemBlock s b at_ stream ps cov
  else if r = -1 then writeHostBlock s b ps cov
  else if r = -2 then
    ps.foldl (fun s p => putHostBytes s (hostByteAddr s (27 * b + p.1)) [p.2.toNat]) s
  else if r = 0 then
    writeControlBlock s b at_.super
      (fillParts ((List.range 27).map fun (i : Nat) => readControlNonet s (27 * b + i)) ps cov)
  else if peerReached (getPort s (peerPort b)) b then
    if wholeWrite ps cov then peerSend s (peerPort b) 4 b (some (putPlaces zeroBlock ps)) []
    else peerSend s (peerPort b) 5 b none ps
  else sendEvent s 1 (27 * b)

/-- A read of units in order, reading each block once. -/
def readUnitsGo (s : State) (last : Option (Int × Attr × List Int)) : List PUnit → Except Nat (List Int) × State
  | [] => (.ok [], s)
  | u :: t =>
    let b := u.pa / 27
    let i := (u.pa % 27).toNat
    let hit := match last with
      | some (b', a, l) => if b' = b ∧ a = u.attr then some l else none
      | none => none
    match hit with
    | some l =>
      match readUnitsGo s last t with
      | (.ok r, s) => (.ok (l.getD i 0 :: r), s)
      | (.error c, s) => (.error c, s)
    | none =>
      match readBlock s b u.attr with
      | (.error c, s) => (.error c, s)
      | (.ok l, s) =>
        match readUnitsGo s (some (b, u.attr, l)) t with
        | (.ok r, s) => (.ok (l.getD i 0 :: r), s)
        | (.error c, s) => (.error c, s)
def readUnits (s : State) (l : List PUnit) : Except Nat (List Int) × State := readUnitsGo s none l

/-- Is a unit a location whose writes agents may see late: one of device memory? -/
def lateUnit (u : PUnit) : Bool := let r := frameRegion (frameOf u.pa); decide (1 ≤ r) && decide (r ≤ 3)
/-- A read of units by an agent, at a scope where it is strong: each as the last write left it, or as it stood before writes that the
agent need not have seen (R98, R104); `one` where the access is single-copy atomic (R99). DESIGN CHOICE (log 82): a read of a host or
peer window is never one that was issued earlier (R110). -/
def readAs (s : State) (ag : Agent) (strong : Nat) (rmw one : Bool) (us : List PUnit) : Except Nat (List Int) × State :=
  match readUnits s us with
  | (.error c, s) => (.error c, s)
  | (.ok l, s) =>
    if us.all lateUnit then
      let r := seeLocs s ag strong rmw one ((us.zip l).map fun p => { key := memKey p.1.pa, binary := p.1.attr.binary, val := p.2 })
      (.ok r.1, r.2)
    else (.ok l, s)

/-- The writes of one instruction to one block; a later write to a place replaces an earlier one (R97). `cover` gives the trits that
are written of a nonet that is not written whole (R266). -/
structure BlockWrite where
  block : Int
  attr : Attr
  places : SMap Int
  cover : SMap (List Nat) := []
  deriving DecidableEq, Repr

/-- A unit's write joins the last writes to its block, where those are made in the same way. -/
def gather (ws : List BlockWrite) (u : PUnit) (v : Int) : List BlockWrite :=
  match ws with
  | [] => [{ block := u.pa / 27, attr := u.attr, places := [((u.pa % 27).toNat, v)] }]
  | w :: t =>
    if w.block = u.pa / 27 ∧ w.attr = u.attr ∧ (t.all fun w => w.block != u.pa / 27) then
      { w with places := mset w.places (u.pa % 27).toNat v } :: t
    else w :: gather t u v

def gatherAll (l : List (PUnit × Int)) : List BlockWrite := l.foldl (fun ws p => gather ws p.1 p.2) []

/-- Writes performed at once, which every agent sees: those that are no events of R93. -/
def writeUnits (s : State) (l : List (PUnit × Int)) : State :=
  (gatherAll l).foldl (fun s w => writeBlock s w.block w.attr false w.places) s

/-- What a block holds under a key index in a view, as the last write left it; none where it cannot be read so. -/
def blockVals (s : State) (b : Int) (key : Nat) (binary : Bool) : Option (List Int) :=
  let a := atomAt s b
  if a.epoch = keySeal s key then (lineRead a (atomSeen s b).poison key binary).toOption else none
/-- An agent writes places of a block of device memory, which others may see late (R104). -/
def noteBlock (s : State) (ag : Agent) (strong : Nat) (rmw : Bool) (b : Int) (key : Nat) (binary : Bool) (ps : SMap Int) : State :=
  if lateUnit { pa := 27 * b, attr := {} } then
    noteWrite s ag strong rmw binary (ps.map fun p => memKey (27 * b + p.1)) fun k =>
      (blockVals s b key binary).map fun l => l.getD ((k / 2) % 27) 0
  else s
/-- Would a write to a block meet a failing check (R77, R400)? -/
def writeFails (s : State) (w : BlockWrite) : Bool :=
  let r := frameRegion (blockFrame w.block)
  let whole := wholeWrite w.places w.cover
  if 1 ≤ r ∧ r ≤ 3 then
    lineClash s w.block w.attr || (!whole &&
      match mergeRead s w.block w.attr with
      | .ok _ => false
      | .error _ => true)
  else decide (r = -1) && !whole && match readHostBlock s w.block with | .ok _ => false | .error _ => true
/-- A write of an agent to a block; `rmw` where it is an atomic's. -/
def writeBlockAs (s : State) (ag : Agent) (strong : Nat) (w : BlockWrite) (rmw : Bool := false) : State :=
  writeBlock (noteBlock s ag strong rmw w.block w.attr.key w.attr.binary w.places) w.block w.attr false w.places w.cover
/-- Engine writes. -/
def writeAs (s : State) (ag : Agent) (l : List (PUnit × Int)) : State :=
  (gatherAll l).foldl (fun s w => writeBlockAs s ag 0 w) s

/-! ## The combining buffer (R77, R110) -/

/-- An entry is sent to its home slice or window; to a home slice as a partial write, past the caches of its core and die (R78, R351). -/
def sendEntry (s : State) (core : Nat) (e : CombEntry) : State :=
  writeBlock (noteBlock s (onPath core .stream) 0 false e.block e.key e.binary e.places) e.block
    { key := e.key, binary := e.binary, super := e.super, policy := 2, via := .core core } true e.places e.cover

/-- Every entry of a core's buffer is sent. -/
def drainBuffer (s : State) (core : Nat) : State :=
  let es := (getCore s core).comb
  es.foldl (fun s e => sendEntry s core e) (updCore s core fun c => { c with comb := [] })
/-- Every buffer of a list of cores is drained. -/
def drainBuffers (s : State) (cores : List Nat) : State := cores.foldl drainBuffer s

/-- Is the block in a host or peer window? Writes to one leave in the order in which they happen (R110). -/
def inWindow (b : Int) : Bool := decide (frameRegion (blockFrame b) < 0)
/-- Entries of a buffer are sent: the one at a place, and where it goes to a window those that went there before it (R110). -/
def sendAt (s : State) (core i : Nat) : State :=
  let es := (getCore s core).comb
  match es[i]? with
  | none => s
  | some e =>
    let out := if inWindow e.block then (es.take i).filter fun f => inWindow f.block else []
    let s := updCore s core fun c =>
      { c with comb := (if inWindow e.block then (es.take i).filter fun f => !inWindow f.block else es.take i) ++ es.drop (i + 1) }
    sendEntry (out.foldl (fun s f => sendEntry s core f) s) core e
/-- The place of a block's entry. -/
def combPlace (s : State) (core : Nat) (b : Int) : Option Nat := (getCore s core).comb.findIdx? fun e => decide (e.block = b)
/-- May a stream store join its block's entry: is it under the same key index and view (R77), and in a window the latest there
(R110)? -/
def combJoins (s : State) (core i : Nat) (e : CombEntry) (w : BlockWrite) : Bool :=
  e.key == w.attr.key && e.binary == w.attr.binary && (e.super == w.attr.super || decide (frameRegion (blockFrame w.block) ≠ 0)) &&
  (!inWindow w.block || !(((getCore s core).comb.drop (i + 1)).any fun f => inWindow f.block))
/-- The trits of a nonet that are covered once a write joins an entry; none where it is covered whole. -/
def joinCover (e : CombEntry) (w : BlockWrite) (i : Nat) : Option (List Nat) :=
  match mfind w.cover i with
  | none => none
  | some ts =>
    if (mfind e.places i).isSome && (mfind e.cover i).isNone then none
    else
      let l := (List.range 9).filter fun t => ts.contains t || ((mfind e.cover i).getD []).contains t
      if l.length = 9 then none else some l
/-- A write joins an entry. -/
def combMerge (e : CombEntry) (w : BlockWrite) : CombEntry :=
  let old := (List.range 27).map fun i => mget 0 e.places i
  { e with
    places := (fillParts old w.places w.cover).foldl (fun m p => mset m p.1 p.2) e.places
    cover := w.places.foldl (fun m p => match joinCover e w p.1 with | some l => mset m p.1 l | none => mdel m p.1) e.cover }

/-- A stream store of one block enters the buffer: it joins its block's entry under the same key index and view; it
sends the entry of another key index or view and begins a new one; where the buffer is full an entry is sent, which one
is not stated; a full entry is sent at once. -/
def streamBlock (s : State) (core : Nat) (w : BlockWrite) : State :=
  let s := match combPlace s core w.block with
    | some i =>
      match (getCore s core).comb[i]? with
      | some e => if combJoins s core i e w then s else sendAt s core i
      | none => s
    | none => s
  let s := match combPlace s core w.block with
    | some _ => s
    | none =>
      let s := if (getCore s core).comb.length ≥ 9 then tick (sendAt s core (Config.pick s.fresh % 9)) else s
      let e : CombEntry :=
        { block := w.block, key := w.attr.key, binary := w.attr.binary, super := w.attr.super, places := [] }
      updCore s core fun c => { c with comb := c.comb ++ [e] }
  let s := updCore s core fun c => { c with comb := c.comb.map fun e => if e.block = w.block then combMerge e w else e }
  match combPlace s core w.block with
  | some i =>
    match (getCore s core).comb[i]? with
    | some e => if wholeWrite e.places e.cover then sendAt s core i else s
    | none => s
  | none => s

/-- Stores of one instruction of a core, in their order: each block's on the stream path, where it is a non-temporal store or its page
is write-combining, else on the core path; a stream store of the instruction to the same block goes first (R78, R95, R97). -/
def storeBlocks (s : State) (core strong : Nat) (nt : Bool) (ws : List BlockWrite) : State :=
  (ws.foldl (fun (p : State × List Int) w =>
    if nt || w.attr.policy == 2 then (streamBlock p.1 core w, w.block :: p.2)
    else
      let s := if p.2.contains w.block then
          match combPlace p.1 core w.block with | some i => sendAt p.1 core i | none => p.1
        else p.1
      (writeBlockAs s (onPath core .core) strong w, p.2)) (s, [])).1

/-! ## The scratchpad (R52, R72, R74) -/

/-- The size of the scratchpad space. -/
def spSize : Int := 2125764
/-- Is the address inside the space and in a bank settled in scratch mode? -/
def spIn (s : State) (cl : Nat) (a : Int) : Bool :=
  decide (0 ≤ a) && decide (a < spSize) && (bankMode s cl (a.toNat / 19683) == some 1)
/-- A nonet of the scratchpad, with its parity (R87). -/
def spRead (s : State) (cl : Nat) (a : Int) : Int := mget 0 (getBank s cl (a.toNat / 19683)).data (a.toNat % 19683)
def spParity (s : State) (cl : Nat) (a : Int) : Bool :=
  (getBank s cl (a.toNat / 19683)).parity.contains (a.toNat % 19683)
/-- Write of a nonet; a core store sets its block's presence trit (R72). -/
def spWrite (s : State) (cl : Nat) (core : Bool) (a : Int) (v : Int) : State :=
  let b := a.toNat / 19683
  let o := a.toNat % 19683
  updBank s cl b fun k =>
    { k with data := mput 0 k.data o v, parity := k.parity.filter (· ≠ o)
             present := if core && !(k.present.contains (o / 27)) then o / 27 :: k.present else k.present }
/-- Presence of the block of an address. -/
def spPresent (s : State) (cl : Nat) (a : Int) : Bool :=
  (getBank s cl (a.toNat / 19683)).present.contains (a.toNat % 19683 / 27)
def spSetPresent (s : State) (cl : Nat) (a : Int) (v : Bool) : State :=
  let o := a.toNat % 19683 / 27
  updBank s cl (a.toNat / 19683) fun k =>
    { k with present := if v then (if k.present.contains o then k.present else o :: k.present)
                        else k.present.filter (· ≠ o) }
/-- Reads of a run of nonets. -/
def spReads (s : State) (cl : Nat) (a : Int) : Nat → List Int
  | 0 => []
  | n + 1 => spRead s cl a :: spReads s cl (a + 1) n
def spWrites (s : State) (cl : Nat) (core : Bool) (a : Int) : List Int → State
  | [] => s
  | v :: t => spWrites (spWrite s cl core a v) cl core (a + 1) t

/-- A read of a run of nonets by an agent (R98, R104). -/
def spSee (s : State) (ag : Agent) (strong : Nat) (rmw one : Bool) (cl : Nat) (a : Int) (n : Nat) : List Int × State :=
  seeLocs s ag strong rmw one ((spReads s cl a n).zipIdx.map fun p => { key := spKey cl (a + p.2), binary := false, val := p.1 })
/-- Absent blocks of a run that a core's store makes present (R72). -/
def spAbsent (s : State) (cl : Nat) (bs : List Int) : List Int :=
  bs.filter fun b => spIn s cl (27 * b) && !spPresent s cl (27 * b)
/-- Blocks become present by a write of an agent: what happens before that write is released to the waiting loads that find them so
(R72, R108). -/
def presentBy (s : State) (ag : Agent) (cl : Nat) (bs : List Int) : State :=
  if bs = [] then s
  else bs.foldl (fun t b =>
    updBank (spSetPresent t cl (27 * b) true) cl (b.toNat / 729) fun k => { k with setBy := mset k.setBy (b.toNat % 729) s.fresh })
    (releaseBy s ag 4)
/-- The blocks that a run of nonets touches. -/
def spBlocks (a : Int) (n : Nat) : List Int :=
  if n = 0 then [] else (List.range ((a + n - 1) / 27 - a / 27 + 1).toNat).map fun (j : Nat) => a / 27 + (j : Int)
/-- A write of a run of nonets by an agent; `core` where it is a core's store, which makes its blocks present (R72). -/
def spPut (s : State) (ag : Agent) (strong cl : Nat) (core : Bool) (a : Int) (l : List Int) (rmw : Bool := false) : State :=
  let t := spWrites (noteWrite s ag strong rmw false ((List.range l.length).map fun (j : Nat) => spKey cl (a + j)) fun k =>
    some (spRead s cl ((k / 2 % 2125764 : Nat) : Int))) cl core a l
  presentBy t ag cl (if core then spAbsent s cl (spBlocks a l.length) else [])

/-! ## Structures reached by physical address (R402) -/

/-- The attributes of R402: ternary view, key index 0. -/
def physAttr : Attr := {}

/-- A block reached by physical address. -/
def readPhys (s : State) (pa : Int) : Except Nat (List Int) × State := readBlock s (pa / 27) physAttr
/-- A run of nonets at a physical address. -/
def physUnits (pa : Int) (n : Nat) : List PUnit := (List.range n).map fun (i : Nat) => { pa := pa + i, attr := physAttr }
def writePhys (s : State) (pa : Int) (l : List Int) : State :=
  writeUnits s ((physUnits pa l.length).zip l)
/-- Would a write of part of the block at `pa` be discarded or poisoned? The first failing check (R400). -/
def physCause (s : State) (pa : Int) : Option Nat :=
  match readBlock s (pa / 27) physAttr with
  | (.error c, _) => some c
  | (.ok _, _) => none

/-- A field `hi` to `lo` of a block's 243 trits, trit `9j + i` being trit `i` of nonet `j`. -/
def blockField (l : List Int) (hi lo : Nat) : Int := trits (ofNonets l) hi lo
/-- The block that holds a value of 243 trits. -/
def blockOf (x : Int) : List Int := toNonets 27 x

end Sys2Proof.Machine
end

