-- ==== Sys2Proof/Machine/Translate.lean ====
section
/-! DEFINITION. Translation: the walk of R57, page-table entries, cached translations, invalidation of them
(02 R42, R43, R53 to R66). -/

namespace Sys2Proof.Machine

open Sys2Proof

/-- The kinds of access that R57 tells apart. -/
inductive AccKind
  | load | store | atomic | fetch | eread | ewrite
  deriving DecidableEq, Repr

/-- The translation registers under which an access is made (R53), its die, and the caches it goes through. -/
structure XlCtx where
  die : Nat
  via : Via
  super : Bool
  userOk : Bool
  uroot : Int
  sroot : Int
  asid : Int
  deriving DecidableEq, Repr

/-- The translation registers of a context of a core. -/
def xlOf (core : Nat) (r : Regs) : XlCtx :=
  { die := dieOf core, via := .core core, super := r.super, userOk := r.userOk, uroot := r.uroot, sroot := r.sroot, asid := r.asid }

/-- Cause and level of a translation fault (R59). -/
structure XFault where
  cause : Int
  level : Int
  deriving DecidableEq, Repr

/-- Is the address outside the virtual space? (R42) -/
def outOfSpace (va : Int) : Bool := !fits 36 va

/-- The six frames of a table: backed, of regions +1 to +3, of one region (R55). -/
def tableOk (s : State) (t : Int) : Bool :=
  (List.range 6).all fun i => backedMem s (t + i) && decide (frameRegion (t + i) = frameRegion t)

/-- The view, key and policy that R47 allows a region's frames. -/
def regionAllows (r : Int) (binary : Bool) (key : Nat) (policy : Int) : Bool :=
  if 1 ≤ r ∧ r ≤ 3 then true
  else if r = 0 then !binary && key == 0 && policy == -1
  else if r = -2 then binary && key == 0 && (policy == -1 || policy == 2)
  else if -10 ≤ r ∧ r ≤ -1 then !binary && key == 0 && (policy == -1 || policy == 2)
  else false

/-- The leaf of an entry of a level-0 table. -/
def leafOf (e : Int) : Leaf :=
  { frame := trits e 26 3, key := (trits e 40 36).toNat, policy := trits e 35 34
    binary := decide (trits e 33 33 = -1), span := decide (trits e 32 32 = 1), glob := decide (trits e 31 31 = 1)
    x := decide (trits e 30 30 = 1), w := decide (trits e 29 29 = 1), r := decide (trits e 28 28 = 1) }

/-- Is a present entry malformed at its level? (R56, R58) -/
def entryMalformed (s : State) (level : Nat) (va q e : Int) : Bool :=
  decide (trits e 47 41 ≠ 0) || decide (trits e 2 0 ≠ 0) ||
  (if level = 0 then
    let l := leafOf e
    let key := trits e 40 36
    decide (key < 0) || decide (81 < key) || !([0, 1, -1, 2].contains (trits e 35 34)) ||
    decide (trits e 33 33 = 1) || decide (trits e 32 32 = -1) || decide (trits e 31 31 = -1) ||
    decide (trits e 30 30 = -1) || decide (trits e 29 29 = -1) || decide (trits e 28 28 = -1) ||
    !backed s l.frame || !regionAllows (frameRegion l.frame) l.binary l.key l.policy ||
    (l.glob && decide (0 ≤ va)) || (l.x && l.binary) ||
    (l.span && (decide ((l.frame - q % 81) % 81 ≠ 0) || !backed s (l.frame - q % 81 + 80) ||
      decide (frameRegion (l.frame - q % 81 + 80) ≠ frameRegion l.frame)))
  else decide (trits e 40 28 ≠ 0) || !tableOk s (trits e 26 3))

/-- One read of a table entry, two words at package scope, in ternary view under key index 0 (R55, R57). -/
def readEntry (s : State) (t idx : Int) : Except Nat Int × State :=
  match readUnits s (physUnits (frameBase t + 6 * idx) 6) with
  | (.ok l, s) => (.ok (ofNonets l), s)
  | (.error c, s) => (.error c, s)

/-- One level of the walk: its entry, read and checked (R57). -/
def walkEntry (s : State) (va q t idx : Int) (level : Nat) : Except XFault Int × State :=
  match readEntry s t idx with
  | (.error _, s) => (.error ⟨3, level⟩, s)
  | (.ok e, s) =>
    if trit e 27 = 0 then (.error ⟨4, level⟩, s)
    else if trit e 27 = -1 ∨ entryMalformed s level va q e then (.error ⟨5, level⟩, s)
    else (.ok e, s)

/-- The leaf that serves page `q` by the entry of page `p` of its span (R58). -/
def spanShift (l : Leaf) (p q : Int) : Leaf := { l with frame := l.frame - p % 81 + q % 81 }
/-- Does an entry read as present with span +? (R55) -/
def spanMarked (s : State) (t idx : Int) : Bool :=
  match (readUnits s (physUnits (frameBase t + 6 * idx + 3) 1)).1 with
  | .ok [n] => decide (trit n 0 = 1) && decide (trit n 5 = 1)
  | _ => false
/-- The leaves that a walk may derive from the entries of the span's other pages, in place of what page `q`'s own entry gives
(R58). -/
def spanLeaves (s : State) (va q t idx : Int) (own : Except XFault Leaf) : List Leaf :=
  (List.range 81).filterMap fun (n : Nat) =>
    let j : Int := n
    if spanMarked s t (idx - idx % 81 + j) then
      match (walkEntry s va (q - q % 81 + j) t (idx - idx % 81 + j) 0).1 with
      | .error _ => none
      | .ok e =>
        let l := spanShift (leafOf e) j q
        if own.toOption = some l then none else some l
    else none
/-- A level of the walk and the levels below it, with the non-leaf entries read (R57, R60). -/
def walkLevel (x : XlCtx) (va q i1 i0 : Int) (s : State) (t idx : Int) (up : List TableEntry) :
    Nat → Except XFault Leaf × List TableEntry × State
  | 0 =>
    match walkEntry s va q t idx 0 with
    | (r, s) =>
      let own := r.map leafOf
      match spanLeaves s va q t idx own with
      | [] => (own, up, s)
      | l =>
        (match l[Config.pick s.fresh % (l.length + 1)]? with
          | some d => .ok d
          | none => own, up, tick s)
  | n + 1 =>
    match walkEntry s va q t idx (n + 1) with
    | (.error f, s) => (.error f, up, s)
    | (.ok e, s) =>
      let u : TableEntry := { asid := x.asid, level := n + 1, pref := if n = 0 then q / 19683 else q / 19683 / 19683
                              table := trits e 26 3 }
      walkLevel x va q i1 i0 s (trits e 26 3) (if n = 0 then i0 else i1) (up ++ [u]) n

/-- Does a cached non-leaf entry lead to the page? (R60) -/
def tableServes (x : XlCtx) (q : Int) (u : TableEntry) : Bool :=
  decide (u.asid = x.asid) && decide (u.pref = if u.level = 1 then q / 19683 else q / 19683 / 19683)
/-- The walk of R57 for an address, with the non-leaf entries read: from the root, or from a cached non-leaf entry, which one is not
stated (R60). -/
def walk (s : State) (x : XlCtx) (va : Int) : Except XFault Leaf × List TableEntry × State :=
  let q := va / 19683
  let q1 := q / 19683
  let i0 := q - 19683 * q1
  let i2 := q1 / 19683
  let i1 := q1 - 19683 * i2
  let t := if va < 0 then x.sroot else x.uroot
  let idx := if va < 0 then i2 + 9842 else i2
  let full (s : State) :=
    if !tableOk s t then (Except.error (⟨5, 2⟩ : XFault), [], s) else walkLevel x va q i1 i0 s t idx [] 2
  match (getDie s x.die).tables.filter (tableServes x q) with
  | [] => full s
  | l =>
    match l[Config.pick s.fresh % (l.length + 1)]? with
    | some u => walkLevel x va q i1 i0 (tick s) u.table (if u.level = 1 then i0 else i1) [] (u.level - 1)
    | none => full (tick s)

/-- Does a cached translation serve the page? (R58, R60) -/
def tlbServes (x : XlCtx) (va : Int) (e : TlbEntry) : Bool :=
  let q := va / 19683
  ((e.leaf.glob && decide (va < 0)) || decide (e.asid = x.asid)) &&
  (decide (e.page = q) || (e.leaf.span && decide (e.page / 81 = q / 81))) &&
  decide ((e.page < 0) = (q < 0))

/-- The leaf for page `q` that the entry of another page of its span gives (R58). -/
def leafFor (e : TlbEntry) (q : Int) : Leaf := spanShift e.leaf e.page q

/-- Caching of a translation, and of non-leaf entries. -/
def tlbAdd (s : State) (x : XlCtx) (q : Int) (l : Leaf) : State :=
  updDie s x.die fun d =>
    let e : TlbEntry := { asid := x.asid, page := q, leaf := l }
    if d.tlb.contains e then d else { d with tlb := d.tlb ++ [e] }
def tablesAdd (s : State) (x : XlCtx) (us : List TableEntry) : State :=
  updDie s x.die fun d => { d with tables := us.foldl (fun l u => if l.contains u then l else l ++ [u]) d.tables }
/-- A walk, and what it leaves cached: non-leaf entries, and its leaf; nothing where it has become stale (R60, R64). -/
def walkCached (s : State) (x : XlCtx) (va : Int) (stale : Bool) : Except XFault Leaf × State :=
  match walk s x va with
  | (r, us, s) =>
    if stale then (r, s)
    else match r with
      | .ok l => (.ok l, tlbAdd (tablesAdd s x us) x (va / 19683) l)
      | .error f => (.error f, tablesAdd s x us)

/-! ## Walkers (R61) -/

/-- The registers of a walk in flight. -/
def walkXl (d : Nat) (w : Walk) : XlCtx :=
  { die := d, via := .die d, super := w.super, userOk := w.userOk, uroot := w.uroot, sroot := w.sroot, asid := w.asid }
/-- A walker finishes a walk: its outcome is cached unless it is stale, and a miss that waited takes the walker (R61, R64). -/
def finishWalk (s : State) (d : Nat) (w : Walk) : Except XFault Leaf × State :=
  match walkCached s (walkXl d w) (19683 * w.page) w.stale with
  | (r, s) =>
    let s := updDie s d fun k => { k with walks := k.walks.filter fun v => v.id != w.id }
    match (getDie s d).missq with
    | [] => (r, s)
    | m :: t => (r, push (updDie s d fun k => { k with walks := k.walks ++ [m], missq := t }) (.pageTableWalk d m.id))
/-- Walks of a die finish, in an order that is not stated, until a walker is free and no earlier miss waits. -/
def awaitWalker : Nat → State → Nat → State
  | 0, s, _ => s
  | n + 1, s, d =>
    let k := getDie s d
    if k.walks.length < 27 then s
    else match k.walks[Config.pick s.fresh % k.walks.length]? with
      | some w => awaitWalker n (finishWalk (tick s) d w).2 d
      | none => s
/-- A walk in flight that a miss joins: for the same identifier, half and page (R61). -/
def joinable (s : State) (x : XlCtx) (q : Int) : Option Walk :=
  (getDie s x.die).walks.find? fun w => decide (w.asid = x.asid) && decide (w.page = q) && !w.stale
/-- A miss that waits for its outcome: it joins a walk in flight, or takes a walker once one is free for it (R61). -/
def missWalk (s : State) (x : XlCtx) (va : Int) : Except XFault Leaf × State :=
  match joinable s x (va / 19683) with
  | some w => finishWalk s x.die w
  | none =>
    let s := awaitWalker ((getDie s x.die).missq.length + 1) s x.die
    match joinable s x (va / 19683) with
    | some w => finishWalk s x.die w
    | none => walkCached s x va false

/-- The leaf that serves an address: a cached one that is still held, which one is not stated, or a walk (R58, R60). -/
def lookup (s : State) (x : XlCtx) (va : Int) : Except XFault Leaf × State :=
  let q := va / 19683
  match (getDie s x.die).tlb.filter (tlbServes x va) with
  | [] => missWalk s x va
  | cached =>
    match cached[Config.pick s.fresh % (cached.length + 1)]? with
    | some e => (.ok (if e.page = q then e.leaf else leafFor e q), tick s)
    | none => missWalk (tick s) x va

/-- The privilege check of R42. -/
def privilegeFault (x : XlCtx) (va : Int) : Bool :=
  (decide (va < 0) && !x.super) || (decide (0 ≤ va) && x.super && !x.userOk)

/-- Is the access allowed by the leaf's permissions? (R57) -/
def leafAllows (l : Leaf) : AccKind → Bool
  | .load | .eread => l.r
  | .store | .ewrite => l.w
  | .atomic => l.r && l.w
  | .fetch => l.x

/-- Translation of one address, the bounds check excepted (R57). -/
def translatePage (s : State) (x : XlCtx) (kind : AccKind) (binary : Bool) (va : Int) : Except XFault Leaf × State :=
  if privilegeFault x va then (.error ⟨2, 3⟩, s)
  else match lookup s x va with
    | (.error f, s) => (.error f, s)
    | (.ok l, s) =>
      if !leafAllows l kind then (.error ⟨6, 0⟩, s)
      else if l.binary ≠ binary then (.error ⟨7, 0⟩, s)
      else (.ok l, s)

/-- A physical unit under a leaf. -/
def unitOf (x : XlCtx) (l : Leaf) (va : Int) : PUnit :=
  { pa := 19683 * l.frame + va % 19683
    attr := { key := l.key, policy := l.policy, binary := l.binary, super := x.super, via := x.via } }

/-- Translation of a run of units, page by page (R50, R57). -/
def translateGo (s : State) (x : XlCtx) (kind : AccKind) (binary : Bool) (va : Int) (last : Option (Int × Leaf)) :
    Nat → Except XFault (List PUnit) × State
  | 0 => (.ok [], s)
  | n + 1 =>
    let q := va / 19683
    let hit := match last with
      | some (q', l) => if q' = q then some l else none
      | none => none
    let cont (s : State) (l : Leaf) :=
      match translateGo s x kind binary (va + 1) (some (q, l)) n with
      | (.ok r, s) => (Except.ok (unitOf x l va :: r), s)
      | (.error f, s) => (.error f, s)
    match hit with
    | some l => cont s l
    | none =>
      match translatePage s x kind binary va with
      | (.ok l, s) => cont s l
      | (.error f, s) => (.error f, s)

/-- Translation of `n` units from `va`: bounds and privilege of the whole access come before any walk (R42, R57, R59). -/
def translate (s : State) (x : XlCtx) (kind : AccKind) (binary : Bool) (va : Int) (n : Nat) :
    Except XFault (List PUnit) × State :=
  if outOfSpace va ∨ outOfSpace (va + n - 1) then (.error ⟨1, 3⟩, s)
  else if privilegeFault x va ∨ privilegeFault x (va + n - 1) then (.error ⟨2, 3⟩, s)
  else translateGo s x kind binary va none n

/-! ## Invalidation (R63, R64) -/

/-- Does a request cover a cached translation, or possibly cover it through its span? (R63, R64) -/
def invalCovers (v : Inval) (e : TlbEntry) : Bool :=
  let lo := if e.leaf.span then e.page - e.page % 81 else e.page
  let hi := if e.leaf.span then e.page - e.page % 81 + 80 else e.page
  (if v.glob then e.leaf.glob else decide (e.asid = v.asid)) &&
  (decide (v.count = 0) || (decide (lo ≤ v.page + v.count - 1) && decide (v.page ≤ hi)))

/-- Does a request cover the page of a walk in flight? -/
def invalCoversWalk (v : Inval) (w : Walk) : Bool :=
  (v.glob || decide (w.asid = v.asid)) &&
  (decide (v.count = 0) || (decide (v.page ≤ w.page) && decide (w.page ≤ v.page + v.count - 1)))

/-- Does a cached non-leaf entry lead to a page of the range? (R64) -/
def invalCoversTable (v : Inval) (u : TableEntry) : Bool :=
  let n : Int := if u.level = 1 then 19683 else 387420489
  (v.glob || decide (u.asid = v.asid)) &&
  (decide (v.count = 0) || (decide (n * u.pref ≤ v.page + v.count - 1) && decide (v.page ≤ n * u.pref + n - 1)))

/-- A request takes effect at a die: covered translations and the non-leaf entries that lead to them are dropped, walks in flight
become stale (R64). -/
def invalAtDie (s : State) (d : Nat) (v : Inval) : State :=
  updDie s d fun k =>
    { k with tlb := k.tlb.filter fun e => !invalCovers v e
             tables := k.tables.filter fun u => !invalCoversTable v u
             walks := k.walks.map fun w => if invalCoversWalk v w then { w with stale := true } else w }

/-- PAGE_TABLE_WALK: a walker of a die translates the address of a walk in flight through the three levels (R57, R61). -/
def execPageTableWalk (die walk : Nat) (s : State) : Host.Outcome State Fault Refusal :=
  .next (match (getDie s die).walks.find? fun w => w.id == walk with
    | some w => (finishWalk s die w).2
    | none => s)

/-- A prefetch's miss asks for a walk: it joins one in flight for the same identifier, half and page, takes one of 27 walkers, or
waits in arrival order (R61). -/
def requestWalk (s : State) (x : XlCtx) (va : Int) : State :=
  let q := va / 19683
  let d := getDie s x.die
  if (d.walks ++ d.missq).any fun w => decide (w.asid = x.asid) && decide (w.page = q) && !w.stale then s
  else
    let (id, s) := newId s
    let w : Walk := { id := id, asid := x.asid, page := q, super := x.super, userOk := x.userOk, uroot := x.uroot
                      sroot := x.sroot }
    if d.walks.length < 27 then
      push (updDie s x.die fun k => { k with walks := k.walks ++ [w] }) (.pageTableWalk x.die id)
    else updDie s x.die fun k => { k with missq := k.missq ++ [w] }

end Sys2Proof.Machine
end

