-- ==== Sys2Proof/Machine/Ops.lean ====
section
/-! DEFINITION. The operations that meanings share: records of the frieze and the debug mailbox, the trigger sequencer,
halts, taking an exception and returning from one, casts of a range, stalls, transfers of control, landings
(12 R313 to R336; 08 R203; 06 R139, R153, R157; 09 R224, R225). -/

namespace Sys2Proof.Machine

open Sys2Proof

/-! ## Records -/

/-- A list of nonets at a place of a list of zeros. -/
def putAt (l : List Int) (i : Nat) : List Int → List Int
  | [] => l
  | v :: t => putAt (l.set i v) (i + 1) t

/-- Four nonets of a 36-trit address (R316, R332). -/
def addrNonets (a : Int) : List Int := toNonets 4 a
/-- Nine nonets of slots: slot `i` in trit `i mod 9` of nonet `i/9` (R316, R332). -/
def slotNonets (l : List Nat) : List Int := (List.range 9).map fun j => slotWord l (9 * j) 9

/-- Is the frieze on? (R335) -/
def friezeOn (d : Die) : Bool := decide (trit d.fzctl 26 = 1)

/-- Is the trigger sequencer on? (R333) -/
def sequencerOn (d : Die) : Bool := decide (trit d.tsq 2 = 1)
/-- A group of a die that has an event, and the bundle that caused it. -/
def trigOf (core ctx : Nat) (g : Group) (ev param : Int) (at_ : Option Int) : TrigEvent :=
  { core := coreInDie core, ctx := ctx, lid := g.lid, team := g.team, num := g.num, ev := ev, param := param, at_ := at_ }
/-- While the sequencer is on, an event of a cycle waits to be tested at the cycle's end, in the order of R334. -/
def noteTrig (s : State) (die : Nat) (e : TrigEvent) : State :=
  if sequencerOn (getDie s die) then updDie s die fun d => { d with trigDue := d.trigDue ++ [e] } else s
/-- An event of a group, unless the group is in supervisor mode (R323, R334). -/
def trigger (s : State) (core ctx : Nat) (ev param at_ : Int) : State :=
  match getGroup s core ctx with
  | some g => if g.r.super then s else noteTrig s (dieOf core) (trigOf core ctx g ev param (some at_))
  | none => s
/-- A frieze record of a kind is an event, of the group that it names (R334, event 6). -/
def friezeEvent (s : State) (die : Nat) (kind core ctx : Int) : State :=
  let at_ := 81 * die + core.toNat
  match if 0 ≤ core ∧ 0 ≤ ctx then getGroup s at_ ctx.toNat else none with
  | some g => if g.r.super then s else noteTrig s die (trigOf at_ ctx.toNat g 6 kind none)
  | none => noteTrig s die { core := -1, ctx := -1, ev := 6, param := kind }

/-- A frieze record is posted (R335, R336). -/
def friezePost (s : State) (die : Nat) (kind core ctx addr related status : Int) : State :=
  let d := getDie s die
  if friezeOn d then
    let seq := d.fzseq + 1
    let rec_ : List Int := [kind] ++ toNonets 3 seq ++ [core, ctx] ++ addrNonets addr ++ toNonets 3 related ++
      toNonets 3 status ++ toNonets 6 d.cycle ++ List.replicate 5 0
    let s := writePhys s (frameBase (trits d.fzctl 23 0) + 27 * ((seq - 1) % 729)) rec_
    friezeEvent (updDie s die fun d => { d with fzseq := seq }) die kind core ctx
  else s

/-- Is the debug mailbox on? (R331) -/
def mboxOn (d : Die) : Bool := decide (trit d.mbox 24 = 1)

/-- The lost count of the mailbox grows, by an atomic add; the attempt is made whatever its outcome (R332). -/
def mboxLost (s : State) (die : Nat) (m : Nat) : State :=
  let base := frameBase (trits (getDie s die).mbox 23 0)
  match readPhys s base with
  | (.ok l, s) => writePhys s (base + 6) (toNonets 3 (wrap 27 (blockField l 80 54 + m)))
  | (.error _, s) => s

/-- Records claimed from number `c` are written one after another; a failing check ends the post, and the number not yet
marked is lost (R332). -/
def mboxWrite (die : Nat) (base : Int) : List (List Int) → Int → State → State
  | [], _, s => s
  | r :: t, c, s =>
    let at_ := base + 27 * (1 + 2 * (c % 364))
    match physCause s at_ with
    | some _ => sendEvent (mboxLost s die (t.length + 1)) 6 die
    | none =>
      let s := writePhys s at_ (r.take 1)
      let s := writePhys s (at_ + 4) ((r.drop 4).take 50)
      let s := writePhys s (at_ + 1) (toNonets 3 (c + 1))
      mboxWrite die base t (c + 1) s

/-- The die posts records of 54 nonets together (R332). -/
def mboxPost (s : State) (die : Nat) (recs : List (List Int)) : State :=
  let d := getDie s die
  if mboxOn d then
    let base := frameBase (trits d.mbox 23 0)
    match readPhys s base with
    | (.error _, s) => sendEvent (mboxLost s die recs.length) 6 die
    | (.ok l, s) =>
      let c := blockField l 26 0
      let q := blockField l 53 27
      if c + recs.length - q > 364 ∨ c + recs.length > half 27 then mboxLost s die recs.length
      else mboxWrite die base recs c (writePhys s base (toNonets 3 (c + recs.length)))
  else s

/-- Lane-address records: up to eight entries each, in ascending slot (R332). -/
def laneRecords (meaning : Int) : Nat → List (Nat × Int) → List (List Int)
  | 0, _ => []
  | n + 1, l =>
    if l = [] then []
    else
      let part := l.take 8
      let r : List Int := [2, 0, 0, 0, (part.length : Int), meaning] ++
        part.flatMap (fun p => addrNonets p.2 ++ [(p.1 : Int), 0])
      (r ++ List.replicate (54 - r.length) 0) :: laneRecords meaning n (l.drop 8)

/-- The halt record of a group (R332). -/
def haltRecord (core ctx : Nat) (g : Group) (cause detail event : Int) (lanes : List Nat) (following : Nat) :
    List Int :=
  let head : List Int := [1, 0, 0, 0, (dieOf core : Int), (coreInDie core : Int), (ctx : Int), cause, detail] ++
    addrNonets g.pc ++ addrNonets event ++ [(g.width : Int), (following : Int)]
  head ++ List.replicate (27 - head.length) 0 ++ slotNonets lanes ++ slotNonets (activeLanes g) ++
    slotNonets (occupied g)

/-- A halted group. -/
def haltedGroup (g : Group) (cause : Nat) : Group :=
  { g with st := .halted, haltCause := cause, haltPending := false, stepping := false, stepSpawn := [] }

/-- A group halts: it issues nothing more, and its record is posted with its lane-address records (R326, R332). -/
def haltGroup (s : State) (core ctx : Nat) (cause : Nat) (detail event : Int) (lanes : List Nat)
    (meaning : Int) (addrs : List (Nat × Int)) : State :=
  match getGroup s core ctx with
  | none => s
  | some g =>
    let extra := laneRecords meaning 11 addrs
    push (mboxPost (setGroup s core ctx (haltedGroup g cause)) (dieOf core)
      (haltRecord core ctx (haltedGroup g cause) cause detail event lanes extra.length :: extra)) (.teamDissolve g.team)

/-- Is this the group of a team with a number? -/
def isMember (t num : Nat) (g : Group) : Bool := g.team == t && g.num == num && g.st != .reserved

/-- The sequencer halts a group, in its context or displaced (R192), with cause 6: where a trap of it is raised, once that is entered
(R314). The event address is the bundle of the event; DESIGN CHOICE (log 62): of a frieze record, which no bundle causes, the
address at which the group is to go on. -/
def haltMember (s : State) (core ctx : Nat) (at_ : Option Int) (p : Group → Bool) : State :=
  match findHolder s core ctx p with
  | none => s
  | some g =>
    let event := at_.getD g.pc
    if g.st ≠ .ready ∧ g.st ≠ .stalled then s
    else if g.raised.isSome then
      updHolder s core ctx p fun g => { g with haltPending := true, haltCause := 6, haltAt := event }
    else
      push (mboxPost (updHolder s core ctx p fun g => haltedGroup g 6) (dieOf core)
        [haltRecord core ctx (haltedGroup g 6) 6 0 event (activeLanes g) 0]) (.teamDissolve g.team)

/-- Every group of a launch on a die halts with cause 6, those already halted excepted (R334 action 2). -/
def haltLaunchOnDie (s : State) (die lid : Nat) (at_ : Option Int) : State :=
  (List.range 81).foldl (fun s c =>
    ((getCore s (81 * die + c)).groups ++ shadowGroups (getCore s (81 * die + c))).foldl (fun s e =>
      if e.2.lid = lid then haltMember s (81 * die + c) e.1 at_ (isMember e.2.team e.2.num) else s) s) s

/-- The action of a transition of the sequencer (R333). DESIGN CHOICE (log 84): the frieze record of action 5 names no core and no context. -/
def trigAction (s : State) (die : Nat) (e : TrigEvent) (next action : Int) : State :=
  if action = 1 then
    (if 0 ≤ e.core then haltMember s (81 * die + e.core.toNat) e.ctx.toNat e.at_ (isMember e.team e.num) else s)
  else if action = 2 then (if 0 ≤ e.core then haltLaunchOnDie s die e.lid e.at_ else s)
  else if action = 3 then updDie s die fun d => { d with fzsmp := setTrits d.fzsmp 2 2 1 }
  else if action = 4 then updDie s die fun d => { d with fzsmp := setTrits d.fzsmp 2 2 0 }
  else if action = 5 then friezePost s die 6 (-1) (-1) 0 e.ev next
  else s

/-- Does the register of a state match an event? A trap's class 0 stands for any, and a double fault has no parameter (R333). -/
def trigMatches (r : Int) (e : TrigEvent) : Bool :=
  decide (trits r 17 15 = e.ev) && decide (e.ev ≠ 0) &&
  (decide (trits r 26 18 = e.param) || (decide (e.ev = 4) && decide (trits r 26 18 = 0)) || decide (e.ev = 5))
/-- An event is tested against the register of the present state (R333, R334). -/
def trigTest (s : State) (die : Nat) (e : TrigEvent) : State :=
  let d := getDie s die
  let r := mget 0 d.tr (trits d.tsq 1 0).toNat
  if sequencerOn d && trigMatches r e then
    let next := trits r 11 10
    trigAction (updDie s die fun d => { d with tsq := setTrits d.tsq 1 0 next }) die e next (trits r 14 12)
  else s

/-- An event stands before those of later cores and contexts. -/
def insertTrig (e : TrigEvent) : List TrigEvent → List TrigEvent
  | [] => [e]
  | f :: t => if e.core < f.core ∨ (e.core = f.core ∧ e.ctx < f.ctx) then e :: f :: t else f :: insertTrig e t
/-- The events of a cycle of a die are tested: those of cores in ascending core and context, then those of the frieze (R334). DESIGN
CHOICE (log 89): the record that an action 5 posts while they are tested is an event of the next cycle. -/
def testEvents (s : State) (die : Nat) : State :=
  let l := (getDie s die).trigDue
  if l = [] then s
  else
    (((l.filter fun e => e.ev ≠ 6).foldl (fun m e => insertTrig e m) []) ++ l.filter fun e => e.ev = 6).foldl
      (fun s e => trigTest s die e) (updDie s die fun d => { d with trigDue := [] })

/-! ## Latches (R203) -/

/-- All six latches are set to 0 and have no owner. -/
def clearLatches (s : State) (core : Nat) : State :=
  updCore s core fun c => { c with vlatch := [0, 0, 0], slatch := [0, 0, 0], owner := none }

/-- A result enters the latches of a pipe by shifting them; a packed bundle's latch writes are discarded. -/
def latchWrite (s : State) (i : Issue) (vector : Bool) (v : Int) : State :=
  if i.packed then s
  else updCore s i.core fun c =>
    if vector then { c with vlatch := v :: c.vlatch.take 2 } else { c with slatch := v :: c.slatch.take 2 }

/-! ## Taking a trap (R313 to R319) -/

/-- The classes with per-lane entries in the frame (R313). -/
def laneEntryClass (c : Nat) : Bool := [5, 6, 7, 8, 12].contains c

/-- A double fault: the group halts with the class of the second fault; queue 0 is told (R319). DESIGN CHOICE (log 87): a further load
of the handler that fails as it lands is a further one, with its record and event, though the group is halted already. -/
def doubleFault (s : State) (core ctx : Nat) (cls : Nat) (event : Int) : State :=
  match getGroup s core ctx with
  | none => s
  | some g =>
    let s := setGroup s core ctx { g with raised := none, wait := none }
    let s := haltGroup s core ctx 5 cls event (activeLanes g) 1 []
    let s := updLaunch s g.lid fun l => { l with doubleFault := true }
    trigger (sendEvent s 3 0) core ctx 5 0 event

/-- The blocks of the frame: block 0 and the entries of the trapping lanes, as runs of nonets at their addresses (R316). -/
def frameRuns (f : Int) (t : Trap) : List (Int × List Int) :=
  (f, [(t.cls : Int), t.detail] ++ addrNonets t.pc ++ addrNonets t.ret ++ slotNonets (t.lanes.map (·.slot)) ++
    List.replicate 8 0) ::
  (if laneEntryClass t.cls then
    t.lanes.map fun e => (f + 27 + 6 * e.slot, addrNonets e.addr ++ [e.cause, e.level])
  else [])

/-- The runs of the frame translated as stores; none where one fails (R316 step 3). -/
def translateRuns (x : XlCtx) : List (Int × List Int) → State → Option (List (PUnit × Int)) × State
  | [], s => (some [], s)
  | (a, l) :: t, s =>
    match translate s x .store false a l.length with
    | (.error _, s) => (none, s)
    | (.ok us, s) =>
      match translateRuns x t s with
      | (none, s) => (none, s)
      | (some r, s) => (some (us.zip l ++ r), s)

/-- The form of every vector register that is not in form U: 1 for A, 2 for F (R316 step 4). -/
def formsOf (r : Regs) : SMap Nat :=
  r.v.filterMap fun e => match e.2 with
    | .u _ => none
    | .a .. => some (e.1, 1)
    | .f _ => some (e.1, 2)

/-- What a group held for a bundle that it has not executed is given up: its place in the governor's queue, a grant, its
parameter block and entry, its push in a bank (R281, R306). -/
def dropHold (s : State) (core ctx : Nat) : State :=
  match getGroup s core ctx with
  | none => s
  | some g =>
    let d := dieOf core
    let s := updDie s d fun k =>
      { k with leaveQ := k.leaveQ.filter fun q => q.core != core || q.ctx != ctx || q.team != g.team || q.num != g.num
               held := if g.leaveGranted then k.held - g.holdCharge else k.held }
    let s := if g.wait = some .push then
        updCluster s (clusterOf core) fun k =>
          { k with banks := k.banks.map fun b =>
              (b.1, { b.2 with held := b.2.held.filter fun h => !(h.push && h.op.isNone && h.core == core && h.ctx == ctx && h.team == g.team && h.num == g.num) }) }
      else s
    let s := setGroup s core ctx { g with hold := none, holdCharge := 0, leaveGranted := false }
    if (getDie s d).leaveQ = [] then s else push s (.leaveGrant d)

/-- The halt after a step: of a divergent transfer from which items spawned the slots that left and their targets are recorded, whether it
has trapped after the bundle or not (R329, R332). -/
def stepHalt (s : State) (core ctx : Nat) (event : Int) (g : Group) : State :=
  haltGroup s core ctx 3 0 event (if g.stepSpawn = [] then activeLanes g else g.stepSpawn.map (·.1)) 2 g.stepSpawn
/-- Trap entry in its order (R316): cause, lanes and return address; no handler is a double fault; the frame; the kept
state; no-spawn mode, the in-handler trit, the latches; the handler address. -/
def takeTrap (s : State) (core ctx : Nat) (t : Trap) : State :=
  let s := dropHold s core ctx
  match getGroup s core ctx with
  | none => s
  | some g =>
    if g.r.tr.inHandler then doubleFault s core ctx t.cls t.pc
    else
      let t := if t.cls = 12 then { t with ret := g.pc } else t
      let tr := { g.r.tr with cause := t.cls + 19683 * t.detail, ret := t.ret, lanes := t.lanes.map (·.slot) }
      let g := { g with raised := none, wait := none, st := .ready, exempt := none, r := { g.r with tr := tr } }
      let s := setGroup s core ctx g
      if tr.vec = 0 then doubleFault s core ctx t.cls t.pc
      else
        match translateRuns (xlOf core g.r) (frameRuns tr.fp t) s with
        | (none, s) => doubleFault s core ctx 5 t.pc
        | (some ws, s) =>
          let s := writeAs s (onPath core .core) ws
          let g := { g with
            kept := some { active := g.active, mstack := g.mstack, nospawn := g.nospawn, forms := formsOf g.r }
            mstack := [], nospawn := true, r := { g.r with tr := { tr with inHandler := true } } }
          let s := clearLatches (setGroup s core ctx g) core
          if tr.vec % 6 ≠ 0 then doubleFault s core ctx 1 t.pc
          else
            let s := setGroup s core ctx { g with pc := tr.vec }
            let s := trigger s core ctx 4 t.cls t.pc
            if g.haltPending ∧ g.haltCause = 6 then haltGroup s core ctx 6 0 g.haltAt (activeLanes g) 1 []
            else if g.haltPending then haltGroup s core ctx 4 0 tr.vec (activeLanes g) 1 []
            else if g.stepping then stepHalt s core ctx t.pc g
            else s

/-- May a raised trap be entered: is every pending destination of a load, an atomic or a copy into registers landed?
(R314) -/
def trapReady (g : Group) : Bool := g.pending.all fun p => p.kind == .other

/-- A trap is raised for a group: issue stops, and entry follows at once or when the landings it waits for have come
(R314). A trap of a handler's bundle is a double fault (R319). A halted group enters it when it is resumed (R326). -/
def raiseTrap (s : State) (core ctx : Nat) (t : Trap) : State :=
  match getGroup s core ctx with
  | none => s
  | some g =>
    if g.r.tr.inHandler then doubleFault s core ctx t.cls t.pc
    else if g.st = .halted then setGroup s core ctx { g with raised := some t }
    else if trapReady g then takeTrap s core ctx t
    else setGroup s core ctx { g with raised := some t, st := .stalled }

/-- Registers in form F at trap entry are in that form again: each holds in every lane what it held (R158, R317). -/
def restoreForms (g : Group) (forms : SMap Nat) : Regs :=
  { g.r with v := forms.foldl (fun m e =>
      match e.2, mget (.u 0) m e.1 with
      | 2, .f _ => m
      | 2, v => mput (.u 0) m e.1 (.f (allLanes v g.items g.width))
      | _, _ => m) g.r.v }

/-- Return from a trap (R318): the kept state, the return address, the latches; a held class-12 error is raised now
(R314). -/
def returnFromTrap (s : State) (core ctx : Nat) : State :=
  match getGroup s core ctx with
  | none => s
  | some g =>
    let k := g.kept.getD { active := g.active, mstack := g.mstack, nospawn := g.nospawn }
    let r := restoreForms g k.forms
    let g' := { g with
      active := k.active.filter fun l => (occupied g).contains l
      mstack := k.mstack, nospawn := k.nospawn, kept := none, held12 := none, pc := g.r.tr.ret
      r := { r with tr := { r.tr with inHandler := false } } }
    let s := clearLatches (setGroup s core ctx g') core
    match g.held12 with
    | some t =>
      push (updGroup s core ctx fun g => { g with raised := some { t with ret := g.pc }, st := .stalled }) (.trapEntry core ctx)
    | none => s

/-- What a group waited for has come: it is ready to execute its bundle again; a halted group stays halted. -/
def wokenGroup (g : Group) : Group :=
  { g with wait := none, st := if g.st = .stalled ∧ g.raised = none ∧ !g.stopped ∧ !g.rolling then .ready else g.st }
def wakeGroup (s : State) (core ctx : Nat) : State := updGroup s core ctx wokenGroup

/-! ## The issue slot -/

/-- A meaning of an instruction of a bundle: it acts on the bundle in the issue slot. -/
def inIssue (s : State) (f : Issue → State → State) : Host.Outcome State Fault Refusal :=
  match s.issue with
  | none => .fault .noIssue
  | some i => .next (f i s)

/-- The bundle in the slot is given up: nothing more of it executes, and its context stays at it. -/
def breakIssue (s : State) (i : Issue) : State :=
  setPc { s with issue := some { i with broke := true } } i.core i.who i.pc

/-- A running range casts at its bundle (R139). -/
def castRange (s : State) (core e : Nat) : State :=
  updRange s core e fun r => { r with st := .casting, castAt := (getDie s (dieOf core)).cycle }

/-- The bundle's group raises a precise trap in the lanes given (R204, R313); a range casts at the bundle (R139). -/
def raise (s : State) (i : Issue) (cls : Nat) (detail : Int) (lanes : List LaneEntry) : State :=
  let s := breakIssue s i
  match i.who with
  | .range e => castRange s i.core e
  | .group c => raiseTrap s i.core c { cls := cls, detail := detail, lanes := lanes, pc := i.pc, ret := i.pc }

/-- The lanes of a context that are active: of a range, one lane that stands for all. -/
def whoActive (s : State) (core : Nat) : Who → List Nat
  | .group c => match getGroup s core c with | some g => activeLanes g | none => []
  | .range _ => [0]

/-- Entries without addresses. -/
def plainLanes (l : List Nat) : List LaneEntry := l.map fun i => { slot := i }

/-- A trap whose lanes are all active lanes (R315). -/
def raiseAll (s : State) (i : Issue) (cls : Nat) : State := raise s i cls 0 (plainLanes (whoActive s i.core i.who))

/-- The illegal-opcode, illegal-form, format and privilege traps of a bundle (R313). -/
def illegalOpcode (s : State) (i : Issue) : State := raiseAll s i 1
def illegalForm (s : State) (i : Issue) : State := raiseAll s i 2
def formatFault (s : State) (i : Issue) : State := raiseAll s i 3
def privilegeTrap (s : State) (i : Issue) : State := raiseAll s i 4
/-- The translation fault of a register write or of a uniform access: every active lane is marked (R46, R270). -/
def boundsAll (s : State) (i : Issue) (addr : Int) : State :=
  raise s i 5 0 ((whoActive s i.core i.who).map fun l => { slot := l, addr := addr, cause := 1, level := 3 })

/-- A trap after the bundle: the bundle completes first (R313). -/
def raiseAfter (s : State) (i : Issue) (cls : Nat) (detail : Int) (lanes : List LaneEntry) : State :=
  match i.who with
  | .range e => castRange (breakIssue s i) i.core e
  | .group _ =>
    match s.issue with
    | some j =>
      { s with issue := some { j with after := some (j.after.getD { cls := cls, detail := detail, lanes := lanes, pc := i.pc, ret := i.pc }) } }
    | none => s

/-- The group waits at its bundle, which executes again when what it waits for has come (R185). -/
def stallIssue (s : State) (i : Issue) (w : Wait) : State :=
  match i.who with
  | .range _ => breakIssue s i
  | .group c => updGroup (breakIssue s i) i.core c fun g => { g with st := .stalled, wait := some w }

/-- A bundle of a kind that a range does not execute: the range casts, a group goes on (R139, R215). -/
def groupOnly (s : State) (i : Issue) (f : Nat → Group → State) : State :=
  match i.who with
  | .range e => castRange (breakIssue s i) i.core e
  | .group c =>
    match getGroup s i.core c with
    | some g => f c g
    | none => s

/-- The scalar pipe's frame: once, where the guard holds in an active lane (R197, R214). -/
def scalarOp (s : State) (f : Issue → State → State) : Host.Outcome State Fault Refusal :=
  inIssue s fun i s => if i.guard = [] then s else f i s

/-- As `scalarOp`, for an instruction that a range casts at. -/
def scalarGroupOp (s : State) (f : Issue → Nat → Group → State → State) : Host.Outcome State Fault Refusal :=
  scalarOp s fun i s => groupOnly s i fun c g => f i c g s

/-- The registers that the half reads: those before the bundle (R204). -/
def srcRegs (s : State) (i : Issue) : Regs := i.snap.getD (whoRegs s i.core i.who)

/-- The restart address of a group is set, with the state kept beside it (R235, R320). DESIGN CHOICE (log 88): setting it at the address
where it stands begins the count of R322 anew. -/
def setRestart (g : Group) (pc : Int) : Group :=
  { g with restart := pc, restartActive := g.active, restartStack := g.mstack, restartCount := 0, region := [] }

/-- An instruction of the kinds of R235: the restart address is the next bundle's once the bundle ends. -/
def noteRestart (s : State) : State :=
  match s.issue with
  | some j => { s with issue := some { j with restart := true } }
  | none => s

/-- As `scalarGroupOp`, for an instruction of the kinds of R235. -/
def engineOp (s : State) (f : Issue → Nat → Group → State → State) : Host.Outcome State Fault Refusal :=
  scalarGroupOp s fun i c g s => noteRestart (f i c g s)

/-- A written register belongs to the region after the restart address (R320). -/
def noteRegion (s : State) (core : Nat) (w : Who) (r : Reg) : State :=
  match w with
  | .group c => updGroup s core c fun g => if g.region.contains r then g else { g with region := r :: g.region }
  | .range _ => s

/-! ## The mask stack (R157, R225) -/

/-- When no lane of the running path is left at its reconvergence address, or none is active, the next path runs; when no
path remains the entry is popped (R157 steps 3 and 4). -/
def settleStack : Nat → Group → Group
  | 0, g => g
  | n + 1, g =>
    match g.mstack with
    | [] => g
    | e :: t =>
      if activeLanes g = [] ∨ g.pc = e.reconv then
        match e.paths with
        | (a, ls) :: ps =>
          settleStack n { g with
            mstack := { e with paths := ps } :: t, pc := a
            active := ls.filter fun l => (occupied g).contains l }
        | [] =>
          settleStack n { g with
            mstack := t, pc := e.reconv, active := e.saved.filter fun l => (occupied g).contains l }
      else g

/-- Steps enough to empty a full stack of its paths. -/
def settle (g : Group) : Group := settleStack (27 * 5 + 1) g

/-! ## Landings (R208, R313, R314) -/

/-- A value for a register that is not a vector register (R270, R271, R283). -/
def landWord (r : Regs) : Reg × Int → Regs
  | (.s i, v) => { r with s := mput 0 r.s i v }
  | _ => r

/-- The lanes of a vector register take values; the register is in form F while its destination is pending, or has been cleared by a
dissolving join (log 70). -/
def landLanes (r : Regs) (i : Nat) (l : List (Nat × Int)) : Regs :=
  match mget (.u 0) r.v i with
  | .f lanes => { r with v := mput (.u 0) r.v i (.f (l.foldl (fun a p => a.set p.1 p.2) lanes)) }
  | _ => r

/-- The pointer, base and limit of an address register (R271 `ldsp`). -/
def landPtr (r : Regs) (i : Nat) (p : Int) : Regs :=
  { r with a := mput {} r.a i { mget {} r.a i with ptr := p, base := p, limit := p } }

/-- What lands in one register. -/
def landReg (l : Landing) (r : Regs) : Reg → Regs
  | .v i => landLanes r i l.lanes
  | .a i => match l.ptr with | some p => landPtr r i p | none => r
  | _ => r

/-- Written registers belong to the region after the restart address (R320). -/
def joinRegs (l rs : List Reg) : List Reg := rs.foldl (fun l r => if l.contains r then l else r :: l) l
/-- A landing in the items that left their slots; the destination is pending no more (R153). -/
def landItems (p : Pend) (l : Landing) (g : Group) : Group :=
  let vs := p.regs.filterMap fun | .v i => some i | _ => none
  { g with
    pending := g.pending.filter fun q => q.id ≠ p.id
    transit := g.transit.map fun t =>
      match l.lanes.find? fun e => e.1 == t.slot with
      | some e =>
        { t with it := { t.it with v := vs.foldl (fun m i => mset m i e.2) t.it.v }
                 waits := t.waits.filter (· ≠ p.id) }
      | none => { t with waits := t.waits.filter (· ≠ p.id) } }
/-- A landing in the registers of a group and in the items that left their slots (R153). -/
def landGroup (p : Pend) (l : Landing) (g : Group) : Group :=
  let r := p.regs.foldl (landReg l) (l.words.foldl landWord g.r)
  { landItems p l g with r := { r with sticky := r.sticky.or l.flags }, region := joinRegs g.region p.regs }
/-- A landing whose values the group discards: its flags are set, and the items that left their slots take it. DEDUCED (log 63):
those items are the group's no longer (R28, R153, R321). -/
def landDropped (p : Pend) (l : Landing) (g : Group) : Group :=
  { landItems p l g with r := { g.r with sticky := g.r.sticky.or l.flags } }

/-- The cause of the lowest failing slot (R315). -/
def lowestCause : List LaneEntry → Int
  | [] => 0
  | e :: t => if t.all fun f => e.slot ≤ f.slot then e.cause else lowestCause t
/-- A class-12 error joins an earlier one: the slots that it does not name already (R314, R315). -/
def joinError (u : Trap) (fails : List LaneEntry) : Trap :=
  let l := u.lanes ++ fails.filter fun e => !(u.lanes.any fun f => f.slot == e.slot)
  { u with lanes := l, detail := lowestCause l }
/-- An error is held until the return from the trap that is being taken (R314). -/
def holdError (g : Group) (t : Trap) : Group :=
  { g with held12 := some (match g.held12 with | some u => joinError u t.lanes | none => t) }
/-- The error of a failing landing becomes a trap of class 12, joins one, or is held; one of a load that a handler issued is a double
fault (R313, R314, R319). -/
def landFails (s : State) (core ctx : Nat) (p : Pend) (fails : List LaneEntry) : State :=
  match getGroup s core ctx with
  | none => s
  | some g =>
    if fails = [] then s
    else
      let t : Trap := { cls := 12, detail := lowestCause fails, lanes := fails, pc := p.pc, ret := g.pc }
      if p.inHandler then doubleFault s core ctx 12 p.pc
      else if g.r.tr.inHandler then setGroup s core ctx (holdError g t)
      else match g.raised with
        | none => raiseTrap s core ctx t
        | some u => setGroup s core ctx (if u.cls = 12 then { g with raised := some (joinError u fails) } else holdError g t)

/-- Groups of a cluster that wait for an entry, or for a register (R281 step 4), try again. -/
def wakeEngine (s : State) (cl : Nat) : State :=
  (List.range 3).foldl (fun s j =>
    (getCore s (3 * cl + j)).groups.foldl (fun s e =>
      if e.2.wait = some .engine then wakeGroup s (3 * cl + j) e.1 else s) s) s

/-- What a landing makes due: trap entry, moves of items, the end of draining, copies that wait for the register. -/
def afterLanding (s : State) (core ctx : Nat) : State :=
  let s := wakeEngine s (clusterOf core)
  match getGroup s core ctx with
  | none => s
  | some g =>
    let s := match g.raised with
      | some _ => if trapReady g then push s (.trapEntry core ctx) else s
      | none => s
    let s := (g.transit.filter fun t => decide (t.waits = [])).foldl (fun s t => push s (.itemMove core ctx t.slot)) s
    if g.st = .draining ∧ g.pending = [] then push s (.drainingEnd core ctx) else s

/-- A group that rolls back goes on when its last destination has landed (R321). -/
def rollDue (s : State) (core ctx : Nat) : State :=
  match getGroup s core ctx with
  | some g => if g.rolling ∧ g.pending = [] then push s (.rollback core ctx none) else s
  | none => s

/-- A new pending destination of the issuing group (R208): `land` is its value where it is already bound. -/
def addPending (s : State) (core ctx : Nat) (kind : PendKind) (regs : List Reg) (slots : List Nat)
    (land : Option Landing) : Nat × State :=
  let (id, s) := newId s
  let s := updGroup s core ctx fun g =>
    { g with pending := g.pending ++ [{ id := id, kind := kind, regs := regs, slots := slots, land := land
                                        inHandler := g.r.tr.inHandler, pc := (s.issue.map (·.pc)).getD g.pc }] }
  (id, match land with | some _ => push s (.valueLanding core ctx id) | none => s)

/-- The value of a pending destination is known, and its landing is due. -/
def bindPending (s : State) (core ctx id : Nat) (l : Landing) : State :=
  match findHolder s core ctx (holdsPend id) with
  | none => s
  | some _ =>
    push (updHolder s core ctx (holdsPend id) fun g =>
      { g with pending := g.pending.map fun p => if p.id = id then { p with land := some l } else p })
      (.valueLanding core ctx id)

/-- A status word for the destination of an engine instruction; none, with field 0 (R280, R282). `acq` is the acquire that it is as it
lands (R283). -/
def bindStatus (s : State) (core ctx : Nat) (pend : Option Nat) (v : Int) (acq : Option Acq := none) : State :=
  match pend with
  | none => s
  | some id =>
    match findHolder s core ctx (holdsPend id) with
    | none => s
    | some g =>
      match g.pending.find? fun p => p.id == id with
      | some p => bindPending s core ctx id { words := p.regs.map fun r => (r, v), acq := acq }
      | none => s

end Sys2Proof.Machine
end

