-- ==== Sys2Proof/Machine/Flags.lean ====
section
/-! DEFINITION. The sticky flags `fp.sticky` (01 R28): how an operation, a completion and a write set them. -/

namespace Sys2Proof.Machine

open Sys2Proof

/-- Flags set in a context's `fp.sticky`; they stay until software writes it. -/
def orFlags (r : Regs) (f : Flags) : Regs := { r with sticky := r.sticky.or f }

/-- Flags that a half sets in its context. -/
def setFlags (s : State) (i : Issue) (f : Flags) : State :=
  if f = Flags.none then s else updRegs s i.core i.who fun r => orFlags r f

/-- `fp.sticky` as it reads. -/
def stickyWord (f : Flags) : Int :=
  (if f.overflow then 1 else 0) + (if f.underflow then 3 else 0) + (if f.nanLost then 9 else 0) +
    (if f.invalid then 27 else 0)
/-- A write stores + where the written trit is +, and 0 otherwise. -/
def stickyOf (v : Int) : Flags :=
  { overflow := decide (trit v 0 = 1), underflow := decide (trit v 1 = 1), nanLost := decide (trit v 2 = 1)
    invalid := decide (trit v 3 = 1) }

/-- Flags of several lanes. -/
def allFlags (l : List Flags) : Flags := l.foldl Flags.or Flags.none

end Sys2Proof.Machine
end

