-- ==== Sys2Proof/Machine/Operands.lean ====
section
/-! DEFINITION. Operands and results: what each source reads, the form of each vector result, masks, destinations and
latches (06 R134 to R137; 08 R197, R198, R201 to R203; 09 R214; 10 R249, R250). -/

namespace Sys2Proof.Machine

open Sys2Proof

/-! ## Place registers -/

/-- `grp` of a context; a range casts before it is read. -/
def grpOf (s : State) (i : Issue) : Int :=
  match i.who with
  | .group c => match getGroup s i.core c with | some g => g.num | none => 0
  | .range _ => 0
/-- `team` (R148). -/
def teamOf (s : State) (i : Issue) : Int :=
  match i.who with
  | .group c =>
    match getGroup s i.core c with
    | some g => match getTeam s g.team with | some t => t.number | none => 0
    | none => 0
  | .range _ => 0
/-- `grp`, `team`, `core`, `die` in the order of their indices (R202). -/
def place (s : State) (i : Issue) (n : Nat) : Int :=
  match n with
  | 0 => grpOf s i
  | 1 => teamOf s i
  | 2 => coreInDie i.core
  | _ => dieOf i.core

/-- Is the executing context a range? -/
def inRange (i : Issue) : Bool := match i.who with | .range _ => true | .group _ => false

/-! ## Scalar sources (R214) -/

/-- The value of a scalar source. -/
def ssrc (s : State) (i : Issue) : Opd → Int
  | .reg n =>
    if n < 81 then mget 0 (srcRegs s i).s n
    else if 117 ≤ n ∧ n < 126 then mget 0 (srcRegs s i).fm (n - 117)
    else place s i (n - 162)
  | .shared n =>
    if n < 3 then (getCore s i.core).slatch.getD n 0
    else if n < 84 then mget 0 (srcRegs s i).s (n - 3)
    else place s i (n - 88)
  | .imm v => v

/-- Does a scalar source read `grp` or `team`, at which a range casts? (R139) -/
def sCasts : Opd → Bool
  | .reg n => n == 162 || n == 163
  | .shared n => n == 88 || n == 89
  | .imm _ => false

/-- Write of an `s` register. -/
def setS (s : State) (i : Issue) (n : Nat) (v : Int) : State :=
  noteRegion (updRegs s i.core i.who fun r => { r with s := mput 0 r.s n v }) i.core i.who (.s n)

/-- A scalar result goes to its destination: register, latches, or both (R203). -/
def swrite (s : State) (i : Issue) (d : Dst) (v : Int) : State :=
  match d with
  | .reg n l => if l then latchWrite (setS s i n v) i false v else setS s i n v
  | .latchOnly => latchWrite s i false v

/-- A scalar operation of its sources' values (R214, R217). -/
def scalarAlu (s : State) (d : Dst) (srcs : List Opd) (f : List Int → Int) : Host.Outcome State Fault Refusal :=
  scalarOp s fun i s =>
    if inRange i && srcs.any sCasts then groupOnly s i fun _ _ => s
    else swrite s i d (f (srcs.map (ssrc s i)))

/-! ## Address registers -/

def getA (s : State) (i : Issue) (n : Nat) : AReg := mget {} (srcRegs s i).a n
def setA (s : State) (i : Issue) (n : Nat) (v : AReg) : State :=
  noteRegion (updRegs s i.core i.who fun r => { r with a := mput {} r.a n v }) i.core i.who (.a n)
/-- Trits 4 to 0 of an address register (R44). -/
def permTrits (a : AReg) : Int :=
  (if a.load then 1 else 0) + (if a.store then 3 else 0) + (if a.atomic then 9 else 0) + (if a.engine then 27 else 0) +
    (if a.scratch then 81 else 0)
/-- A register whose window is the single address of a new pointer (R221, R222). -/
def pointAt (a : AReg) (p : Int) : AReg := { a with ptr := p, base := p, limit := p }

/-! ## Masks (R137, R197) -/

/-- The trit of mask `k` in a slot; `k0` reads +. -/
def maskTrit (r : Regs) (k slot : Nat) : Int :=
  if k = 0 then 1
  else match mget (.u 0) r.k k with
    | .u t => t
    | .f l => l.getD slot 0

/-- The guard tests of R197. -/
def guardTest (test t : Int) : Bool :=
  if test = 0 then true
  else if test = 1 then decide (t = 1)
  else if test = -1 then decide (t = -1)
  else if test = 3 then decide (t = 0)
  else if test = 2 then decide (t ≠ 1)
  else if test = -2 then decide (t ≠ -1)
  else if test = -3 then decide (t ≠ 0)
  else if test = 4 then decide (0 ≤ t)
  else decide (t ≤ 0)

/-- The lanes in which a bundle executes: active, and the guard holds (R197, R250). -/
def guardLanes (s : State) (core : Nat) (w : Who) (mask : Nat) (test : Int) : List Nat :=
  (whoActive s core w).filter fun l => guardTest test (maskTrit (whoRegs s core w) mask l)

/-- Write of mask `k` in the lanes given; the other trits keep their values. In a range the one trit is written. -/
def setMask (s : State) (i : Issue) (k : Nat) (vals : List (Nat × Int)) : State :=
  let s := match i.who with
    | .range e => updRange s i.core e fun q =>
        { q with r := { q.r with k := mput (.u 0) q.r.k k (.u ((vals.head?.map (·.2)).getD 0)) } }
    | .group c => updGroup s i.core c fun g =>
        let old := (List.range g.width).map (maskTrit g.r k)
        { g with r := { g.r with k := mput (.u 0) g.r.k k (.f (vals.foldl (fun a p => a.set p.1 p.2) old)) } }
  noteRegion s i.core i.who (.k k)

/-- A mask takes one trit in every occupied lane (R219). -/
def setMaskAll (s : State) (i : Issue) (k : Nat) (t : Int) : State :=
  noteRegion (updRegs s i.core i.who fun r => { r with k := mput (.u 0) r.k k (.u t) }) i.core i.who (.k k)

/-! ## Vector registers (R134, R135) -/

/-- An armature; with every stride 0 it is uniform (R134). -/
def mkA (b sx sy sz : Int) : VReg := if sx = 0 ∧ sy = 0 ∧ sz = 0 then .u b else .a b sx sy sz
/-- Base and strides of a form U or A register. -/
def armParts : VReg → Option (Int × Int × Int × Int)
  | .u b => some (b, 0, 0, 0)
  | .a b x y z => some (b, x, y, z)
  | .f _ => none
def isU : VReg → Bool
  | .u _ => true
  | _ => false
def isF : VReg → Bool
  | .f _ => true
  | _ => false
def uVal : VReg → Int
  | .u b => b
  | _ => 0
/-- The form tag: 0 U, 1 A, 2 F. -/
def formTag : VReg → Nat
  | .u _ => 0
  | .a .. => 1
  | .f _ => 2

/-- What a vector source reads (R249). -/
def vsrc (s : State) (i : Issue) (w : Nat) : Opd → VReg
  | .reg n => mget (.u 0) (srcRegs s i).v n
  | .shared n =>
    if n < 3 then .u ((getCore s i.core).vlatch.getD n 0)
    else if n < 84 then .u (mget 0 (srcRegs s i).s (n - 3))
    else if n = 84 then .a 0 1 0 0
    else if n = 85 then .a 0 0 1 0
    else if n = 86 then .a 0 0 0 1
    else if n = 87 then .f ((List.range w).map fun (l : Nat) => (l : Int))
    else .u (place s i (n - 88))
  | .imm v => .u v

/-- Does a vector source read `lane`, `grp` or `team`, at which a range casts? (R139) -/
def vCasts : Opd → Bool
  | .shared n => n == 87 || n == 88 || n == 89
  | _ => false

/-- Does the write of a half cover the group? (R198) -/
def covers (g : Group) (i : Issue) : Bool := (occupied g).all fun l => i.guard.contains l

/-- The register that a result leaves: the result itself where the write covers the group, else form F with the old
values in the other slots (R198). -/
def merged (g : Group) (i : Issue) (old res : VReg) : VReg :=
  match covers g i, res with
  | true, .u b => .u b
  | true, .a b x y z => .a b x y z
  | _, _ =>
    .f ((List.range g.width).map fun k => if i.guard.contains k then storedVal res g.items k else storedVal old g.items k)

/-- May the group write this register in this form in a handler? (R317) -/
def handlerAllows (g : Group) (n : Nat) (new : VReg) : Bool :=
  if g.r.tr.inHandler then
    match g.kept with
    | some k => decide (mget 0 k.forms n = 2) || decide (mget 0 k.forms n = formTag new)
    | none => true
  else true

/-- Write of a vector register of a context. -/
def setV (s : State) (i : Issue) (n : Nat) (v : VReg) : State :=
  noteRegion (updRegs s i.core i.who fun r => { r with v := mput (.u 0) r.v n v }) i.core i.who (.v n)

/-- Does a destination write the latches? (R203) -/
def wantsLatch : Dst → Bool
  | .reg _ l => l
  | .latchOnly => true

/-- A vector result goes to its destination, with its flags: the checks of R136, R198, R203 and R317 first. -/
def vwrite (s : State) (i : Issue) (d : Dst) (res : VReg) (fl : Flags) : State :=
  match i.who with
  | .range _ =>
    if isF res || (wantsLatch d && !isU res) then groupOnly s i fun _ _ => s
    else
      let s := setFlags s i fl
      match d with
      | .reg n l => if l then latchWrite (setV s i n res) i true (uVal res) else setV s i n res
      | .latchOnly => latchWrite s i true (uVal res)
  | .group c =>
    match getGroup s i.core c with
    | none => s
    | some g =>
      let latchOk := isU res && covers g i
      match d with
      | .latchOnly => if latchOk then latchWrite (setFlags s i fl) i true (uVal res) else illegalForm s i
      | .reg n l =>
        let new := merged g i (mget (.u 0) g.r.v n) res
        if (isF new && decide (g.nf ≤ n)) || (l && !latchOk) then illegalForm s i
        else if !handlerAllows g n new then doubleFault (breakIssue s i) i.core c 2 i.pc
        else
          let s := setV (setFlags s i fl) i n new
          if l then latchWrite s i true (uVal res) else s

/-- The lanes of a form F result: the operation's value in each slot given, 0 in the others. -/
def lanesOf (w : Nat) (slots : List Nat) (f : Nat → Int) : VReg :=
  .f ((List.range w).map fun l => if slots.contains l then f l else 0)

/-- A vector operation, lane by lane: `arm` is its result where that is an armature (R135), `f` its value and flags in a
lane. A range executes it where the result is in form U or A (R250). -/
def vectorAlu (s : State) (d : Dst) (srcs : List Opd) (arm : List VReg → Option VReg)
    (f : List Int → Int × Flags) : Host.Outcome State Fault Refusal :=
  inIssue s fun i s =>
    if i.guard = [] then s
    else match i.who with
      | .range _ =>
        let vs := srcs.map (vsrc s i 0)
        if srcs.any vCasts then groupOnly s i fun _ _ => s
        else match arm vs with
          | some v => vwrite s i d v Flags.none
          | none =>
            if vs.all isU then
              let r := f (vs.map uVal)
              vwrite s i d (.u r.1) r.2
            else groupOnly s i fun _ _ => s
      | .group c =>
        match getGroup s i.core c with
        | none => s
        | some g =>
          let vs := srcs.map (vsrc s i g.width)
          match arm vs with
          | some v => vwrite s i d v Flags.none
          | none =>
            if vs.all isU then
              let r := f (vs.map uVal)
              vwrite s i d (.u r.1) r.2
            else
              let at_ (l : Nat) := f (vs.map fun v => laneVal v g.items l)
              vwrite s i d (lanesOf g.width i.guard fun l => (at_ l).1) (allFlags (i.guard.map fun l => (at_ l).2))

/-- No armature result. -/
def noArm : List VReg → Option VReg := fun _ => none

/-- An integer operation without flags. -/
def intLane1 (f : Int → Int) : List Int → Int × Flags
  | [a] => (f a, Flags.none)
  | _ => (0, Flags.none)
def intLane2 (f : Int → Int → Int) : List Int → Int × Flags
  | [a, b] => (f a b, Flags.none)
  | _ => (0, Flags.none)
def intLane3 (f : Int → Int → Int → Int) : List Int → Int × Flags
  | [a, b, c] => (f a b c, Flags.none)
  | _ => (0, Flags.none)

/-- Armature results of R135: sums and differences, product with a uniform value, left shift by a uniform value, copy. -/
def armLin (f : Int → Int → Int) : List VReg → Option VReg
  | [p, q] =>
    match armParts p, armParts q with
    | some (b, x, y, z), some (b', x', y', z') =>
      some (mkA (wrap 27 (f b b')) (wrap 27 (f x x')) (wrap 27 (f y y')) (wrap 27 (f z z')))
    | _, _ => none
  | _ => none
/-- Base and strides under a uniform factor. -/
def armScale (f : Int → Int) (p : VReg) : Option VReg :=
  match armParts p with
  | some (b, x, y, z) => some (mkA (f b) (f x) (f y) (f z))
  | none => none
def armMul : List VReg → Option VReg
  | [.u a, q] => armScale (fun v => wrap 27 (a * v)) q
  | [p, .u b] => armScale (fun v => wrap 27 (v * b)) p
  | _ => none
def armShift : List VReg → Option VReg
  | [p, .u b] => if 0 ≤ b then armScale (fun v => shift v b) p else none
  | _ => none
def armNeg : List VReg → Option VReg
  | [p] => armScale (fun v => wrap 27 (-v)) p
  | _ => none
def armCopy : List VReg → Option VReg
  | [p] => armScale id p
  | _ => none

/-- A mask result, lane by lane; a range needs uniform sources (R256). -/
def maskAlu (s : State) (k : Nat) (srcs : List Opd) (f : List Int → Int) : Host.Outcome State Fault Refusal :=
  inIssue s fun i s =>
    if i.guard = [] then s
    else match i.who with
      | .range _ =>
        let vs := srcs.map (vsrc s i 0)
        if srcs.any vCasts || !(vs.all isU) then groupOnly s i fun _ _ => s
        else setMask s i k [(0, f (vs.map uVal))]
      | .group c =>
        match getGroup s i.core c with
        | none => s
        | some g =>
          let vs := srcs.map (vsrc s i g.width)
          setMask s i k (i.guard.map fun l => (l, f (vs.map fun v => laneVal v g.items l)))

/-- A mask of masks (R256). -/
def maskOp (s : State) (k : Nat) (srcs : List Nat) (f : List Int → Int) : Host.Outcome State Fault Refusal :=
  inIssue s fun i s =>
    if i.guard = [] then s
    else setMask s i k (i.guard.map fun l => (l, f (srcs.map fun m => maskTrit (srcRegs s i) m l)))

end Sys2Proof.Machine
end

