-- ==== Sys2Proof/Machine/Armature.lean ====
section
/-! DEFINITION. Address-register operations (09 R221 to R223; 02 R44 to R46). None performs an access. -/

namespace Sys2Proof.Machine

open Sys2Proof

/-- An address-register instruction whose scalar sources a range may read. -/
def aOp (s : State) (srcs : List Opd) (f : Issue → State → State) : Host.Outcome State Fault Refusal :=
  scalarOp s fun i s => if inRange i && srcs.any sCasts then groupOnly s i fun _ _ => s else f i s

/-- `ali` (R221): pointer, base and limit. -/
def execAli (d : Nat) (m : Int) (s : State) : Host.Outcome State Fault Refusal :=
  aOp s [] fun i s => setA s i d (pointAt (getA s i d) m)
/-- `amov` (R222): all 117 trits. -/
def execAmov (d a : Nat) (s : State) : Host.Outcome State Fault Refusal :=
  aOp s [] fun i s => setA s i d (getA s i a)
/-- `aadv` (R222, R46): the new pointer lies from base to limit + 1, or the bounds fault is raised. -/
def execAadv (d : Nat) (b : Opd) (s : State) : Host.Outcome State Fault Refusal :=
  aOp s [b] fun i s =>
    let a := getA s i d
    let p := a.ptr + ssrc s i b
    if p < a.base ∨ a.limit + 1 < p ∨ outOfSpace p then boundsAll s i p else setA s i d { a with ptr := p }
/-- `awin` (R222): the window around the pointer. -/
def execAwin (d : Nat) (a b : Opd) (s : State) : Host.Outcome State Fault Refusal :=
  aOp s [a, b] fun i s =>
    let r := getA s i d
    setA s i d { r with base := sat 36 (r.ptr + ssrc s i a), limit := sat 36 (r.ptr + ssrc s i b) }
/-- `aperm` (R222): trits 4 to 0; a trit of - is refused with the illegal-form trap. -/
def execAperm (d : Nat) (a : Opd) (s : State) : Host.Outcome State Fault Refusal :=
  aOp s [a] fun i s =>
    let v := ssrc s i a
    if (List.range 5).any fun j => trit v j == -1 then illegalForm s i
    else setA s i d { getA s i d with
      load := decide (trit v 0 = 1), store := decide (trit v 1 = 1), atomic := decide (trit v 2 = 1)
      engine := decide (trit v 3 = 1), scratch := decide (trit v 4 = 1) }
/-- A field of an address register by its selector (R223). -/
def agetField (r : AReg) (b : Int) : Int :=
  if b = 0 then trits r.ptr 26 0
  else if b = 1 then trits r.ptr 35 27
  else if b = 2 then sat 27 (r.ptr - r.base)
  else if b = 3 then sat 27 (r.limit - r.ptr)
  else permTrits r
/-- `aget` (R223). -/
def execAget (d : Dst) (a : Nat) (b : Int) (s : State) : Host.Outcome State Fault Refusal :=
  aOp s [] fun i s => swrite s i d (agetField (getA s i a) b)
/-- `acat` (R222): a pointer of two words. -/
def execAcat (d : Nat) (a b : Opd) (s : State) : Host.Outcome State Fault Refusal :=
  aOp s [a, b] fun i s =>
    setA s i d (pointAt (getA s i d) (ssrc s i a + 3 ^ 27 * trits (ssrc s i b) 8 0))

end Sys2Proof.Machine
end

