-- ==== Sys2Proof/Machine/Transc.lean ====
section
/-! DEFINITION. The transcendental functions, correctly rounded (10 R254). Each is enclosed between two exact values at a
working precision; where both round alike, that is the result; otherwise the precision grows. -/

namespace Sys2Proof.Machine

open Sys2Proof

/-- An interval of reals, its ends scaled by `3^P`. -/
structure Iv where
  lo : Int
  hi : Int
  deriving DecidableEq, Repr

/-- Division rounded up. -/
def cdiv (a b : Int) : Int := -(-a / b)

/-- Operations that enclose the exact result, at scale `3^P = S`. -/
def ivAdd (a b : Iv) : Iv := ⟨a.lo + b.lo, a.hi + b.hi⟩
def ivNeg (a : Iv) : Iv := ⟨-a.hi, -a.lo⟩
def ivSub (a b : Iv) : Iv := ivAdd a (ivNeg b)
def ivMul (S : Int) (a b : Iv) : Iv :=
  let p := a.lo * b.lo
  let q := a.lo * b.hi
  let r := a.hi * b.lo
  let t := a.hi * b.hi
  ⟨min (min p q) (min r t) / S, cdiv (max (max p q) (max r t)) S⟩
/-- Division by a natural above 0. -/
def ivDivN (a : Iv) (n : Nat) : Iv := ⟨a.lo / n, cdiv a.hi n⟩
/-- Multiplication by an integer. -/
def ivScale (a : Iv) (k : Int) : Iv := if 0 ≤ k then ⟨a.lo * k, a.hi * k⟩ else ⟨a.hi * k, a.lo * k⟩
/-- Division by an interval of values above 0. -/
def ivDiv (S : Int) (a b : Iv) : Iv :=
  ⟨if 0 ≤ a.lo then a.lo * S / b.hi else a.lo * S / b.lo, if 0 ≤ a.hi then cdiv (a.hi * S) b.lo else cdiv (a.hi * S) b.hi⟩
/-- An exact value at scale `3^P`. -/
def ivOf (P : Nat) (x : Exact) : Iv :=
  let e := x.exp + P
  if 0 ≤ e then ⟨x.num * 3 ^ e.toNat / x.den, cdiv (x.num * 3 ^ e.toNat) x.den⟩
  else ⟨x.num / (x.den * 3 ^ (-e).toNat), cdiv x.num (x.den * 3 ^ (-e).toNat)⟩
/-- Widened by `e` units on both sides. -/
def ivWiden (a : Iv) (e : Int) : Iv := ⟨a.lo - e, a.hi + e⟩

/-- Taylor sum of e^x from term `j`, for |x| ≤ 1/2: each later sum is smaller than its first term doubled. -/
def expGo (S : Int) (x : Iv) : Nat → Nat → Iv → Iv
  | 0, _, t => ivWiden t (2 * (max t.hi (-t.lo)) + 2)
  | n + 1, j, t => ivAdd t (expGo S x n (j + 1) (ivDivN (ivMul S t x) (j + 1)))

/-- The cube, `n` times. -/
def cubes (S : Int) : Nat → Iv → Iv
  | 0, a => a
  | n + 1, a => cubes S n (ivMul S a (ivMul S a a))

/-- e^x for 0 ≤ x < 1000, at scale `3^P` (R254). -/
def ivExp (P : Nat) (x : Iv) : Iv :=
  let S : Int := 3 ^ P
  cubes S 8 (expGo S (ivDivN x 6561) (P / 3 + 8) 0 ⟨S, S⟩)

/-- Odd series Σ sg^j z^(2j+1)/(2j+1) from its `j`th power `t`, |z| ≤ 1/2. -/
def oddGo (S : Int) (z2 : Iv) (alt : Bool) : Nat → Nat → Iv → Iv
  | 0, _, t => ivWiden ⟨0, 0⟩ (2 * (max t.hi (-t.lo)) + 2)
  | n + 1, j, t =>
    let r := oddGo S z2 alt n (j + 1) (ivMul S t z2)
    ivAdd (ivDivN t (2 * j + 1)) (if alt then ivNeg r else r)

/-- atanh and atan of |z| ≤ 1/2. -/
def ivAtanh (P : Nat) (z : Iv) : Iv := oddGo (3 ^ P) (ivMul (3 ^ P) z z) false (P + 2) 0 z
def ivAtan (P : Nat) (z : Iv) : Iv := oddGo (3 ^ P) (ivMul (3 ^ P) z z) true (P / 2 + 2) 0 z
/-- ln 3 = 2 atanh (1/2). -/
def ivLn3 (P : Nat) : Iv := ivScale (ivAtanh P (ivOf P { num := 1, den := 2 })) 2
/-- π = 16 atan (1/5) - 4 atan (1/239). -/
def ivPi (P : Nat) : Iv :=
  ivSub (ivScale (ivAtan P (ivOf P { num := 1, den := 5 })) 16)
    (ivScale (ivAtan P (ivOf P { num := 1, den := 239 })) 4)

/-- The ends of an interval as exact values. -/
def ivEnds (P : Nat) (a : Iv) : Exact × Exact := ({ num := a.lo, exp := -P }, { num := a.hi, exp := -P })

/-- The first precision at which both ends round alike gives the result. -/
def settlePrec (f : FFmt) (enc : Nat → Exact × Exact) : List Nat → FRes
  | [] => { enc := 0 }
  | [p] => fround f (enc p).1
  | p :: t =>
    let e := enc p
    if fround f e.1 = fround f e.2 then fround f e.1 else settlePrec f enc t

/-- The working precisions, in trits. -/
def precisions : List Nat := [80, 160, 400, 1000]

/-- The place of the leading trit of a nonzero value. -/
def place3 (m k : Int) : Int := (len3 m.natAbs : Int) + k

/-- e^x of a nonzero finite value. -/
def transExp (f : FFmt) (m k : Int) : FRes :=
  if 6 < place3 m k then fround f { num := 1, exp := if 0 < m then 2000 else -2000 }
  else settlePrec f (fun P =>
    let e := ivExp P (ivOf P { num := (m.natAbs : Int), exp := k })
    if 0 < m then ivEnds P e
    else ({ num := 1, den := e.hi.toNat, exp := P }, { num := 1, den := e.lo.toNat, exp := P })) precisions

/-- 3^x of a nonzero finite value. -/
def transExp3 (f : FFmt) (m k : Int) : FRes :=
  if 6 < place3 m k then fround f { num := 1, exp := if 0 < m then 2000 else -2000 }
  else
    let n := exactInt { num := m, exp := k }
    let fr := addExact m k (-n) 0
    if fr.num = 0 then fround f { num := 1, exp := n }
    else settlePrec f (fun P =>
      let e := ivExp P (ivMul (3 ^ P) (ivOf P { fr with num := (fr.num.natAbs : Int) }) (ivLn3 P))
      if 0 < fr.num then ({ num := e.lo, exp := n - P }, { num := e.hi, exp := n - P })
      else ({ num := 1, den := e.hi.toNat, exp := n + P }, { num := 1, den := e.lo.toNat, exp := n + P })) precisions

/-- The scale `n` and the significand `y = x/3^n`, from 1/2 to 3/2, of a positive value. -/
def logParts (m k : Int) : Int × Exact :=
  let l := len3 m.natAbs
  let n : Int := if 2 * m.natAbs > 3 ^ l then l else (l : Int) - 1
  (k + n, { num := m, exp := -n })

/-- ln y of a significand. -/
def ivLnSig (P : Nat) (y : Exact) : Iv :=
  let a := addExact y.num y.exp (-1) 0
  let b := addExact y.num y.exp 1 0
  ivScale (ivAtanh P (ivOf P { num := a.num, den := b.num.toNat, exp := a.exp - b.exp })) 2

/-- ln x and log3 x of a positive finite value. -/
def transLog (f : FFmt) (base3 : Bool) (m k : Int) : FRes :=
  let p := logParts m k
  if (addExact p.2.num p.2.exp (-1) 0).num = 0 ∧ (base3 ∨ p.1 = 0) then fround f { num := p.1 }
  else settlePrec f (fun P =>
    let S : Int := 3 ^ P
    let y := ivLnSig P p.2
    ivEnds P (if base3 then ivAdd ⟨p.1 * S, p.1 * S⟩ (ivDiv S y (ivLn3 P)) else ivAdd (ivScale (ivLn3 P) p.1) y))
    precisions

/-- Sine from the term `t` of order `j`, |x| ≤ 1: alternating, terms falling. -/
def trigGo (S : Int) (x2 : Iv) : Nat → Nat → Iv → Iv
  | 0, _, t => ivWiden ⟨0, 0⟩ (2 * (max t.hi (-t.lo)) + 2)
  | n + 1, j, t => ivSub t (trigGo S x2 n (j + 2) (ivDivN (ivMul S t x2) ((j + 1) * (j + 2))))

/-- sin and cos of a nonzero finite value. -/
def transTrig (f : FFmt) (cosine : Bool) (m k : Int) : FRes :=
  settlePrec f (fun p =>
    let P := p + (place3 m k).natAbs + 2
    let S : Int := 3 ^ P
    let x := ivOf P { num := m, exp := k }
    let half := ivDivN (ivPi P) 2
    let q := (2 * x.lo + half.lo) / (2 * half.lo)
    let r := ivSub x (ivScale half q)
    let r2 := ivMul S r r
    let n := (q + if cosine then 1 else 0) % 4
    let v := if n % 2 = 0 then trigGo S r2 (P / 2 + 8) 1 r else trigGo S r2 (P / 2 + 8) 0 ⟨S, S⟩
    ivEnds P (if n < 2 then v else ivNeg v)) precisions

/-- tanh of a nonzero finite value: (E - 1)/(E + 1) with E = e^2|x|. -/
def transTanh (f : FFmt) (m k : Int) : FRes :=
  let sg := sgnv m
  if 6 < place3 m k then fround f { num := sg }
  else settlePrec f (fun p =>
    let P := p + (place3 m k).natAbs + 2
    let S : Int := 3 ^ P
    let e := ivExp P (ivOf P { num := 2 * (m.natAbs : Int), exp := k })
    let v := ivDiv S ⟨e.lo - S, e.hi - S⟩ ⟨e.lo + S, e.hi + S⟩
    ivEnds P (if 0 < sg then v else ivNeg v)) precisions

/-- The transcendentals of R254. -/
inductive Trans
  | exp | exp3 | log | log3 | rsqrt | sin | cos | tanh
  deriving DecidableEq, Repr

/-- One transcendental of a value, with the special cases of R254. -/
def ftrans (f : FFmt) (t : Trans) (v : FVal) : FRes :=
  let num (n : Int) : FRes := fround f { num := n }
  match v with
  | .nan => { enc := fNaN f }
  | .inf neg =>
    match t with
    | .exp | .exp3 => if neg then { enc := 0 } else { enc := fInf f false }
    | .log | .log3 => if neg then finvalid f else { enc := fInf f false }
    | .rsqrt => if neg then finvalid f else { enc := 0 }
    | .sin | .cos => finvalid f
    | .tanh => num (if neg then -1 else 1)
  | .fin m k =>
    if m = 0 then
      match t with
      | .exp | .exp3 | .cos => num 1
      | .log | .log3 => { enc := fInf f true }
      | .rsqrt => { enc := fInf f false, fl := { overflow := true } }
      | .sin | .tanh => { enc := 0 }
    else
      match t with
      | .exp => transExp f m k
      | .exp3 => transExp3 f m k
      | .log => if m < 0 then finvalid f else transLog f false m k
      | .log3 => if m < 0 then finvalid f else transLog f true m k
      | .rsqrt => if m < 0 then finvalid f else sqrtExact f { num := 1, den := m.toNat, exp := -k }
      | .sin => transTrig f false m k
      | .cos => transTrig f true m k
      | .tanh => transTanh f m k

end Sys2Proof.Machine
end

