-- ==== Sys2Proof/Machine/Float.lean ====
section
/-! DEFINITION. Vector floating operations on T27 values (10 R252 to R255; 01 R20 to R29). -/

namespace Sys2Proof.Machine

open Sys2Proof

/-- The value of a lane read as T27 (R252). -/
def t27 (x : Int) : FVal := fdecode fmtT27 x
/-- A result with its flags. -/
def fres (r : FRes) : Int × Flags := (r.enc, r.fl)
/-- Floating operations of one, two and three lane values. -/
def fLane1 (f : FVal → FRes) : List Int → Int × Flags
  | [a] => fres (f (t27 a))
  | _ => (0, Flags.none)
def fLane2 (f : FVal → FVal → FRes) : List Int → Int × Flags
  | [a, b] => fres (f (t27 a) (t27 b))
  | _ => (0, Flags.none)
def fLane3 (f : FVal → FVal → FVal → FRes) : List Int → Int × Flags
  | [a, b, c] => fres (f (t27 a) (t27 b) (t27 c))
  | _ => (0, Flags.none)

/-- A T27 product under R27. -/
def t27Mul (a b : FVal) : FRes :=
  match fmulV a b with
  | some p => fput fmtT27 p
  | none => finvalid fmtT27
/-- Magnitude of a value. -/
def fvAbs : FVal → FVal
  | .fin m k => .fin (m.natAbs : Int) k
  | .inf _ => .inf false
  | .nan => .nan
/-- Exact sum of finite values. -/
def addFin (x : Exact) : FVal → Exact
  | .fin m k => addExact x.num x.exp m k
  | _ => x
/-- The value 1. -/
def fvOne : FVal := .fin 1 0

/-- `fadd`: sum, rounded once (R253). -/
def execFadd (d : Dst) (a b : Opd) (s : State) : Host.Outcome State Fault Refusal :=
  vectorAlu s d [a, b] noArm (fLane2 (faddV fmtT27))
/-- `fsub`: difference (R253). -/
def execFsub (d : Dst) (a b : Opd) (s : State) : Host.Outcome State Fault Refusal :=
  vectorAlu s d [a, b] noArm (fLane2 fun a b => faddV fmtT27 a (fvNeg b))
/-- `fmul`: product (R253). -/
def execFmul (d : Dst) (a b : Opd) (s : State) : Host.Outcome State Fault Refusal :=
  vectorAlu s d [a, b] noArm (fLane2 t27Mul)
/-- `fdiv`: quotient with the extra cases of R253. -/
def execFdiv (d : Dst) (a b : Opd) (s : State) : Host.Outcome State Fault Refusal :=
  vectorAlu s d [a, b] noArm (fLane2 (fdivV fmtT27))
/-- `fsqrt`: square root (R253). -/
def execFsqrt (d : Dst) (a : Opd) (s : State) : Host.Outcome State Fault Refusal :=
  vectorAlu s d [a] noArm (fLane1 (fsqrtV fmtT27))
/-- `fmin`: the smaller, a single NaN ignored (R253). -/
def execFmin (d : Dst) (a b : Opd) (s : State) : Host.Outcome State Fault Refusal :=
  vectorAlu s d [a, b] noArm (fLane2 fun a b => fput fmtT27 (fminV a b))
/-- `fmax`: the larger, a single NaN ignored (R253). -/
def execFmax (d : Dst) (a b : Opd) (s : State) : Host.Outcome State Fault Refusal :=
  vectorAlu s d [a, b] noArm (fLane2 fun a b => fput fmtT27 (fmaxV a b))
/-- `fneg`: negation (R22). -/
def execFneg (d : Dst) (a : Opd) (s : State) : Host.Outcome State Fault Refusal :=
  vectorAlu s d [a] noArm (fLane1 fun a => fput fmtT27 (fvNeg a))
/-- `fabs`: magnitude (R253). -/
def execFabs (d : Dst) (a : Opd) (s : State) : Host.Outcome State Fault Refusal :=
  vectorAlu s d [a] noArm (fLane1 fun a => fput fmtT27 (fvAbs a))
/-- Scaling by a power of 3, whose exponent is the lane's integer. -/
def fsclLane : List Int → Int × Flags
  | [a, b] => fres (fsclV fmtT27 (t27 a) b)
  | _ => (0, Flags.none)
/-- `fscl`: `a * 3^b` (R253). -/
def execFscl (d : Dst) (a b : Opd) (s : State) : Host.Outcome State Fault Refusal :=
  vectorAlu s d [a, b] noArm (fsclLane)
/-- `fint`: nearest integer (R253). -/
def execFint (d : Dst) (a : Opd) (s : State) : Host.Outcome State Fault Refusal :=
  vectorAlu s d [a] noArm (fLane1 (fintV fmtT27))
/-- `fexp`: e^a (R254). -/
def execFexp (d : Dst) (a : Opd) (s : State) : Host.Outcome State Fault Refusal :=
  vectorAlu s d [a] noArm (fLane1 (ftrans fmtT27 .exp))
/-- `fexp3`: 3^a (R254). -/
def execFexp3 (d : Dst) (a : Opd) (s : State) : Host.Outcome State Fault Refusal :=
  vectorAlu s d [a] noArm (fLane1 (ftrans fmtT27 .exp3))
/-- `flog`: ln a (R254). -/
def execFlog (d : Dst) (a : Opd) (s : State) : Host.Outcome State Fault Refusal :=
  vectorAlu s d [a] noArm (fLane1 (ftrans fmtT27 .log))
/-- `flog3`: log3 a (R254). -/
def execFlog3 (d : Dst) (a : Opd) (s : State) : Host.Outcome State Fault Refusal :=
  vectorAlu s d [a] noArm (fLane1 (ftrans fmtT27 .log3))
/-- `frcp`: 1/a (R254). -/
def execFrcp (d : Dst) (a : Opd) (s : State) : Host.Outcome State Fault Refusal :=
  vectorAlu s d [a] noArm (fLane1 (fdivV fmtT27 fvOne))
/-- `frsqrt`: 1/sqrt a (R254). -/
def execFrsqrt (d : Dst) (a : Opd) (s : State) : Host.Outcome State Fault Refusal :=
  vectorAlu s d [a] noArm (fLane1 (ftrans fmtT27 .rsqrt))
/-- `fsin`: sin a (R254). -/
def execFsin (d : Dst) (a : Opd) (s : State) : Host.Outcome State Fault Refusal :=
  vectorAlu s d [a] noArm (fLane1 (ftrans fmtT27 .sin))
/-- `fcos`: cos a (R254). -/
def execFcos (d : Dst) (a : Opd) (s : State) : Host.Outcome State Fault Refusal :=
  vectorAlu s d [a] noArm (fLane1 (ftrans fmtT27 .cos))
/-- `ftanh`: tanh a (R254). -/
def execFtanh (d : Dst) (a : Opd) (s : State) : Host.Outcome State Fault Refusal :=
  vectorAlu s d [a] noArm (fLane1 (ftrans fmtT27 .tanh))
/-- `fma`: `a*b + c`, rounded once (R255). -/
def execFma (d : Dst) (a b c : Opd) (s : State) : Host.Outcome State Fault Refusal :=
  vectorAlu s d [a, b, c] noArm (fLane3 (fmaV fmtT27))
/-- `fms`: `a*b - c`, rounded once (R255). -/
def execFms (d : Dst) (a b c : Opd) (s : State) : Host.Outcome State Fault Refusal :=
  vectorAlu s d [a, b, c] noArm (fLane3 fun a b c => fmaV fmtT27 a b (fvNeg c))
/-- `fnma`: `-a*b + c`, rounded once (R255). -/
def execFnma (d : Dst) (a b c : Opd) (s : State) : Host.Outcome State Fault Refusal :=
  vectorAlu s d [a, b, c] noArm (fLane3 fun a b c => fmaV fmtT27 (fvNeg a) b c)
/-- `fclamp`: `fmin(fmax(a, b), c)` (R255). -/
def execFclamp (d : Dst) (a b c : Opd) (s : State) : Host.Outcome State Fault Refusal :=
  vectorAlu s d [a, b, c] noArm (fLane3 fun a b c => fput fmtT27 (fminV (fmaxV a b) c))

end Sys2Proof.Machine
end

