-- ==== Sys2Proof/Machine/LoadStore.lean ====
section
/-! DEFINITION. Memory accesses of a group: effective addresses, the checks of R265 in their order, watchpoints, loads,
stores, packed and uniform accesses, prefetch and fences (10 R264 to R278; 03 R72 to R78; 12 R330). -/

namespace Sys2Proof.Machine

open Sys2Proof

/-! ## Checks -/

/-- The access of one lane: its slot, effective address and the number of units it touches (R264). -/
structure Lane where
  slot : Nat
  e : Int
  n : Nat
  deriving DecidableEq, Repr

/-- Where a checked access goes: units of memory, the scratchpad, or nowhere, suppressed (R74). -/
inductive Place
  | mem (us : List PUnit)
  | sp
  | out
  deriving DecidableEq, Repr

/-- A checked access of a lane. -/
structure Checked where
  lane : Lane
  place : Place
  deriving DecidableEq, Repr

/-- Does an address register permit an access of a kind? (R44) -/
def permits (a : AReg) : AccKind → Bool
  | .load => a.load
  | .store => a.store
  | .atomic => a.atomic
  | _ => a.engine
/-- The register check (R45). -/
def regCheck (a : AReg) (kind : AccKind) (e : Int) (n : Nat) : Bool :=
  decide (a.base ≤ e) && decide (e + n - 1 ≤ a.limit) && permits a kind

/-- Does a run of scratchpad nonets lie in settled scratch banks? (R74) -/
def spFits (s : State) (cl : Nat) (e : Int) (n : Nat) : Bool := spIn s cl e && spIn s cl (e + n - 1)

/-- The register check and the translation of one lane's access (R265 step 3), and where it goes. -/
def checkLane (s : State) (x : XlCtx) (cl : Nat) (a : AReg) (kind : AccKind) (binary : Bool) (l : Lane) :
    Except XFault Place × State :=
  if !regCheck a kind l.e l.n then (.error ⟨1, 3⟩, s)
  else if a.scratch then (.ok (if !binary && spFits s cl l.e l.n then .sp else .out), s)
  else match translate s x kind binary l.e l.n with
    | (.ok us, s) => (.ok (.mem us), s)
    | (.error f, s) => (.error f, s)

/-- Every lane's access, checked in turn: those that pass, and the entries of those that fail. -/
def checkLanes (x : XlCtx) (cl : Nat) (a : AReg) (kind : AccKind) (binary : Bool) :
    List Lane → State → List Checked × List LaneEntry × State
  | [], s => ([], [], s)
  | l :: t, s =>
    let (r, s) := checkLane s x cl a kind binary l
    let (ok, bad, s) := checkLanes x cl a kind binary t s
    match r with
    | .ok p => ({ lane := l, place := p } :: ok, bad, s)
    | .error f => (ok, { slot := l.slot, addr := l.e, cause := f.cause, level := f.level } :: bad, s)

/-- Does an access go to a page that admits no atomic? (R265 step 4) -/
def atomicRefused (c : Checked) : Bool :=
  match c.place with
  | .mem (u :: _) => let r := frameRegion (frameOf u.pa); decide (r < 1) || decide (3 < r)
  | _ => false

/-- Entries of lanes that fail a check without a cause. -/
def laneMarks (l : List Lane) : List LaneEntry := l.map fun k => { slot := k.slot, addr := k.e }
/-- For an access made once for the group, every active lane is marked (R270). -/
def markAll (g : Group) (uni : Bool) (l : List LaneEntry) : List LaneEntry :=
  if uni then match l with
    | [] => []
    | e :: _ => (activeLanes g).map fun k => { e with slot := k }
  else l

/-! ## Watchpoints (R330) -/

/-- Does watchpoint `n` of a die match the addresses from `e`? One whose length has never been written, 0, watches none (R324, R330). -/
def watchHit (d : Die) (n : Nat) (core : Nat) (scratch : Bool) (kind : AccKind) (l : Lane) : Bool :=
  let ctl := if n = 0 then d.w0ctl else d.w1ctl
  let base := join36 (if n = 0 then d.w0lo else d.w1lo) (trits ctl 26 18)
  let len := if n = 0 then d.w0len else d.w1len
  let cl := trits ctl 17 13
  decide (trit ctl 2 = 1) && (decide (cl = -1) || decide (cl = ((coreInDie core / 3 : Nat) : Int))) &&
  (decide (trit ctl 1 = 1) == scratch) &&
  (match kind with
    | .load => decide (trit ctl 0 ≠ 1)
    | .store => decide (trit ctl 0 ≠ -1)
    | _ => true) &&
  decide (1 ≤ len) && decide (l.e ≤ base + len - 1) && decide (base ≤ l.e + l.n - 1)

/-- Events of the watchpoints that match. -/
def watchEvents (s : State) (core ctx : Nat) (at_ : Int) (h0 h1 : List Lane) : State :=
  let s := if h0 = [] then s else trigger s core ctx 2 0 at_
  if h1 = [] then s else trigger s core ctx 2 1 at_

/-- Watchpoints of an access that has passed its checks: true where the group halts at the bundle (R327, R330). -/
def watchAccess (s : State) (i : Issue) (c : Nat) (g : Group) (scratch : Bool) (kind : AccKind) (ls : List Lane) :
    Bool × State :=
  let d := getDie s (dieOf i.core)
  if g.r.super || g.exempt == some i.pc then (false, s)
  else
    let h0 := ls.filter (watchHit d 0 i.core scratch kind)
    let h1 := ls.filter (watchHit d 1 i.core scratch kind)
    let h := ls.filter fun l => h0.contains l || h1.contains l
    if h = [] then (false, s)
    else if trit d.dbgctl 2 = 1 then
      let t := haltGroup (breakIssue s i) i.core c 2 (if h0 = [] then 1 else 0) i.pc (h.map (·.slot)) 1
        (h.map fun l => (l.slot, l.e))
      (true, watchEvents t i.core c i.pc h0 h1)
    else (false, watchEvents s i.core c i.pc h0 h1)

/-! ## Presence (R72, R73) -/

/-- The scratchpad blocks of an access are all present. -/
def laneReady (s : State) (cl : Nat) (c : Checked) : Bool :=
  match c.place with
  | .sp => spPresent s cl c.lane.e && spPresent s cl (c.lane.e + c.lane.n - 1)
  | _ => true
/-- The absent blocks of checked accesses, and blocks joined to a list. -/
def absentOf (s : State) (cl : Nat) (l : List Checked) : List Nat :=
  l.flatMap fun c => if c.place = .sp then (spAbsent s cl (spBlocks c.lane.e c.lane.n)).map Int.toNat else []
def blockUnion (l m : List Nat) : List Nat := m.foldl (fun l b => if l.contains b then l else l ++ [b]) l
/-- Groups of a cluster that are parked check again. -/
def wakeParked (s : State) (cl : Nat) : State :=
  (List.range 3).foldl (fun s j =>
    (getCore s (3 * cl + j)).groups.foldl (fun s e =>
      if e.2.wait = some .park ∧ !s.agenda.contains (.waitingLoadRetry (3 * cl + j) e.1) then
        push s (.waitingLoadRetry (3 * cl + j) e.1)
      else s) s) s

/-- WAITING_LOAD_RETRY: a parked group checks again, at its waiting load (R73). -/
def execWaitingLoadRetry (core ctx : Nat) (s : State) : Host.Outcome State Fault Refusal :=
  .next (match getGroup s core ctx with
    | some g => if g.wait = some .park then wakeGroup s core ctx else s
    | none => s)

/-! ## The access -/

/-- Slots recorded in the sticky out-of-range mask (R74). -/
def markOob (g : Group) (slots : List Nat) : Group :=
  { g with r := { g.r with oob := (List.range 81).filter fun l => g.r.oob.contains l || slots.contains l } }
def noteOob (s : State) (core ctx : Nat) (slots : List Nat) : State :=
  if slots = [] then s else updGroup s core ctx fun g => markOob g slots

/-- The checks of R265 from the second on, the park of a waiting load, the watchpoints; then the access `k`. -/
def access (s : State) (i : Issue) (c : Nat) (g : Group) (a : AReg) (kind : AccKind) (binary : Bool)
    (aligned : Int → Bool) (uni wait watch : Bool) (ls : List Lane) (k : List Checked → State → State) : State :=
  let off := ls.filter fun l => !aligned l.e
  if off ≠ [] then raise s i 6 0 (markAll g uni (laneMarks off))
  else
    let (ok, bad, t) := checkLanes (xlOf i.core (srcRegs s i)) (clusterOf i.core) a kind binary ls s
    if bad ≠ [] then raise t i 5 0 (markAll g uni bad)
    else
      let at_ := if kind = .atomic then ok.filter atomicRefused else []
      if at_ ≠ [] then raise t i 7 0 (laneMarks (at_.map (·.lane)))
      else
        let out := (ok.filter fun c => c.place == .out).map (·.lane)
        if out ≠ [] ∧ !g.r.suppress then raise t i 8 0 (markAll g uni (laneMarks out))
        else if wait && ok.any (fun c => !laneReady t (clusterOf i.core) c) then
          stallIssue (updGroup t i.core c fun g => { g with absent := blockUnion g.absent (absentOf t (clusterOf i.core) ok) }) i .park
        else
          let (halted, t) := if !watch then (false, t) else watchAccess t i c g a.scratch kind
            (if uni then i.guard.filterMap fun l => ls.head?.map fun x => { x with slot := l } else ls)
          if halted then t
          else k ok (noteOob t i.core c ((markAll g uni (laneMarks out)).map (·.slot)))

/-! ## Reads and writes of checked accesses -/

/-- Is an access of a core single-copy atomic (R99)? -/
def singleCopy (binary : Bool) (l : Lane) : Bool :=
  let inBlock := decide (l.e / 27 = (l.e + l.n - 1) / 27)
  if binary then decide (l.n = 1) || ((decide (l.n = 2) || decide (l.n = 4)) && decide (l.e % l.n = 0) && inBlock)
  else decide (l.n = 1) || (decide (l.n = 3) && decide (l.e % 3 = 0)) || (decide (l.n = 6) && decide (l.e % 6 = 0) && inBlock) ||
    (decide (l.n = 4) && inBlock)
/-- The units of a checked access of a core, or the R282 cause of the failure; `strong` is its scope, 0 for a plain one (R96). -/
def readChecked (s : State) (core strong : Nat) (rmw : Bool) (c : Checked) : Except Nat (List Int) × State :=
  let binary := match c.place with | .mem (u :: _) => u.attr.binary | _ => false
  let cl := clusterOf core
  let ag := onPath core .core
  match c.place with
  | .out => (.ok (List.replicate c.lane.n 0), s)
  | .sp =>
    if (List.range c.lane.n).any fun j => spParity s cl (c.lane.e + j) then (.error 5, s)
    else let r := spSee s ag strong rmw (rmw || singleCopy false c.lane) cl c.lane.e c.lane.n; (.ok r.1, r.2)
  | .mem us => readAs s ag strong rmw (rmw || singleCopy binary c.lane) us

/-- The lanes' values, and the entries of those whose read fails. -/
def readLanes (core strong : Nat) : List Checked → State → List (Nat × List Int) × List LaneEntry × State
  | [], s => ([], [], s)
  | c :: t, s =>
    let (r, s) := readChecked s core strong false c
    let (vs, bad, s) := readLanes core strong t s
    match r with
    | .ok l => ((c.lane.slot, l) :: vs, bad, s)
    | .error x => (vs, { slot := c.lane.slot, addr := c.lane.e, cause := x } :: bad, s)

/-- The blocks of device memory that a form-F load requests besides those it touches: the rest of each line (R79). -/
def restOfLines (us : List PUnit) : List (Int × Attr) :=
  let near := (us.filter lateUnit).flatMap fun u => (List.range 3).map fun j => (lineBlock (lineOf (u.pa / 27)) j, u.attr)
  near.foldl (fun l p => if (us.any fun u => u.pa / 27 == p.1) || l.any fun q => q.1 == p.1 then l else l ++ [p]) []
/-- They are requested; what fails their checks is met, and no lane is concerned (R79, R88). -/
def requestRest (s : State) (us : List PUnit) : State :=
  (restOfLines us).foldl (fun s p => (readMemBlock s p.1 p.2).2) s
/-- The lines of write-back pages that units lie in, each with its page's attributes, and the blocks that an instruction requests of
it: those it touches, or all of them for an address in form F (R79). -/
def requestMasks (s : State) (whole : Bool) (us : List PUnit) : List (Nat × Attr × List Nat) :=
  let near := us.filter fun u => lateUnit u && u.attr.policy == 0
  let lines := near.foldl (fun (l : List (Nat × Attr)) u =>
    if l.any fun p => p.1 == lineOf (u.pa / 27) then l else l ++ [(lineOf (u.pa / 27), u.attr)]) []
  lines.map fun p => (p.1, p.2, (List.range 3).filter fun i =>
    (whole || near.any fun u => u.pa / 27 == lineBlock p.1 i) && !lineClash s (lineBlock p.1 i) p.2)
/-- A load's blocks that are not valid in the core's L1 are asked for, those of a line together (R79). -/
def requestLoad (s : State) (core : Nat) (whole : Bool) (us : List PUnit) : State :=
  (requestMasks s whole us).foldl (fun s p =>
    dieFetch s (dieOf core) p.1 (p.2.2.filter fun i => (l1Mark s core p.1 i).isNone) p.2.1) s
/-- A store's blocks are asked for by the die, so that it owns them, those of a line together (R79). -/
def requestStore (s : State) (core : Nat) (whole : Bool) (us : List PUnit) : State :=
  (requestMasks s whole us).foldl (fun s p => storeFetch s (dieOf core) p.1 p.2.2 p.2.1) s
/-- The units of memory of checked accesses. -/
def memUnits (l : List Checked) : List PUnit := l.flatMap fun c => match c.place with | .mem us => us | _ => []

/-- Block writes of an instruction: a strong store to a write-combining page is uncached (R275); a store to a page of uncached or
write-combining policy sets the restart address (R235). -/
def storeWrites (s : State) (core strong : Nat) (nt : Bool) (ws : List BlockWrite) : State :=
  let plain (w : BlockWrite) : BlockWrite :=
    if w.attr.policy = 2 ∧ 0 < strong then { w with attr := { w.attr with policy := -1 } } else w
  let s := if ws.any fun w => w.attr.policy == -1 || w.attr.policy == 2 then noteRestart s else s
  storeBlocks s core strong nt (ws.map plain)

/-- Writes of checked accesses, in ascending slot (R97); `strong` is the store's scope, 0 for a plain one. -/
def writeChecked (s : State) (core strong : Nat) (nt : Bool) (l : List (Checked × List Int)) : State :=
  let cl := clusterOf core
  let s := storeWrites s core strong nt (gatherAll (l.flatMap fun p => match p.1.place with
    | .mem us => us.zip p.2
    | _ => []))
  let sps := l.filter fun p => p.1.place == .sp
  if sps = [] then s
  else wakeParked (sps.foldl (fun s p => spPut s (onPath core .core) strong cl true p.1.lane.e p.2) s) cl

/-! ## Order (R274 to R278) -/

/-- The scope and the mask of the order field of an acquire load or a release store. -/
def orderScope (c : Int) : Nat := ((c + 96) / 32).toNat
def orderMask (c : Int) : List Path := maskPaths (2 * ((c + 96) % 32) + 1)
/-- The scope and the kind of an atomic's: 0 relaxed, 1 acquire, 2 release, 3 both. -/
def atmScope (c : Int) : Nat := ((c - 1) % 5 + 1).toNat
def atmAcquires (c : Int) : Bool := (c - 1) / 5 % 2 == 1
def atmReleases (c : Int) : Bool := decide (2 ≤ (c - 1) / 5)
/-- Must a release or fence of a scope wait for writes of its core that are not yet performed there? (R351) -/
def mustWait (s : State) (core scope : Nat) : Bool := decide (4 ≤ scope) && writesWait s core
/-- A release write or fence: where its mask names the stream path the combining buffer is sent first; then it waits for the writes of
its core (R77, R102, R278, R351). -/
def releaseOp (s : State) (i : Issue) (scope : Nat) (mask : List Path) (k : State → State) : State :=
  let s := if mask.contains .stream then drainBuffer s i.core else s
  if mustWait s i.core scope then stallIssue s i .own else k s
/-- What a core has done is released by an instruction of R242, R244 or R247, at package scope on every path. -/
def releaseWork (s : State) (i : Issue) (k : State → State) : State :=
  releaseOp s i 4 allPaths fun s => k (release s i.core 4 allPaths .work)
/-- The keys of the locations of checked accesses (R93). -/
def accKeys (core : Nat) (l : List Checked) : List Nat :=
  l.flatMap fun c => match c.place with
    | .sp => (List.range c.lane.n).map fun (j : Nat) => spKey (clusterOf core) (c.lane.e + j)
    | .mem us => us.map fun u => memKey u.pa
    | .out => []
/-- A waiting load that is performed meets the writes that set the presence of the blocks that it found absent (R108). -/
def meetPresence (s : State) (core ctx : Nat) (mask : List Path) (l : List Checked) : State :=
  let cl := clusterOf core
  let found := match getGroup s core ctx with | some g => g.absent | none => []
  let bs := (l.flatMap fun c => if c.place = .sp then spBlocks c.lane.e c.lane.n else []).filter fun b => found.contains b.toNat
  let s := updGroup s core ctx fun g => { g with absent := [] }
  presenceAcquire s core mask (bs.filterMap fun b => mfind (getBank s cl (b.toNat / 729)).setBy (b.toNat % 729))
    (bs.flatMap fun b => (List.range 27).map fun (j : Nat) => spKey cl (27 * b + j))

/-- The value of units: trits of nonets, or the pattern of bytes (R13, R259). -/
def unitsVal (binary : Bool) (l : List Int) : Int :=
  if binary then l.foldr (fun b x => b + 256 * x) 0 else ofNonets l
/-- The units of a value. -/
def valUnits (binary : Bool) (n : Nat) (v : Int) : List Int :=
  if binary then (List.range n).map fun j => v % 256 ^ (j + 1) / 256 ^ j else toNonets n v

/-! ## Loads -/

/-- The first check of a load or an atomic: its destination takes form F (R136, R265, R317). -/
def destTrap (s : State) (i : Issue) (c : Nat) (g : Group) (d : Nat) : Option State :=
  if g.nf ≤ d then some (illegalForm s i)
  else if !handlerAllows g d (.f []) then some (doubleFault (breakIssue s i) i.core c 2 i.pc)
  else none

/-- A memory instruction of a group; a range casts (R250). -/
def memOp (s : State) (f : Issue → Nat → Group → State) : Host.Outcome State Fault Refusal :=
  inIssue s fun i s => if i.guard = [] then s else groupOnly s i fun c g => f i c g

/-- A vector destination becomes form F and pending; its lanes land later (R208). -/
def pendLanes (s : State) (i : Issue) (c : Nat) (g : Group) (kind : PendKind) (d : Nat) (land : Landing) : State :=
  let s := setV s i d (.f (allLanes (mget (.u 0) g.r.v d) g.items g.width))
  (addPending s i.core c kind [.v d] i.guard (some land)).2

/-- The lanes of an access whose offsets an operand gives (R264). -/
def lanesAt (s : State) (i : Issue) (g : Group) (a : AReg) (off : Opd) (disp : Int) (n : Nat) : List Lane :=
  let v := vsrc s i g.width off
  i.guard.map fun l => { slot := l, e := a.ptr + laneVal v g.items l + disp, n := n }

/-- Is a source operand in form F? (R79) -/
def formF (s : State) (i : Issue) (g : Group) (off : Opd) : Bool :=
  match vsrc s i g.width off with
  | .f _ => true
  | _ => false

/-- How a load takes part in the memory model: its scope, 0 for a plain one; the mask of a waiting load; the mask of an acquire. -/
structure LoadOrd where
  strong : Nat := 0
  wait : Option (List Path) := none
  acq : Option (List Path) := none

/-- A vector load: `val` gives the lane's value from its slot and units (R264 to R269). -/
def loadWith (s : State) (i : Issue) (c : Nat) (g : Group) (d : Nat) (a : AReg) (binary : Bool) (aligned : Int → Bool)
    (o : LoadOrd) (whole : Bool) (ls : List Lane) (val : Nat → List Int → Int) : State :=
  match destTrap s i c g d with
  | some t => t
  | none =>
    access s i c g a .load binary aligned false o.wait.isSome true ls fun ok s =>
      let s := match o.wait with | some m => meetPresence s i.core c m ok | none => s
      let (vs, bad, s) := readLanes i.core o.strong ok (requestLoad s i.core whole (memUnits ok))
      let s := if whole then requestRest s (memUnits ok) else s
      let s := match o.acq with | some m => acquireRead s i.core o.strong m (accKeys i.core ok) | none => s
      pendLanes s i c g .load d { lanes := vs.map fun p => (p.1, val p.1 p.2), fails := bad }

/-- No alignment. -/
def anyAddr (_ : Int) : Bool := true
/-- A multiple of 3 (R275, R276). -/
def wordAddr (e : Int) : Bool := decide (e % 3 = 0)

/-- A load of `n` nonets or bytes. -/
def vload (s : State) (d a : Nat) (off : Opd) (disp : Int) (binary : Bool) (n : Nat) (aligned : Int → Bool)
    (o : LoadOrd) : Host.Outcome State Fault Refusal :=
  memOp s fun i c g =>
    let r := getA s i a
    loadWith s i c g d r binary aligned o (formF s i g off) (lanesAt s i g r off disp n) fun _ l => unitsVal binary l

/-- `ld9`: nonet load (R267). -/
def execLd9 (d a : Nat) (b : Opd) (s : State) : Host.Outcome State Fault Refusal :=
  vload s d a b 0 false 1 anyAddr {}
/-- `ld27`: word load (R267). -/
def execLd27 (d a : Nat) (b : Opd) (s : State) : Host.Outcome State Fault Refusal :=
  vload s d a b 0 false 3 anyAddr {}
/-- `ldb8`: binary load of one byte (R267). -/
def execLdb8 (d a : Nat) (b : Opd) (s : State) : Host.Outcome State Fault Refusal :=
  vload s d a b 0 true 1 anyAddr {}
/-- `ldb16`: binary load of two bytes (R267). -/
def execLdb16 (d a : Nat) (b : Opd) (s : State) : Host.Outcome State Fault Refusal :=
  vload s d a b 0 true 2 anyAddr {}
/-- `ldb32`: binary load of four bytes (R267). -/
def execLdb32 (d a : Nat) (b : Opd) (s : State) : Host.Outcome State Fault Refusal :=
  vload s d a b 0 true 4 anyAddr {}
/-- `ldx9`: nonet load with a displacement (R268). -/
def execLdx9 (d : Nat) (a : Opd) (x : Nat) (e : Int) (s : State) : Host.Outcome State Fault Refusal :=
  vload s d x a e false 1 anyAddr {}
/-- `ldx27`: word load with a displacement (R268). -/
def execLdx27 (d : Nat) (a : Opd) (x : Nat) (e : Int) (s : State) : Host.Outcome State Fault Refusal :=
  vload s d x a e false 3 anyAddr {}
/-- `ldxb8`: binary load of one byte with a displacement (R268). -/
def execLdxb8 (d : Nat) (a : Opd) (x : Nat) (e : Int) (s : State) : Host.Outcome State Fault Refusal :=
  vload s d x a e true 1 anyAddr {}
/-- `ldxb16`: binary load of two bytes with a displacement (R268). -/
def execLdxb16 (d : Nat) (a : Opd) (x : Nat) (e : Int) (s : State) : Host.Outcome State Fault Refusal :=
  vload s d x a e true 2 anyAddr {}
/-- `ldxb32`: binary load of four bytes with a displacement (R268). -/
def execLdxb32 (d : Nat) (a : Opd) (x : Nat) (e : Int) (s : State) : Host.Outcome State Fault Refusal :=
  vload s d x a e true 4 anyAddr {}
/-- The mask of the short waiting loads (R269). -/
def waitMask : List Path := [.core, .copy, .matrix]
/-- `ldw9`: waiting nonet load (R269). -/
def execLdw9 (d a : Nat) (b : Opd) (s : State) : Host.Outcome State Fault Refusal :=
  vload s d a b 0 false 1 anyAddr { wait := some waitMask }
/-- `ldw27`: waiting word load (R269). -/
def execLdw27 (d a : Nat) (b : Opd) (s : State) : Host.Outcome State Fault Refusal :=
  vload s d a b 0 false 3 anyAddr { wait := some waitMask }
/-- `ldwx9`: waiting nonet load with a mask (R269). -/
def execLdwx9 (d : Nat) (a : Opd) (c : Int) (x : Nat) (e : Int) (s : State) : Host.Outcome State Fault Refusal :=
  vload s d x a e false 1 anyAddr { wait := some (maskPaths c) }
/-- `ldwx27`: waiting word load with a mask (R269). -/
def execLdwx27 (d : Nat) (a : Opd) (c : Int) (x : Nat) (e : Int) (s : State) : Host.Outcome State Fault Refusal :=
  vload s d x a e false 3 anyAddr { wait := some (maskPaths c) }
/-- `ld27.rlx`: relaxed word load (R275). -/
def execLd27Rlx (d : Nat) (a : Opd) (c : Int) (x : Nat) (e : Int) (s : State) : Host.Outcome State Fault Refusal :=
  vload s d x a e false 3 wordAddr { strong := c.toNat }
/-- `ld27.acq`: acquire word load (R275). -/
def execLd27Acq (d : Nat) (a : Opd) (c : Int) (x : Nat) (e : Int) (s : State) : Host.Outcome State Fault Refusal :=
  vload s d x a e false 3 wordAddr { strong := orderScope c, acq := some (orderMask c) }

/-! ## Stores -/

/-- A store of `n` nonets or bytes of each lane's data. -/
def vstore (s : State) (data : Opd) (a : Nat) (off : Opd) (disp : Int) (binary : Bool) (n : Nat)
    (aligned : Int → Bool) (strong : Nat) (nt : Bool) : Host.Outcome State Fault Refusal :=
  memOp s fun i c g =>
    let r := getA s i a
    let v := vsrc s i g.width data
    access s i c g r .store binary aligned false false true (lanesAt s i g r off disp n) fun ok s =>
      writeChecked (if nt then s else requestStore s i.core (formF s i g off) (memUnits ok)) i.core strong nt (ok.map fun k => (k, valUnits binary n (laneVal v g.items k.lane.slot)))

/-- `st9`: nonet store (R267). -/
def execSt9 (d a : Nat) (b : Opd) (s : State) : Host.Outcome State Fault Refusal :=
  vstore s (.reg d) a b 0 false 1 anyAddr 0 false
/-- `st27`: word store (R267). -/
def execSt27 (d a : Nat) (b : Opd) (s : State) : Host.Outcome State Fault Refusal :=
  vstore s (.reg d) a b 0 false 3 anyAddr 0 false
/-- `stb8`: store of one byte (R267). -/
def execStb8 (d a : Nat) (b : Opd) (s : State) : Host.Outcome State Fault Refusal :=
  vstore s (.reg d) a b 0 true 1 anyAddr 0 false
/-- `stb16`: store of two bytes (R267). -/
def execStb16 (d a : Nat) (b : Opd) (s : State) : Host.Outcome State Fault Refusal :=
  vstore s (.reg d) a b 0 true 2 anyAddr 0 false
/-- `stb32`: store of four bytes (R267). -/
def execStb32 (d a : Nat) (b : Opd) (s : State) : Host.Outcome State Fault Refusal :=
  vstore s (.reg d) a b 0 true 4 anyAddr 0 false
/-- `stx9`: nonet store with a displacement (R268). -/
def execStx9 (a b : Opd) (x : Nat) (e : Int) (s : State) : Host.Outcome State Fault Refusal :=
  vstore s b x a e false 1 anyAddr 0 false
/-- `stx27`: word store with a displacement (R268). -/
def execStx27 (a b : Opd) (x : Nat) (e : Int) (s : State) : Host.Outcome State Fault Refusal :=
  vstore s b x a e false 3 anyAddr 0 false
/-- `stxb8`: store of one byte with a displacement (R268). -/
def execStxb8 (a b : Opd) (x : Nat) (e : Int) (s : State) : Host.Outcome State Fault Refusal :=
  vstore s b x a e true 1 anyAddr 0 false
/-- `stxb16`: store of two bytes with a displacement (R268). -/
def execStxb16 (a b : Opd) (x : Nat) (e : Int) (s : State) : Host.Outcome State Fault Refusal :=
  vstore s b x a e true 2 anyAddr 0 false
/-- `stxb32`: store of four bytes with a displacement (R268). -/
def execStxb32 (a b : Opd) (x : Nat) (e : Int) (s : State) : Host.Outcome State Fault Refusal :=
  vstore s b x a e true 4 anyAddr 0 false
/-- `stnt9`: non-temporal nonet store (R272). -/
def execStnt9 (d a : Nat) (b : Opd) (s : State) : Host.Outcome State Fault Refusal :=
  vstore s (.reg d) a b 0 false 1 anyAddr 0 true
/-- `stnt27`: non-temporal word store (R272). -/
def execStnt27 (d a : Nat) (b : Opd) (s : State) : Host.Outcome State Fault Refusal :=
  vstore s (.reg d) a b 0 false 3 anyAddr 0 true
/-- `st27.rlx`: relaxed word store (R275). -/
def execSt27Rlx (a b : Opd) (c : Int) (x : Nat) (e : Int) (s : State) : Host.Outcome State Fault Refusal :=
  vstore s b x a e false 3 wordAddr c.toNat false
/-- `st27.rel`: release word store (R275). -/
def execSt27Rel (a b : Opd) (c : Int) (x : Nat) (e : Int) (s : State) : Host.Outcome State Fault Refusal :=
  memOp s fun i k g =>
    let r := getA s i x
    let v := vsrc s i g.width b
    releaseOp s i (orderScope c) (orderMask c) fun s =>
      access s i k g r .store false wordAddr false false true (lanesAt s i g r a e 3) fun ok s =>
        let t := requestStore (release s i.core (orderScope c) (orderMask c) .fence) i.core (formF s i g a) (memUnits ok)
        unmade (writeChecked t i.core (orderScope c) false
          (ok.map fun k => (k, valUnits false 3 (laneVal v g.items k.lane.slot)))) s.fresh

/-! ## Packed accesses (R266) -/

/-- Where a packed element lies: its block's address, and its first stream position there. -/
def packedAt (ptr : Int) (w : Nat) (j : Int) : Int × Nat :=
  let q : Nat := 243 / w
  (ptr + 27 * (j / q), (j % q).toNat * w)
/-- The lanes of a packed access: the nonets that each element touches. -/
def packedLanes (s : State) (i : Issue) (g : Group) (a : AReg) (off : Opd) (disp : Int) (w : Nat) : List Lane :=
  let v := vsrc s i g.width off
  i.guard.map fun l =>
    let p := packedAt a.ptr w (laneVal v g.items l + disp)
    { slot := l, e := p.1 + (p.2 / 9 : Nat), n := (p.2 + w - 1) / 9 - p.2 / 9 + 1 }
/-- The first trit of a lane's element in its first nonet. -/
def packedTrit (s : State) (i : Issue) (g : Group) (a : AReg) (off : Opd) (disp : Int) (w : Nat) (l : Nat) : Nat :=
  (packedAt a.ptr w (laneVal (vsrc s i g.width off) g.items l + disp)).2 % 9

/-- `ldpk`: packed load of one element of `c` trits (R266). -/
def execLdpk (d : Nat) (a : Opd) (c : Int) (x : Nat) (e : Int) (s : State) : Host.Outcome State Fault Refusal :=
  memOp s fun i k g =>
    let r := getA s i x
    let w := c.toNat
    loadWith s i k g d r false (fun _ => decide (r.ptr % 27 = 0)) {} (formF s i g a) (packedLanes s i g r a e w) fun l ns =>
      let p := packedTrit s i g r a e w l
      trits (ofNonets ns) (p + w - 1) p

/-- The elements of one block: each stream position with its value. -/
structure PackBlock where
  base : Int
  unit : Option PUnit
  elems : List (Nat × Int)
  deriving DecidableEq, Repr

/-- Do two elements lie in one block of memory, or of the scratchpad? -/
def packMeets (b : PackBlock) (base : Int) (u : Option PUnit) : Bool :=
  match b.unit, u with
  | some v, some u => decide (v.pa / 27 = u.pa / 27)
  | none, none => decide (b.base = base)
  | _, _ => false
/-- An element joins the last write of its block, where that is made in the same way; so that of lanes that meet, through whatever
addresses, the highest slot's value stands in the end (R97). -/
def packAdd (l : List PackBlock) (base : Int) (u : Option PUnit) (el : Nat × Int) : List PackBlock :=
  match l with
  | [] => [{ base := base, unit := u, elems := [el] }]
  | b :: t =>
    if packMeets b base u && b.unit.map (·.attr) == u.map (·.attr) && !t.any fun c => packMeets c base u then
      { b with elems := b.elems ++ [el] } :: t
    else b :: packAdd t base u el

/-- The nonets that the elements of a block touch, and its spare trits' nonet (R38). -/
def packTouched (w : Nat) (b : PackBlock) : List Nat :=
  (List.range 27).filter fun j =>
    (b.elems.any fun p => decide (p.1 / 9 ≤ j) && decide (j ≤ (p.1 + w - 1) / 9)) ||
    (decide (j = 26) && decide (243 / w * w < 243))
/-- The block with its elements in place and its spare trits 0. -/
def packMerge (w : Nat) (b : PackBlock) (old : List Int) : List Int :=
  let x := b.elems.foldl (fun x p => setTrits x (p.1 + w - 1) p.1 p.2) (ofNonets old)
  blockOf (if 243 / w * w < 243 then setTrits x 242 (243 / w * w) 0 else x)
/-- The trits of a nonet that the elements of a block and its spare trits cover. -/
def packCover (w : Nat) (b : PackBlock) (j : Nat) : List Nat :=
  (List.range 9).filter fun t => (b.elems.any fun p => decide (p.1 ≤ 9 * j + t) && decide (9 * j + t < p.1 + w)) ||
    decide (243 / w * w ≤ 9 * j + t)

/-- The write of one block's elements: each touched nonet once; the agent that performs it merges the rest (R400). -/
def packWrite (core w : Nat) (s : State) (b : PackBlock) : State :=
  let cl := clusterOf core
  match b.unit with
  | none =>
    let l := packMerge w b (spReads s cl b.base 27)
    (packTouched w b).foldl (fun s (j : Nat) => spPut s (onPath core .core) 0 cl true (b.base + j) [l.getD j 0]) s
  | some u =>
    let l := packMerge w b zeroBlock
    let js := packTouched w b
    storeWrites s core 0 false
      [{ block := u.pa / 27, attr := u.attr, places := js.map fun j => (j, l.getD j 0)
         cover := (js.filter fun j => (packCover w b j).length < 9).map fun j => (j, packCover w b j) }]

/-- `stpk`: packed store of one element of `c` trits (R266). -/
def execStpk (a b : Opd) (c : Int) (x : Nat) (e : Int) (s : State) : Host.Outcome State Fault Refusal :=
  memOp s fun i k g =>
    let r := getA s i x
    let w := c.toNat
    let off := vsrc s i g.width a
    let v := vsrc s i g.width b
    access s i k g r .store false (fun _ => decide (r.ptr % 27 = 0)) false false true (packedLanes s i g r a e w) fun ok s =>
      let bs := ok.foldl (fun (l : List PackBlock) k =>
        let p := packedAt r.ptr w (laneVal off g.items k.lane.slot + e)
        let el := (p.2, trits (laneVal v g.items k.lane.slot) (w - 1) 0)
        match k.place with
        | .mem (u :: _) => packAdd l p.1 (some u) el
        | .sp => packAdd l p.1 none el
        | _ => l) []
      let s := bs.foldl (packWrite i.core w) s
      if bs.any fun b => b.unit.isNone then wakeParked s (clusterOf i.core) else s

/-! ## Uniform accesses (R270, R271) -/

/-- The one lane of an access made for the group. -/
def uniLane (s : State) (i : Issue) (a : AReg) (off : Opd) (n : Nat) : List Lane :=
  [{ slot := 0, e := a.ptr + uVal (vsrc s i 0 off), n := n }]

/-- A uniform load: the registers become pending, and `land` gives what lands in them. -/
def uload (s : State) (a : Nat) (off : Opd) (n : Nat) (aligned : Int → Bool) (regs : List Reg)
    (land : Int → Landing) : Host.Outcome State Fault Refusal :=
  memOp s fun i c g =>
    let r := getA s i a
    access s i c g r .load false aligned true false true (uniLane s i r off n) fun ok s =>
      let (vs, bad, s) := readLanes i.core 0 ok (requestLoad s i.core false (memUnits ok))
      let l : Landing := match vs with
        | p :: _ => land (ofNonets p.2)
        | [] => { fails := markAll g true bad }
      (addPending s i.core c .load regs [] (some l)).2
/-- A uniform store of a value. -/
def ustore (s : State) (a : Nat) (off : Opd) (n : Nat) (aligned : Int → Bool) (v : Issue → Int) :
    Host.Outcome State Fault Refusal :=
  memOp s fun i c g =>
    let r := getA s i a
    access s i c g r .store false aligned true false true (uniLane s i r off n) fun ok s' =>
      writeChecked (requestStore s' i.core false (memUnits ok)) i.core 0 false (ok.map fun k => (k, toNonets n (v i)))

/-- The alignments of a double word and of a pointer (R271). -/
def doubleAddr (e : Int) : Bool := decide (e % 6 = 0) && decide (e % 27 ≤ 21)
def pointerAddr (e : Int) : Bool := decide (e % 27 ≤ 23)

/-- `lds27`: uniform word load (R270). -/
def execLds27 (d a : Nat) (b : Opd) (s : State) : Host.Outcome State Fault Refusal :=
  uload s a b 3 anyAddr [.s d] fun v => { words := [(.s d, v)] }
/-- `lds54`: uniform double-word load (R271). -/
def execLds54 (d a : Nat) (b : Opd) (s : State) : Host.Outcome State Fault Refusal :=
  uload s a b 6 doubleAddr [.s d, .s (d + 1)] fun v =>
    { words := [(.s d, trits v 26 0), (.s (d + 1), trits v 53 27)] }
/-- `ldsp`: uniform pointer load (R271). -/
def execLdsp (d a : Nat) (b : Opd) (s : State) : Host.Outcome State Fault Refusal :=
  uload s a b 4 pointerAddr [.a d] fun v => { ptr := some v }
/-- `sts27`: uniform word store (R270). -/
def execSts27 (d a : Nat) (b : Opd) (s : State) : Host.Outcome State Fault Refusal :=
  ustore s a b 3 anyAddr fun i => mget 0 (srcRegs s i).s d
/-- `sts54`: uniform double-word store (R271). -/
def execSts54 (d a : Nat) (b : Opd) (s : State) : Host.Outcome State Fault Refusal :=
  ustore s a b 6 doubleAddr fun i => join36 (mget 0 (srcRegs s i).s d) (mget 0 (srcRegs s i).s (d + 1))
/-- `stsp`: uniform pointer store (R271). -/
def execStsp (d a : Nat) (b : Opd) (s : State) : Host.Outcome State Fault Refusal :=
  ustore s a b 4 pointerAddr fun i => (getA s i d).ptr

/-! ## Prefetch and fences -/

/-- `pf` (R273): no effect that a program can observe. It may be dropped; where it is not, a walk may be started for the page
of its first lane (R61), unless its access would fault before any walk (R42, R44). A range casts. -/
def execPf (a : Nat) (b : Opd) (s : State) : Host.Outcome State Fault Refusal :=
  memOp s fun i _ g =>
    let r := getA s i a
    match lanesAt s i g r b 0 1 with
    | l :: _ =>
      let x := xlOf i.core (srcRegs s i)
      if Config.choice s.fresh && !r.scratch && regCheck r .load l.e 1 && !outOfSpace l.e && !privilegeFault x l.e then
        requestWalk (tick s) x l.e
      else tick s
    | [] => s

/-- A fence of a scope and a mask that releases: `k` is its order (R96, R278). -/
def fence (s : State) (scope : Int) (mask : Int) (k : State → Nat → Nat → List Path → State) : Host.Outcome State Fault Refusal :=
  memOp s fun i _ _ => releaseOp s i scope.toNat (maskPaths mask) fun s => k s i.core scope.toNat (maskPaths mask)
/-- `fence.acq` (R278). -/
def execFenceAcq (a b : Int) (s : State) : Host.Outcome State Fault Refusal :=
  memOp s fun i _ _ =>
    acquire (if (maskPaths b).contains .stream then drainBuffer s i.core else s) i.core a.toNat (maskPaths b) .fence
/-- `fence.rel` (R278). -/
def execFenceRel (a b : Int) (s : State) : Host.Outcome State Fault Refusal := fence s a b fun s c k m => release s c k m .fence
/-- `fence.full` (R278). -/
def execFenceFull (a b : Int) (s : State) : Host.Outcome State Fault Refusal := fence s a b fun s c k m => fullFence s c k m .fence
/-- `fence.sc` (R278): the fences act one after another, each in a step of its own, which is their order (R103). -/
def execFenceSc (a b : Int) (s : State) : Host.Outcome State Fault Refusal := fence s a b fun s c k m => fullFence s c k m .seq

end Sys2Proof.Machine
end

