-- ==== Sys2Proof/Machine/Atomic.lean ====
section
/-! DEFINITION. Atomics: read-modify-writes, lane by lane in ascending slot (10 R276, R277; 04 R97, R105). -/

namespace Sys2Proof.Machine

open Sys2Proof

/-- What an atomic writes: none where it writes nothing, with the flags of a floating sum. -/
structure AtmRes where
  val : Option Int
  fl : Flags := {}
  deriving DecidableEq, Repr

/-- Values that have landed, failing lanes, flags. -/
structure AtmAcc where
  vals : List (Nat × Int) := []
  bad : List LaneEntry := []
  fl : Flags := {}
  deriving DecidableEq, Repr

/-- Where an atomic of a scope is performed (R105, R277): on a write-back page on the core's die at core or die scope; else at the home
slice, to which it goes as a request (R344). -/
def atmAttr (core scope : Nat) (a : Attr) : Attr :=
  { a with policy := if a.policy = 2 then -1 else if a.policy = 0 ∧ 4 ≤ scope then 1 else a.policy
           via := .core core, atomic := decide (a.policy ≠ 0) || decide (4 ≤ scope) }
def atmUnits (core scope : Nat) (us : List PUnit) : List PUnit := us.map fun u => { u with attr := atmAttr core scope u.attr }
def atmChecked (core scope : Nat) (c : Checked) : Checked :=
  match c.place with
  | .mem us => { c with place := .mem (atmUnits core scope us) }
  | _ => c

/-- One lane's atomic: a failing read performs nothing; a suppressed lane returns 0 (R74). -/
def atmLane (core scope : Nat) (f : Nat → Int → AtmRes) (p : AtmAcc × State) (c : Checked) : AtmAcc × State :=
  let ag := onPath core .core
  match readChecked p.2 core scope true (atmChecked core scope c) with
  | (.error x, s) => ({ p.1 with bad := p.1.bad ++ [{ slot := c.lane.slot, addr := c.lane.e, cause := x }] }, s)
  | (.ok l, s) =>
    let m := ofNonets l
    match (atmChecked core scope c).place with
    | .out => ({ p.1 with vals := p.1.vals ++ [(c.lane.slot, 0)] }, s)
    | pl =>
      let r := f c.lane.slot m
      let a := { p.1 with vals := p.1.vals ++ [(c.lane.slot, m)], fl := p.1.fl.or r.fl }
      match r.val, pl with
      | some v, .sp => (a, spPut s ag scope (clusterOf core) false c.lane.e (toNonets 3 v) true)
      | some v, .mem us => (a, (gatherAll (us.zip (toNonets 3 v))).foldl (fun s w => writeBlockAs s ag scope w true) s)
      | _, _ => (a, s)

/-- The lanes of an atomic, one after another; an acquire or a release as its kind says, with the mask {core} (R277). -/
def atmLanes (i : Issue) (c : Int) (f : Nat → Int → AtmRes) (ok : List Checked) (s : State) : AtmAcc × State :=
  let scope := atmScope c
  let id := s.fresh
  let s := if atmReleases c then release s i.core scope [.core] .fence else s
  let p := ok.foldl (atmLane i.core scope f) ({}, s)
  let s := if atmReleases c then unmade p.2 id else p.2
  (p.1, if atmAcquires c then acquireRead s i.core scope [.core] (accKeys i.core ok) else s)

/-- An atomic (R276): `f` gives the value written from the old value, the operand and the destination's old value. -/
def atomicOp (s : State) (d : Nat) (off b : Opd) (o : Int) (x : Nat) (e : Int) (f : Int → Int → Int → AtmRes) :
    Host.Outcome State Fault Refusal :=
  memOp s fun i c g =>
    match destTrap s i c g d with
    | some t => t
    | none =>
      if atmReleases o && mustWait s i.core (atmScope o) then stallIssue s i .own
      else
        let r := getA s i x
        let vb := vsrc s i g.width b
        let vx := vsrc s i g.width (.reg d)
        access s i c g r .atomic false wordAddr false false true (lanesAt s i g r off e 3) fun ok s =>
          let p := atmLanes i o (fun l m => f m (laneVal vb g.items l) (laneVal vx g.items l)) ok s
          pendLanes (noteRestart p.2) i c g .atomic d { lanes := p.1.vals, fails := p.1.bad, flags := p.1.fl }

/-- A value always written, without flags. -/
def atmPut (v : Int) : AtmRes := { val := some v }

/-- `atm.add`: wrapping sum (R276). -/
def execAtmAdd (d : Nat) (a b : Opd) (c : Int) (x : Nat) (e : Int) (s : State) : Host.Outcome State Fault Refusal :=
  atomicOp s d a b c x e (fun m b _ => atmPut (wrap 27 (m + b)))
/-- `atm.adds`: saturating sum (R276). -/
def execAtmAdds (d : Nat) (a b : Opd) (c : Int) (x : Nat) (e : Int) (s : State) : Host.Outcome State Fault Refusal :=
  atomicOp s d a b c x e (fun m b _ => atmPut (sat 27 (m + b)))
/-- `atm.min`: the smaller (R276). -/
def execAtmMin (d : Nat) (a b : Opd) (c : Int) (x : Nat) (e : Int) (s : State) : Host.Outcome State Fault Refusal :=
  atomicOp s d a b c x e (fun m b _ => atmPut (min m b))
/-- `atm.max`: the larger (R276). -/
def execAtmMax (d : Nat) (a b : Opd) (c : Int) (x : Nat) (e : Int) (s : State) : Host.Outcome State Fault Refusal :=
  atomicOp s d a b c x e (fun m b _ => atmPut (max m b))
/-- `atm.tmin`: tritwise minimum (R276). -/
def execAtmTmin (d : Nat) (a b : Opd) (c : Int) (x : Nat) (e : Int) (s : State) : Host.Outcome State Fault Refusal :=
  atomicOp s d a b c x e (fun m b _ => atmPut (tmin m b))
/-- `atm.tmax`: tritwise maximum (R276). -/
def execAtmTmax (d : Nat) (a b : Opd) (c : Int) (x : Nat) (e : Int) (s : State) : Host.Outcome State Fault Refusal :=
  atomicOp s d a b c x e (fun m b _ => atmPut (tmax m b))
/-- `atm.swap`: the operand (R276). -/
def execAtmSwap (d : Nat) (a b : Opd) (c : Int) (x : Nat) (e : Int) (s : State) : Host.Outcome State Fault Refusal :=
  atomicOp s d a b c x e (fun _ b _ => atmPut b)
/-- `atm.cas`: the swap value where the old value is the operand, else nothing (R276). -/
def execAtmCas (d : Nat) (a b : Opd) (c : Int) (x : Nat) (e : Int) (s : State) : Host.Outcome State Fault Refusal :=
  atomicOp s d a b c x e (fun m b x => { val := if m = b then some x else none })
/-- `atm.fadd`: T27 sum; its flags are set when the value lands (R276). -/
def execAtmFadd (d : Nat) (a b : Opd) (c : Int) (x : Nat) (e : Int) (s : State) : Host.Outcome State Fault Refusal :=
  atomicOp s d a b c x e (fun m b _ => { val := some (faddV fmtT27 (t27 m) (t27 b)).enc, fl := (faddV fmtT27 (t27 m) (t27 b)).fl })

end Sys2Proof.Machine
end

