-- ==== Sys2Proof/Machine/Split.lean ====
section
/-! DEFINITION. The split of a launch over dies and cores, and its teams there (07 R175, R178, R180). -/

namespace Sys2Proof.Machine

open Sys2Proof

/-- Items of a launch (R131). -/
def launchSize (t : Tcb) : Int := t.nx * t.ny * t.nz
/-- The cores of a die. -/
def dieCores (die : Nat) : List Nat := (List.range 81).map (81 * die + ·)
/-- The live cores of a die, ascending, numbered within it. -/
def liveCores (d : Die) : List Nat :=
  if d.life = .live then (List.range 81).filter fun j => d.liveClusters.contains (j / 3) else []
/-- The dies that hold live cores. -/
def liveDies (s : State) : List Nat := (List.range 9).filter fun d => liveCores (getDie s d) != []
/-- Part `j` of `u` units over parts with weights, from its first unit to its last. -/
def unitSplit (u : Int) (ws : List Nat) (j : Nat) : Int × Int :=
  let c : Int := (ws.sum : Nat)
  (u * ((ws.take j).sum : Nat) / c, u * ((ws.take (j + 1)).sum : Nat) / c - 1)
/-- The units of a run of positions. -/
def unitsOf (T : Nat) (first last : Int) : Int := (last - first + (T : Int)) / T
/-- The positions of units `a` to `b` of a run. -/
def unitRun (T : Nat) (first last a b : Int) : Int × Int := (first + a * T, min last (first + (b + 1) * T - 1))
/-- The dies that receive a share of a launch, with its first and last position (R175). -/
def dieSplit (s : State) (t : Tcb) (h : Header) : List (Nat × Int × Int) :=
  let ds := liveDies s
  let ws := ds.map fun d => (liveCores (getDie s d)).length
  let n := launchSize t
  ds.zipIdx.filterMap fun p =>
    let r := unitSplit (unitsOf h.T 0 (n - 1)) ws p.2
    if r.1 ≤ r.2 then some (p.1, unitRun h.T 0 (n - 1) r.1 r.2) else none
/-- The cores of a die that receive a share of a piece (R178). -/
def coreSplit (s : State) (die : Nat) (h : Header) (first last : Int) : List (Nat × Int × Int) :=
  let cs := liveCores (getDie s die)
  let u := unitsOf h.T first last
  let c : Int := (cs.length : Nat)
  cs.zipIdx.filterMap fun p =>
    let a := u * (p.2 : Int) / c
    let b := u * ((p.2 : Int) + 1) / c - 1
    if a ≤ b then some (81 * die + p.1, unitRun h.T first last a b) else none
/-- The dies that receive a launch, by its source (R175, R177). -/
def launchDies (s : State) (l : Launch) : List (Nat × Int × Int) :=
  match l.source with
  | .host _ _ => dieSplit s l.tcb l.hdr
  | .die d => if l.tcb.spread then dieSplit s l.tcb l.hdr else [(d, 0, launchSize l.tcb - 1)]
/-- The cores that receive shares of a launch under co-residency, each with its run (R180). -/
def coreShares (s : State) (h : Header) (ds : List (Nat × Int × Int)) : List (Nat × Int × Int) :=
  ds.flatMap fun p => coreSplit s p.1 h p.2.1 p.2.2
/-- The teams of a run: their first positions and sizes. -/
def teamRuns (T : Nat) : Nat → Int → Int → List (Int × Nat)
  | 0, _, _ => []
  | k + 1, a, b => if b < a then [] else (a, min T (b - a + 1).toNat) :: teamRuns T k (a + (T : Int)) b
/-- Does a co-resident launch that waits want a die? (R180) -/
def coWaits (s : State) (die : Nat) (f : Nat → Bool) : Bool :=
  s.launches.any fun e => f e.1 && e.2.castAll && e.2.st == .queued && (launchDies s e.2).any fun p => p.1 == die
/-- A core for which a co-resident launch accepted earlier waits takes no share (R180). -/
def coreHeld (s : State) (core lid : Nat) : Bool :=
  s.launches.any fun e => decide (e.1 < lid) && e.2.castAll && e.2.st == .queued &&
    (launchDies s e.2).any fun p =>
      p.1 == dieOf core && (coreSplit s p.1 e.2.hdr p.2.1 p.2.2).any fun q => q.1 == core

end Sys2Proof.Machine
end

