-- ==== Sys2Proof/Machine/Former.lean ====
section
/-! DEFINITION. The spawn store and the former, team pools and register storage, draining, casts, joins, merging,
dissolving and the retirement of teams and shares (06 R132, R142 to R162). -/

namespace Sys2Proof.Machine

open Sys2Proof

/-! ## Boxes and runs (R132) -/

/-- The sizes of a box. -/
def boxX (b : Box) : Int := b.x1 - b.x0 + 1
def boxY (b : Box) : Int := b.y1 - b.y0 + 1
def boxZ (b : Box) : Int := b.z1 - b.z0 + 1
/-- The number of items of a box. -/
def boxSize (b : Box) : Int := boxX b * boxY b * boxZ b
/-- The position of an item in box order. -/
def boxPos (b : Box) (i : Item) : Int := (i.x - b.x0) + boxX b * ((i.y - b.y0) + boxY b * (i.z - b.z0))
/-- The item at a position. -/
def boxItem (b : Box) (p : Int) : Item :=
  { x := b.x0 + p % boxX b, y := b.y0 + p / boxX b % boxY b, z := b.z0 + p / (boxX b * boxY b) }

/-! ## Register storage and pools (R149, R156) -/

/-- Lane-registers of a group of a width with a full-register count (R149). -/
def laneRegs (nf w : Nat) : Nat := (nf + 8) / 9 * 9 * w
/-- The role of a cast team's group by its number: 0 plain, 1 producer, 2 consumer (R150). -/
def roleOf (h : Header) (g : Nat) : Nat := if g < h.gP then 1 else if g < h.gP + h.gC then 2 else 0
/-- The full-register count of a role (R150). -/
def roleRegs (h : Header) (role : Nat) : Nat := if role = 1 then h.nP else if role = 2 then h.nC else h.regs
/-- The number of groups of a team of `n` items. -/
def groupCount (h : Header) (n : Nat) : Nat := (n + h.w - 1) / h.w
/-- The storage of a pool context: the largest of the roles that have groups (R156). -/
def poolRegs (h : Header) : Nat :=
  let plain := if h.gP + h.gC < groupCount h h.T then h.regs else 0
  laneRegs (max plain (max (if h.gP > 0 then h.nP else 0) (if h.gC > 0 then h.nC else 0))) h.w
/-- The storage of a cast team of `n` items with its reserve (R143). -/
def teamStorage (h : Header) (n : Nat) : Nat :=
  ((List.range (groupCount h n)).map fun g => laneRegs (roleRegs h (roleOf h g)) h.w).sum + h.spawn * poolRegs h
/-- The register file of a core (R149). -/
def regFile : Nat := 59049

/-- The contexts that the shadow bank exchanges (R192). -/
def shadowCtx (c : Nat) : Bool := decide (18 ≤ c) && decide (c < 27)
/-- The lane-registers that it exchanges. -/
def shadowFile : Nat := 19683
/-- The free contexts of a core, in the order in which they are taken: 18 to 26 last, and none of these while the serving team holds
them (R192). -/
def freeCtxs (c : Core) : List Nat :=
  (List.range 27).filter fun x => (mfind c.groups x).isNone && !(c.swapped && shadowCtx x)
/-- Of the lane-registers that groups of a core hold, those that the shadow bank exchanges (R192). -/
def lowHeld (c : Core) : Nat :=
  (c.groups.map fun e => e.2.low).sum + ((shadowGroups c).map fun e => if e.2.displaced then e.2.low else 0).sum
/-- The other lane-registers of a core that are free. -/
def highFree (c : Core) : Nat := regFile - shadowFile - (c.used - lowHeld c)
/-- Of `n` more lane-registers those that the shadow bank exchanges: they are used last (R192). DESIGN CHOICE (log 68): which others a
group holds is not kept, and what is held once stays where it is. -/
def lowPart (c : Core) (n : Nat) : Nat := n - highFree c
/-- The lane-registers of a core that are free; while it is swapped those of the shadow bank's number are the serving team's (R149,
R192). -/
def fileFree (c : Core) : Nat := if c.swapped then highFree c else regFile - c.used
/-- A group takes a context, with its storage (R149). -/
def holdGroup (s : State) (core ctx : Nat) (g : Group) : State :=
  updCore s core fun c => { c with groups := mset c.groups ctx { g with low := lowPart c g.storage }, used := c.used + g.storage }

/-- The teams that hold a slot of a core, ascending; those of a saved share hold none (R189). -/
def teamsOn (s : State) (core : Nat) : List (Nat × Team) := s.teams.filter fun e => e.2.core == core && !e.2.saved
/-- The groups of a team: contexts with groups that are not reserved. -/
def teamGroups (s : State) (t : Nat) : List (Nat × Group) :=
  match getTeam s t with
  | some tm => (getCore s tm.core).groups.filter fun e => e.2.team == t && e.2.st != .reserved
  | none => []

/-- Its groups with those displaced into the shadow bank (R192). -/
def teamHolders (s : State) (t : Nat) : List (Nat × Group) :=
  match getTeam s t with
  | some tm => ((getCore s tm.core).groups ++ shadowGroups (getCore s tm.core)).filter fun e =>
      e.2.team == t && e.2.st != .reserved
  | none => []

/-! ## Shared register state (R154) -/

/-- The state that the former compares and that a built group takes from the group of its first item: U and A registers, with
a mark for those in form F, scalar, address and format registers, `sp.ctl`, `xl.*` and the handler and frame addresses
(R53, R74, R154, R315). -/
def sharedOf (r : Regs) : Regs :=
  { v := r.v.map fun (e : Nat × VReg) => (e.1, match e.2 with | .f _ => .f [] | v => v)
    s := r.s, a := r.a, fm := r.fm, suppress := r.suppress, super := r.super, userOk := r.userOk
    uroot := r.uroot, sroot := r.sroot, asid := r.asid, tr := { vec := r.tr.vec, fp := r.tr.fp } }

/-- What an item of slot `l` carries (R153). DESIGN CHOICE (log 85): a scalar or address destination that is pending at the branch does
not hold the item; the built group has that register as it stood at the branch, and not pending. -/
def storedOf (s : State) (core : Nat) (g : Group) (l : Nat) (it : Item) (target : Int) : Stored :=
  let box := match getTeam s g.team with | some t => t.box | none => {}
  { team := g.team, role := g.role, target := target, item := it, pos := boxPos box it
    v := g.r.v.filterMap fun e => match e.2 with | .f ls => some (e.1, ls.getD l 0) | _ => none
    k := g.r.k.map fun e => (e.1, maskTrit g.r e.1 l)
    shared := { sharedOf g.r with sticky := g.r.sticky }
    width := g.width, nospawn := false, stepped := g.stepping, since := (getDie s (dieOf core)).cycle }

/-- Do the registers of an item match those of a build? -/
def buildTakes (b : Build) (it : Stored) : Bool :=
  b.team == it.team && b.role == it.role && decide (b.target = it.target) && b.stepped == it.stepped &&
  decide (b.shared = { it.shared with sticky := Flags.none })

/-- Room in a build (R152). -/
def buildRoom (b : Build) (it : Stored) : Bool := buildTakes b it && decide (b.items.length + b.awaited < it.width)

/-- An item is counted into the builds: into one with room, or into a new one in a pool context; `awaited` where it comes
later (R152, R154). None where the pool has no context. -/
def placeItem (waits : Bool) (bs : List Build) (pool : List Nat) (next : Nat) (it : Stored) :
    Option (List Build × List Nat × Nat) :=
  let put (b : Build) : Build :=
    if waits then { b with awaited := b.awaited + 1 }
    else { b with items := b.items ++ [it], sticky := b.sticky.or it.shared.sticky }
  match bs.findIdx? fun b => buildRoom b it with
  | some j => some (bs.modify j put, pool, next)
  | none =>
    match pool with
    | [] => none
    | c :: t =>
      some (bs ++ [put { id := next, team := it.team, role := it.role, target := it.target, ctx := c
                         shared := { it.shared with sticky := Flags.none }, sticky := it.shared.sticky
                         stepped := it.stepped }], t, next + 1)

/-- Every item counted in turn. -/
def placeItems : List (Bool × Stored) → List Build → List Nat → Nat → Option (List Build × List Nat × Nat)
  | [], bs, pool, next => some (bs, pool, next)
  | (w, it) :: t, bs, pool, next =>
    match placeItem w bs pool next it with
    | some (bs, pool, next) => placeItems t bs pool next
    | none => none

/-- The items that a core's spawn store holds or keeps room for, those of displaced groups among them (R153, R192). -/
def storeUsed (c : Core) : Nat :=
  c.store.length + (c.builds.map fun b => b.items.length).sum +
    ((c.groups ++ shadowGroups c).map fun e => e.2.transit.length).sum

/-- A build is full, and is issued (R154). -/
def buildDue (s : State) (core : Nat) : State :=
  (getCore s core).builds.foldl (fun s b =>
    match b.items.head? with
    | some it =>
      if it.width ≤ b.items.length ∧ !s.agenda.contains (.formerGroupIssue core b.id) then
        push s (.formerGroupIssue core b.id)
      else s
    | none => s) s

/-- An item whose registers have landed enters the store: into its build, or into the store until a pool context is free
(R153, R154). DESIGN CHOICE (log 67): the promise to an item in transit is kept by the build that it was made to, and ends when that
build is issued before the item has come; the item then enters another build, or waits in the store for a pool context. -/
def enterStore (s : State) (core : Nat) (it : Stored) : State :=
  match getTeam s it.team with
  | none => s
  | some tm =>
    let c := getCore s core
    let free (b : Build) : Build := if buildTakes b it ∧ b.awaited > 0 then { b with awaited := b.awaited - 1 } else b
    let bs := match c.builds.findIdx? fun b => buildTakes b it && decide (b.awaited > 0) with
      | some j => c.builds.modify j free
      | none => c.builds
    match placeItem false bs tm.pool s.nextId it with
    | some (bs, pool, next) =>
      let s := { s with nextId := next }
      let s := updCore s core fun c => { c with builds := bs }
      buildDue (setTeam s it.team { tm with pool := pool }) core
    | none => updCore s core fun c => { c with builds := bs, store := c.store ++ [it] }

/-- The slots whose items must wait for a pending destination of their lane (R153). -/
def laneWaits (g : Group) (l : Nat) : List Nat :=
  (g.pending.filter fun p => p.slots.contains l && p.regs.any fun | .v _ => true | .k _ => true | _ => false).map (·.id)

/-- The group an issued build becomes (R154, R320). -/
def builtGroup (s : State) (old : Group) (b : Build) (num : Nat) : Group :=
  let h := launchHdr s old.lid
  let n := b.items.length
  let items := b.items.zipIdx.map fun e => (e.2, e.1.item)
  let slots := List.range n
  let keys := distinct (b.items.flatMap fun it => it.v.map (·.1))
  let ks := distinct (b.items.flatMap fun it => it.k.map (·.1))
  let lane (f : Stored → Int) := (List.range h.w).map fun l => match b.items[l]? with | some it => f it | none => 0
  let r := { b.shared with sticky := b.sticky }
  let r := keys.foldl (fun (r : Regs) i => { r with v := mput (.u 0) r.v i (.f (lane fun it => (mfind it.v i).getD 0)) }) r
  let r := ks.foldl (fun (r : Regs) i => { r with k := mput (.u 0) r.k i (.f (lane fun it => (mfind it.k i).getD 0)) }) r
  setRestart
    { old with
      st := .ready, num := num, role := b.role, width := h.w, nf := roleRegs h b.role, items := items, active := slots, pc := b.target
      nospawn := h.nospawn, r := r, age := 0, reason := 0, exempt := none
      haltPending := b.stepped, haltCause := if b.stepped then 7 else 0 } b.target

/-- The lowest group number that no live group of the team holds, counting from its cast groups (R148). -/
def nextGroupNum (s : State) (t : Nat) : Nat :=
  let base := match getTeam s t with | some tm => tm.castGroups | none => 0
  let used := (teamHolders s t).map fun e => e.2.num
  ((List.range 28).map (· + base)).find? (fun n => !used.contains n) |>.getD base

/-- A built group is issued (R154), with what it has; log 67 names what becomes of the items promised to it. -/
def issueBuild (s : State) (core id : Nat) : State :=
  let c := getCore s core
  match c.builds.find? fun b => b.id == id with
  | none => s
  | some b =>
    match mfind c.groups b.ctx with
    | none => s
    | some old =>
      if b.items = [] ∨ old.st ≠ .reserved ∨ old.team ≠ b.team then s
      else
        let g := builtGroup s old b (nextGroupNum s b.team)
        let s := updCore s core fun c => { c with builds := c.builds.filter fun b => b.id != id }
        let s := setGroup s core b.ctx { g with paid := (getDie s (dieOf core)).trialG }
        if b.stepped then haltGroup s core b.ctx 7 0 b.target g.active 1 [] else s

/-- A group that is not full may be issued before its 729 cycles have passed (R154: "no later than"): after a bundle of its core a free
choice (R10) issues those to which no item in transit is promised. -/
def issueEarly (s : State) (core : Nat) : State :=
  (getCore s core).builds.foldl (fun s b =>
    if b.awaited = 0 ∧ Config.choice s.fresh then issueBuild (tick s) core b.id else tick s) s

/-! ## Ends: draining, teams, shares (R161, R162, R189) -/

/-- Leave that a draining group held is released (R187). -/
def releaseLeave (s : State) (core ctx : Nat) : State :=
  match getGroup s core ctx with
  | none => s
  | some g =>
    if g.leave = 0 then s
    else
      let d := dieOf core
      let s := updDie (setGroup s core ctx { g with leave := 0 }) d fun k => { k with held := k.held - g.leave }
      if (getDie s d).leaveQ = [] then s else push s (.leaveGrant d)

/-- A group without items drains (R155, R161). -/
def startDraining (s : State) (core ctx : Nat) : State :=
  let s := releaseLeave s core ctx
  push (updGroup s core ctx fun g => { g with st := .draining, wait := none }) (.drainingEnd core ctx)

/-- A range that waits to cast is offered the contexts that have become free, the oldest first (R143, R165); one of a serving launch that
waits behind it may have room made for it (R191). -/
def offerCast (s : State) (core : Nat) : State :=
  let rs := (getCore s core).ranges.filter fun e => e.2.st == .casting
  match rs with
  | [] => s
  | r :: t =>
    let e := (t.foldl (fun (a : Nat × Range) b => if b.2.castAt < a.2.castAt then b else a) r).1
    (rs.filter fun r => r.1 == e || (launchTcb s r.2.lid).serving).foldl (fun s r =>
      if s.agenda.contains (.teamCast core r.1) then s else push s (.teamCast core r.1)) s

/-- The ranges of a family that wait at joins are merged when no member of it runs (R146). -/
def offerMerge (s : State) (core family : Nat) : State :=
  let rs := (getCore s core).ranges.filter fun e => e.2.family == family
  if rs.any (fun e => e.2.st == .atJoin) ∧ !rs.any (fun e => e.2.st == .running) then
    (if s.agenda.contains (.rangeMerge core family) then s else push s (.rangeMerge core family))
  else s

/-- Is every range and team of a launch on a die gone, with no share of it left to place? (R162) -/
def pieceDone (s : State) (die lid : Nat) : Bool :=
  (List.range 81).all (fun c =>
    (getCore s (81 * die + c)).ranges.all (fun e => e.2.lid != lid) &&
    (teamsOn s (81 * die + c)).all (fun e => e.2.lid != lid)) &&
  (getDie s die).offers.all (fun o => o.lid != lid) &&
  (getDie s die).shares.all fun h => h.lid != lid || !h.saved

/-- Is every range and team of a family on a core gone? -/
def familyDone (s : State) (core family : Nat) : Bool :=
  (getCore s core).ranges.all (fun e => e.2.family != family) &&
  s.teams.all (fun e => e.2.core != core || e.2.family != family) &&
  (getDie s (dieOf core)).shares.all fun h => h.ranges.all fun e => e.1 != core || e.2.family != family

/-- A packet is sent to a die's mailbox (R177). -/
def sendPacket (s : State) (die : Nat) (p : Packet) : State :=
  push (updDie s die fun d => { d with senders := d.senders ++ [p] }) (.workPacket die)

/-- The status with which a launch's shares end: completed, or aborted (R174, R245). -/
def shareStatus (s : State) (lid : Nat) : Int :=
  match getLaunch s lid with
  | some l => if l.aborting then (if l.doubleFault then -6 else -5) else 1
  | none => 1

/-- A launch's pins on a die are dropped: its share there completes or is saved (R294). -/
def dropPins (s : State) (die lid : Nat) : State :=
  (List.range 27).foldl (fun s c => updCluster s (27 * die + c) fun k =>
    if k.pins.any fun p => p.lid == lid then { k with pins := k.pins.filter fun p => p.lid != lid } else k) s
/-- Shares that `share` placed and that have ended, their writes performed, are reported by a packet of kind 4, which is a release;
after the last the launch has no share on the die (R245, R246, R294). -/
def endSoft (s : State) (die : Nat) : State :=
  (getDie s die).softShares.foldl (fun s h =>
    if familyDone s h.core h.family ∧ !writesWait s h.core then
      let s := releaseDie (drainBuffer s h.core) die 4
      let more := (getDie s die).softShares.any (fun x => x.desc.lid == h.desc.lid && (x.core != h.core || x.family != h.family)) ||
        (getDie s die).shares.any fun k => k.lid == h.desc.lid && !k.soft
      let s := if more then s else dropPins s die h.desc.lid
      sendPacket (updDie s die fun d =>
        let l := d.softShares.filter fun k => k.core != h.core || k.family != h.family
        { d with softShares := l
                 shares := d.shares.filter fun k => !k.soft || k.lid != h.desc.lid || l.any fun x => x.desc.lid == k.lid }) die
        { h.desc with kind := 4, status := shareStatus s h.desc.lid }
    else s) s

/-- A piece whose ranges and teams are gone is reported (R162, R175). -/
def checkPiece (s : State) (die lid : Nat) : State :=
  let s := endSoft s die
  if (getDie s die).shares.any (fun h => h.lid == lid && !h.soft) ∧ pieceDone s die lid ∧
      !s.agenda.contains (.pieceEnd die lid) then
    push s (.pieceEnd die lid)
  else s

/-- A team whose groups are freed and whose operations are complete retires (R162). -/
def offerRetire (s : State) (t : Nat) : State :=
  match getTeam s t with
  | none => s
  | some tm =>
    let c := getCore s tm.core
    let lives := (c.groups ++ shadowGroups c).any fun e => e.2.team == t && e.2.st != .reserved
    let stored := c.store.any (fun i => i.team == t) || c.builds.any (fun b => b.team == t)
    if !tm.saved ∧ !lives ∧ !stored ∧ tm.outstanding = 0 ∧ !s.agenda.contains (.teamRetire t) then push s (.teamRetire t) else s

end Sys2Proof.Machine
end

