-- ==== Sys2Proof/Machine/Engine.lean ====
section
/-! DEFINITION. Engine operations: parameter blocks and their checks, acceptance, the leave governor, completion, named
barriers, pins and snapshots (11 R280 to R286, R291, R293, R294, R296, R300 to R304, R309, R312; 07 R186, R187). -/

namespace Sys2Proof.Machine

open Sys2Proof

/-! ## Parameter blocks -/

/-- A field of a parameter block held as one value of 243 trits. -/
def inRng (x : Int) (hi lo : Nat) (a b : Int) : Bool := decide (a ≤ trits x hi lo) && decide (trits x hi lo ≤ b)
def isZero (x : Int) (hi lo : Nat) : Bool := decide (trits x hi lo = 0)
def isMul (x : Int) (hi lo : Nat) (n : Int) : Bool := decide (trits x hi lo % n = 0)

/-- The element format of a code and value of a pass block (R286). -/
def passFmt (code v : Int) : Option TFmt :=
  if code = 1 then some (.int 9)
  else if code = 2 then some (.flt fmtT9)
  else if code = 3 then some (.flt fmtT18)
  else (ffmtOf v).map .flt
/-- Do the integer modes admit the format? (R286) -/
def passIntOk (code v : Int) : Bool :=
  decide (code = 1) ||
  (decide (code = 4) && match ffmtOf v with | some f => decide (f.e = 0) && decide (0 ≤ f.off) | none => false)
/-- A block of 11 stride trits by its space: FIFO, with a bank number and no stride, or addresses (R286, R296). -/
def fifoOrMul (x : Int) (space hi lo : Nat) (n : Int) : Bool :=
  if trit x space = -1 then inRng x hi lo 0 107 else isMul x hi lo n

/-- Status of a pass block under its field map: 0 where it is well formed (R286). -/
def passStatus (x : Int) (tile : Nat) : Int :=
  let n := trits x 239 237
  let mode := trits x 236 234
  let sp := trits x 233 232
  let ca := trits x 214 212
  let cb := trits x 199 197
  if !(decide (trits x 242 240 = 1) && inRng x 239 237 1 3 && inRng x 236 234 1 4 && inRng x 233 232 0 2 &&
      inRng x 231 227 0 27 && inRng x 226 224 2 5 && inRng x 223 215 1 6561 &&
      (decide (sp = 0) || isMul x 223 215 27) &&
      inRng x 214 212 1 4 && inRng x 199 197 1 4 &&
      fifoOrMul x 184 183 148 27 &&
      (if trit x 184 = -1 then isZero x 147 139 else inRng x 147 139 1 9841) &&
      decide (trit x 138 ≠ -1) && isMul x 137 102 27 && inRng x 101 93 1 9841 && isMul x 92 80 27 &&
      (decide (n ≠ 1) || isZero x 92 80) && decide (trit x 79 ≠ -1) &&
      (if sp = 0 then isZero x 79 43 else isMul x 78 43 3) && isZero x 42 0 &&
      decide ((tile : Int) + n - 1 ≤ 8)) then -1
  else if (ca ≠ 4 ∧ trits x 211 200 ≠ 0) ∨ (cb ≠ 4 ∧ trits x 196 185 ≠ 0) then -2
  else if (passFmt ca (trits x 211 200)).isNone ∨ (passFmt cb (trits x 196 185)).isNone then -2
  else if mode ≠ 1 ∧ !(passIntOk ca (trits x 211 200) && passIntOk cb (trits x 196 185)) then -2
  else 0

/-- The output format of a drain block (R291). -/
def drainFmt (x : Int) : Option TFmt :=
  let c := trits x 226 224
  if c = 0 then some (.int 27)
  else if c = 1 then some (.int 9)
  else if c = 2 then some (.flt fmtT27)
  else if c = 3 then some (.flt fmtT18)
  else if c = 4 then some (.flt fmtT9)
  else (ffmtOf (trits x 223 212)).map .flt
/-- Elements of a width to a block. -/
def perBlock (w : Nat) : Nat := 243 / w
/-- Blocks to a row of `n` elements. -/
def rowBlocks (w n : Nat) : Nat := (n + perBlock w - 1) / perBlock w
/-- Status of a drain block (R291). -/
def drainStatus (x : Int) (tile : Nat) : Int :=
  let n := trits x 239 237
  if !(decide (trits x 242 240 = 2) && inRng x 239 237 1 3 && decide (trit x 236 ≠ -1) && inRng x 235 231 0 27 &&
      inRng x 230 228 2 5 && decide (trit x 227 ≠ -1) && inRng x 226 224 0 5 && fifoOrMul x 211 210 175 27 &&
      (if trit x 211 = -1 then isZero x 174 166 else inRng x 174 166 1 9841) &&
      (if trit x 156 = -1 then isZero x 155 120 else isMul x 155 120 3) &&
      (decide (trit x 119 ≠ -1) || isZero x 118 83) && decide (trit x 82 ≠ -1) &&
      (if trit x 82 = 1 then isMul x 81 46 3 else isZero x 81 46) && isZero x 45 0 &&
      decide ((tile : Int) + n - 1 ≤ 8)) then -1
  else if trits x 226 224 ≠ 5 ∧ trits x 223 212 ≠ 0 then -2
  else match drainFmt x with
    | none => -2
    | some f =>
      if trit x 211 ≠ -1 ∧ trits x 174 166 < rowBlocks (tfmtWidth f) (81 * n.toNat) then -1 else 0

/-- One side of a copy: a bank of its number with stride 0, or an address (R296). -/
def copySide (x : Int) (space hi lo shi slo : Nat) : Bool :=
  if trit x space = -1 then inRng x hi lo 0 107 && isZero x shi slo else true
/-- Status of a copy descriptor (R296). A copy into registers from a FIFO has no meaning and is malformed. -/
def copyStatus (x : Int) : Int :=
  let form := trits x 239 237
  let fifo := decide (trit x 208 = -1) || decide (trit x 158 = -1)
  if !(decide (trits x 242 240 = 3) && inRng x 239 237 1 2 && inRng x 236 232 0 27 && inRng x 231 229 2 5 &&
      decide (trit x 228 ≠ 1) &&
      (decide (trit x 228 = 0) || (decide (form = 1) && decide (trit x 208 = 0) && decide (trit x 158 = 0))) &&
      isZero x 91 0 &&
      (if form = 1 then
        inRng x 227 218 1 19683 && inRng x 217 209 1 9841 && (!fifo || isMul x 227 218 27) &&
        copySide x 208 207 172 171 159 && copySide x 158 157 122 121 109 && isZero x 108 92
      else
        isZero x 227 209 && decide (trit x 208 ≠ -1) && isZero x 158 109 && inRng x 108 100 0 242 &&
        inRng x 99 95 0 26 && (decide (trits x 94 92 = 1) || decide (trits x 94 92 = 3)))) then -1
  else 0

/-- Status of a block for an instruction of a kind. -/
def blockStatus (k : EngKind) (x : Int) (tile : Nat) : Int :=
  match k with
  | .pass => passStatus x tile
  | .drain => drainStatus x tile
  | _ => copyStatus x
/-- The barrier that a block names, 0 for none, and its place in the block by kind. -/
def blockBarrier (k : EngKind) (x : Int) : Int :=
  match k with
  | .pass => trits x 231 227
  | .drain => trits x 235 231
  | _ => trits x 236 232

/-! ## Named barriers (R300 to R304) -/

/-- The state word of a barrier. -/
def barrierWord (b : Barrier) : Int := b.phase * 3 ^ 18 + b.arrived * 3 ^ 9 + b.expected
def getNb (s : State) (t nb : Nat) : Barrier := match getTeam s t with | some tm => mget {} tm.nb nb | none => {}
def setNb (s : State) (t nb : Nat) (b : Barrier) : State := updTeam s t fun tm => { tm with nb := mput {} tm.nb nb b }
/-- May `n` members arrive? -/
def nbAdmits (b : Barrier) (n : Int) : Bool := decide (b.expected ≠ 0) && decide (b.arrived + n ≤ b.expected)
/-- Groups of a team whose wait on a barrier has ended are ready (R304). -/
def wakeBarrier (s : State) (t nb : Nat) : State :=
  (teamGroups s t).foldl (fun s e =>
    match e.2.wait with
    | some (.barrier n p) =>
      if n = nb ∧ p ≠ (getNb s t nb).phase then
        match getTeam s t with | some tm => wakeGroup s tm.core e.1 | none => s
      else s
    | _ => s) s
/-- An arrival that is admitted (R303). -/
def nbArrive (s : State) (t nb : Nat) (n : Int) (rel : Nat) : State :=
  let b := getNb s t nb
  if b.arrived + n = b.expected then
    wakeBarrier (setNb s t nb { b with
      arrived := 0, phase := wrap 9 (b.phase + 1), rels := []
      met := (b.met.filter fun m => relHeld s m.2) ++ ((b.rels ++ [rel]).filter (relHeld s)).map fun r => (b.phase, r) }) t nb
  else setNb s t nb { b with arrived := b.arrived + n, rels := (b.rels ++ [rel]).filter (relHeld s) }
/-- An engine's arrival: where it is not admitted it is dropped and recorded (R303). -/
def engineArrive (s : State) (core t : Nat) (ctx : Int) (bar status : Int) (rel : Nat) : State :=
  if bar < 1 ∨ 27 < bar then s
  else
    let nb := (bar - 1).toNat
    if nbAdmits (getNb s t nb) 1 then nbArrive s t nb 1 rel
    else friezePost s (dieOf core) 3 (coreInDie core) ctx 0 nb status

/-! ## The leave governor (R187) -/

/-- A request that reaches the governor: granted at once, or queued; none where it waits. -/
def askLeave (s : State) (die charge core ctx : Nat) (g : Group) (explicit : Bool) : Option State × State :=
  let d := getDie s die
  if d.leaveQ = [] ∧ d.held + charge ≤ d.budget then (some (updDie s die fun k => { k with held := k.held + charge }), s)
  else if d.leaveQ.any fun q => q.core == core && q.ctx == ctx && q.team == g.team && q.num == g.num then (none, s)
  else (none, updDie s die fun k =>
    { k with leaveQ := k.leaveQ ++
        [{ charge := charge, core := core, ctx := ctx, team := g.team, num := g.num, explicit := explicit }] })
/-- Units are released, and a waiting request may be granted. -/
def freeLeave (s : State) (die n : Nat) : State :=
  if n = 0 then s
  else
    let s := updDie s die fun k => { k with held := k.held - n }
    if (getDie s die).leaveQ = [] then s else push s (.leaveGrant die)
/-- LEAVE_GRANT: the oldest request is granted where held and its charge do not exceed the budget, to a group that stands in the shadow
bank too (R187, R192). -/
def execLeaveGrant (die : Nat) (s : State) : Host.Outcome State Fault Refusal :=
  let d := getDie s die
  .next (match d.leaveQ with
    | [] => s
    | q :: t =>
      match findHolder s q.core q.ctx (isMember q.team q.num) with
      | none => push (setDie s die { d with leaveQ := t }) (.leaveGrant die)
      | some _ =>
        if d.held + q.charge ≤ d.budget then
          let s := setDie s die { d with leaveQ := t, held := d.held + q.charge }
          let s := updHolder s q.core q.ctx (isMember q.team q.num) fun g =>
            wokenGroup (if q.explicit then { g with leave := q.charge } else { g with leaveGranted := true })
          if t = [] then s else push s (.leaveGrant die)
        else s)

/-! ## Acceptance (R281) -/

/-- A status that lands at once; with no destination a negative one is recorded in the frieze (R281, R282). -/
def landStatus (s : State) (i : Issue) (c : Nat) (d : Option Nat) (v : Int) : State :=
  match d with
  | some n => setS s i n v
  | none => if trits v 8 0 < 0 then friezePost s (dieOf i.core) 2 (coreInDie i.core) c 0 0 v else s

/-- Entries of a cluster's matrix table, or of its copy queue, that groups hold while they wait for a grant. -/
def heldEntries (s : State) (cl core ctx : Nat) (copy : Bool) : Nat :=
  ((List.range 3).map fun j =>
    ((getCore s (3 * cl + j)).groups ++ shadowGroups (getCore s (3 * cl + j)) |>.filter fun e =>
      (3 * cl + j != core || e.1 != ctx || e.2.displaced) && decide (e.2.holdCharge ≠ 0) &&
      match e.2.hold with
      | some b => decide (trits (ofNonets b) 242 240 = 3) == copy
      | none => false).length).sum
/-- Is there an entry for one more operation? -/
def hasEntry (s : State) (cl core ctx : Nat) (copy : Bool) : Bool :=
  let k := getCluster s cl
  decide ((if copy then k.copyq else k.mtable).length + heldEntries s cl core ctx copy < 27)

/-- The group of a team with a number, if it exists (R298). -/
def groupNumbered (s : State) (t num : Nat) : Option (Nat × Group) :=
  (teamHolders s t).find? fun e => e.2.num == num && e.2.st != .draining
/-- Is a vector register of a group pending? -/
def regPending (g : Group) (n : Nat) : Bool := g.pending.any fun p => p.regs.contains (.v n)
/-- The charge of an operation (R187). -/
def opCharge (k : EngKind) (x : Int) : Nat :=
  match k with
  | .pass => (trits x 239 237).toNat
  | .copy | .regCopy => 1
  | _ => 0

/-- Blocks of the scratchpad become absent (R72, R309). -/
def clearPresence (s : State) (cl : Nat) (bs : List Int) : State :=
  bs.foldl (fun s b => if spIn s cl (27 * b) then spSetPresent s cl (27 * b) false else s) s
/-- The scratchpad rows that a drain or a copy writes: address and length. -/
def scratchRows (k : EngKind) (x : Int) : List (Int × Nat) :=
  match k with
  | .drain =>
    if trit x 211 = 1 then
      let w := match drainFmt x with | some f => tfmtWidth f | none => 1
      (List.range 81).map fun (i : Nat) =>
        (trits x 210 175 + 27 * trits x 174 166 * (i : Int), 27 * rowBlocks w (81 * (trits x 239 237).toNat))
    else []
  | .copy =>
    if trit x 158 = 1 then
      (List.range (trits x 217 209).toNat).map fun (r : Nat) =>
        (trits x 157 122 + (r : Int) * trits x 121 109 * trits x 227 218, (trits x 227 218).toNat)
    else []
  | _ => []

/-- The event that performs an operation. -/
def opEvent (k : EngKind) (id : Nat) : Event :=
  match k with
  | .pass => .matrixPass id
  | .drain | .zero => .drain id
  | .copy => .blockCopy id
  | .regCopy => .copyIntoRegisters id

/-- An operation is accepted: its block is fixed, its destination pending, its place taken (R281 step 6). -/
def enterOp (s : State) (i : Issue) (c : Nat) (g : Group) (k : EngKind) (d : Option Nat) (tile count : Nat)
    (b : List Int) (charge : Nat) : State :=
  let (pend, s) := match d with
    | some n => let (id, s) := addPending s i.core c .other [.s n] [] none; (some id, s)
    | none => (none, s)
  let (id, s) := newId s
  let r := srcRegs s i
  let op : EngineOp :=
    { kind := k, core := i.core, ctx := c, team := g.team, lid := g.lid, pend := pend, block := b, tile := tile
      count := count, charge := charge, super := r.super, userOk := r.userOk, uroot := r.uroot, sroot := r.sroot
      asid := r.asid }
  let s := { s with ops := mset s.ops id op }
  let s := updCluster s (clusterOf i.core) fun q =>
    if k = .copy ∨ k = .regCopy then { q with copyq := q.copyq ++ [id] } else { q with mtable := q.mtable ++ [id] }
  let s := updGroup s i.core c fun g =>
    { g with ops := g.ops ++ [id], hold := none, holdCharge := 0, leaveGranted := false }
  let s := updTeam s g.team fun t => { t with outstanding := t.outstanding + 1 }
  let s := clearPresence s (clusterOf i.core)
    ((scratchRows k (ofNonets b)).flatMap fun r => spBlocks r.1 r.2)
  push s (opEvent k id)

/-- The target of a copy into registers becomes pending in its group, in its context or in the shadow bank (R192, R298). -/
def pendTarget (s : State) (core t : Nat) (x : Int) : State :=
  let num := (trits x 99 95).toNat
  match groupNumbered s t num with
  | none => s
  | some e =>
    let (id, s) := newId s
    updHolder s core e.1 (isMember t num) fun g =>
      { g with pending := g.pending ++ [{ id := id, kind := .copy, regs := [.v (trits x 108 100).toNat], slots := occupied e.2
                                          inHandler := g.r.tr.inHandler, pc := g.pc }] }

/-- Does the target of a copy into registers exist? (R298) -/
def targetExists (s : State) (t : Nat) (x : Int) : Bool :=
  match groupNumbered s t (trits x 99 95).toNat with
  | some e => decide ((trits x 108 100).toNat < e.2.nf)
  | none => false
/-- Is it pending in its group? -/
def targetPending (s : State) (t : Nat) (x : Int) : Bool :=
  match groupNumbered s t (trits x 99 95).toNat with
  | some e => regPending e.2 (trits x 108 100).toNat
  | none => false

/-- Steps 3 to 6 of R281 for a block that has been read. -/
def acceptBlock (s : State) (i : Issue) (c : Nat) (g : Group) (k : EngKind) (d : Option Nat) (tile : Nat)
    (b : List Int) : State :=
  let x := ofNonets b
  let cl := clusterOf i.core
  let k := if k = .copy ∧ trits x 239 237 = 2 then EngKind.regCopy else k
  let copy := decide (k = .copy) || decide (k = .regCopy)
  let st := blockStatus k x tile
  let st := if st = 0 ∧ k = .regCopy ∧ !targetExists s g.team x then -1 else st
  let held (s : State) : State := updGroup s i.core c fun g => { g with hold := some b }
  if st ≠ 0 then
    landStatus (engineArrive (dropHold s i.core c) i.core g.team c (blockBarrier k x) st s.fresh) i c d st
  else if g.holdCharge = 0 ∧ !hasEntry s cl i.core c copy then held (stallIssue s i .engine)
  else if k = .regCopy ∧ targetPending s g.team x then held (stallIssue s i .engine)
  else if k = .regCopy ∧ trits x 99 95 = g.num ∧ !handlerAllows g (trits x 108 100).toNat (.f []) then
    doubleFault (breakIssue s i) i.core c 2 i.pc
  else
    let charge := opCharge k x
    let enter (s : State) : State :=
      let s := enterOp s i c g k d tile (trits x 239 237).toNat b charge
      if k = .regCopy then pendTarget s i.core g.team x else s
    if charge = 0 ∨ g.leaveGranted then enter s
    else
      match askLeave s (dieOf i.core) charge i.core c g false with
      | (some s, _) => enter s
      | (none, s) => updGroup (held (stallIssue s i .leave)) i.core c fun g => { g with holdCharge := charge }

/-- The pin of a launch for an address (R294). -/
def findPin (s : State) (cl lid : Nat) (scratch : Bool) (addr : Int) : Option Pin :=
  (getCluster s cl).pins.find? fun p => p.lid == lid && p.scratch == scratch && decide (p.addr = addr)

/-- The parameter-block read of R281 step 2, then `k` on the block; a failing read gives the status of R281. -/
def readBlockThen (s : State) (i : Issue) (c : Nat) (g : Group) (a : AReg) (addr : Int) (d : Option Nat)
    (k : List Int → State → State) : State :=
  access s i c g { a with load := a.load && a.engine } .load false anyAddr true false false
    [{ slot := 0, e := addr, n := 27 }] fun ok s =>
      match readLanes i.core 0 ok s with
      | (p :: _, _, s) => k p.2 s
      | (_, bad, s) => landStatus s i c d (((bad.head?.map (·.cause)).getD 0) * 19683 - 5)

/-- An instruction that issues a pass, a drain or a copy (R281, R290, R291, R297). -/
def engineIssue (s : State) (k : EngKind) (d : Option Nat) (a : Nat) (disp : Int) (tile : Nat) :
    Host.Outcome State Fault Refusal :=
  engineOp s fun i c g s =>
    match g.hold with
    | some b => acceptBlock s i c g k d tile b
    | none =>
      let r := getA s i a
      let addr := r.ptr + 27 * disp
      match (if k = .copy then none else findPin s (clusterOf i.core) g.lid r.scratch addr) with
      | some p =>
        if regCheck { r with load := r.load && r.engine } .load addr 27 then acceptBlock s i c g k d tile p.block
        else boundsAll s i addr
      | none => readBlockThen s i c g r addr d fun b s => acceptBlock s i c g k d tile b

/-- `mpass` (R290). -/
def execMpass (d : Option Nat) (a b : Nat) (s : State) : Host.Outcome State Fault Refusal := engineIssue s .pass d a 0 b
/-- `mpassx` (R290). -/
def execMpassx (d : Option Nat) (a x : Nat) (e : Int) (s : State) : Host.Outcome State Fault Refusal :=
  engineIssue s .pass d x e a
/-- `mdrain` (R291). -/
def execMdrain (d : Option Nat) (a b : Nat) (s : State) : Host.Outcome State Fault Refusal := engineIssue s .drain d a 0 b
/-- `mdrainx` (R291). -/
def execMdrainx (d : Option Nat) (a x : Nat) (e : Int) (s : State) : Host.Outcome State Fault Refusal :=
  engineIssue s .drain d x e a
/-- `cpy` (R297, R298). -/
def execCpy (d : Option Nat) (a : Nat) (s : State) : Host.Outcome State Fault Refusal := engineIssue s .copy d a 0 0
/-- `cpyx` (R297, R298). -/
def execCpyx (d : Option Nat) (x : Nat) (e : Int) (s : State) : Host.Outcome State Fault Refusal :=
  engineIssue s .copy d x e 0

/-- `mzero` (R293): the tiles are zeroed in its turn. -/
def execMzero (a : Nat) (b : Int) (s : State) : Host.Outcome State Fault Refusal :=
  engineOp s fun i c g s =>
    if 8 < (a : Int) + b - 1 then illegalOpcode s i
    else if !hasEntry s (clusterOf i.core) i.core c false then stallIssue s i .engine
    else enterOp s i c g .zero none a b.toNat [] 0

/-! ## Completion (R283) -/

/-- An engine status word (R282). -/
def statusWord (row cause code : Int) : Int := row * 3 ^ 18 + cause * 3 ^ 9 + code

/-- Operations of a cluster that may now go on. -/
def kickOps (s : State) (cl : Nat) : State :=
  let k := getCluster s cl
  (k.mtable ++ k.copyq).foldl (fun s id =>
    match mfind s.ops id with
    | some op =>
      if op.awaiting ∨ s.agenda.contains (opEvent op.kind id) then s else push s (opEvent op.kind id)
    | none => s) s

/-- The agent of an operation (R94, R95), and the scope that its block names for its completion (R107). -/
def opAgent (op : EngineOp) : Agent := onPath op.core (if op.kind = .copy ∨ op.kind = .regCopy then .copy else .matrix)
def opScope (op : EngineOp) : Nat :=
  let x := ofNonets op.block
  (match op.kind with
    | .pass => trits x 226 224
    | .drain => trits x 230 228
    | .zero => 2
    | .copy | .regCopy => trits x 231 229).toNat

/-- The completion event of an operation, which releases its accesses (R107): its flags, its arrival, its status; its entry and its charge are freed; `va` is
the faulting address for code -4 (R282, R283). -/
def completeOp (s : State) (id : Nat) (op : EngineOp) (status va : Int) : State :=
  let cl := clusterOf op.core
  let rel := s.fresh
  let s := releaseBy s (opAgent op) (opScope op)
  let s := updHolder s op.core op.ctx (fun g => g.ops.contains id) fun g =>
    { g with r := orFlags g.r op.flags, ops := g.ops.filter (· ≠ id) }
  let s := if op.kind = .zero then s
    else engineArrive s op.core op.team op.ctx (blockBarrier op.kind (ofNonets op.block)) status rel
  let s := bindStatus s op.core op.ctx op.pend status
    (some { scope := opScope op, mask := [(opAgent op).path, .core], meets := some [rel] })
  let s := if op.pend.isNone ∧ trits status 8 0 < 0 then
      friezePost s (dieOf op.core) 2 (coreInDie op.core) op.ctx (if trits status 8 0 = -4 then va else 0) 0 status
    else s
  let s := { s with ops := mdel s.ops id }
  let s := updCluster s cl fun k => { k with mtable := k.mtable.filter (· ≠ id), copyq := k.copyq.filter (· ≠ id) }
  let s := freeLeave s (dieOf op.core) op.charge
  let s := offerRetire (updTeam s op.team fun t => { t with outstanding := t.outstanding - 1 }) op.team
  kickOps (wakeEngine s cl) cl

/-- The translation context of an operation (R62). -/
def opXl (op : EngineOp) : XlCtx :=
  { die := dieOf op.core, via := .die (dieOf op.core), super := op.super, userOk := op.userOk, uroot := op.uroot, sroot := op.sroot, asid := op.asid }

/-! ## Pins (R294) -/

/-- The generation of a pin, or 0, lands at once; it is no status (R294). -/
def landGen (s : State) (i : Issue) (d : Option Nat) (v : Int) : State :=
  match d with
  | some n => setS s i n v
  | none => s
/-- `mpin` (R294). -/
def execMpin (d : Option Nat) (a : Nat) (s : State) : Host.Outcome State Fault Refusal :=
  engineOp s fun i c g s =>
    let r := getA s i a
    readBlockThen s i c g r r.ptr d fun b s =>
      let x := ofNonets b
      let k := trits x 242 240
      let st := if k = 1 then passStatus x 0 else if k = 2 then drainStatus x 0 else -1
      let cl := clusterOf i.core
      if st < 0 then landStatus s i c d st
      else match findPin s cl g.lid r.scratch r.ptr with
        | some p =>
          let gen := if p.gen = half 27 then 1 else p.gen + 1
          landGen (updCluster s cl fun q => { q with pins := q.pins.map fun o =>
            if o.lid = g.lid ∧ o.scratch = r.scratch ∧ o.addr = r.ptr then { o with gen := gen, block := b } else o })
            i d gen
        | none =>
          if (getCluster s cl).pins.length ≥ 27 then landGen s i d 0
          else landGen (updCluster s cl fun q => { q with
            pins := q.pins ++ [{ lid := g.lid, addr := r.ptr, scratch := r.scratch, gen := 1, block := b }] }) i d 1

/-- `munpin` (R294). -/
def execMunpin (a : Nat) (s : State) : Host.Outcome State Fault Refusal :=
  engineOp s fun i _ g s =>
    let r := getA s i a
    updCluster s (clusterOf i.core) fun q => { q with pins := q.pins.filter fun p =>
      !(p.lid == g.lid && p.scratch == r.scratch && decide (p.addr = r.ptr)) }

/-! ## Barrier instructions -/

/-- The barrier trap: its lanes are those where the guard held (R315). -/
def barrierTrap (s : State) (i : Issue) : State := raise s i 9 0 (plainLanes i.guard)

/-- `nbinit` (R302). -/
def execNbinit (a : Nat) (b : Opd) (s : State) : Host.Outcome State Fault Refusal :=
  engineOp s fun i _ g s =>
    let n := ssrc s i b
    let w := getNb s g.team a
    if n < 0 ∨ 9841 < n then illegalOpcode s i
    else if w.expected = n then s
    else if w.arrived = 0 then setNb s g.team a { w with expected := n }
    else barrierTrap s i

/-- An arrival of a group (R303), a release at core scope with a mask (R108); one that names the stream path sends the buffer's
entries first (R77). -/
def nbarrOp (s : State) (d : Option Nat) (nb : Nat) (b : Opd) (mask : Int) : Host.Outcome State Fault Refusal :=
  engineOp s fun i _ g s =>
    let n := ssrc s i b
    let w := getNb s g.team nb
    if n < 1 ∨ 9841 < n then illegalOpcode s i
    else if !nbAdmits w n then barrierTrap s i
    else
      let m := maskPaths mask
      let s := if m.contains .stream then drainBuffer s i.core else s
      let s := nbArrive (unmade (release s i.core 1 m .fence) s.fresh) g.team nb n s.fresh
      match d with
      | some k => setS s i k w.phase
      | none => s
/-- `nbarr` (R303). -/
def execNbarr (d : Option Nat) (a : Nat) (b : Opd) (s : State) : Host.Outcome State Fault Refusal := nbarrOp s d a b 1
/-- `nbarrx` (R303). -/
def execNbarrx (d : Option Nat) (a : Nat) (b : Opd) (c : Int) (s : State) : Host.Outcome State Fault Refusal :=
  nbarrOp s d a b c

/-- A wait for the phase to differ from `p`; its end meets the arrivals, engines' by its mask (R107, R108, R304). -/
def nbwaitOp (s : State) (nb : Nat) (b : Opd) (mask : List Path) : Host.Outcome State Fault Refusal :=
  engineOp s fun i _ g s =>
    let p := ssrc s i b
    if (getNb s g.team nb).phase = p then stallIssue s i (.barrier nb p)
    else barrierAcquire s i.core mask (((getNb s g.team nb).met.filter fun m => decide (m.1 = p)).map (·.2))
/-- `nbwait` (R304). -/
def execNbwait (a : Nat) (b : Opd) (s : State) : Host.Outcome State Fault Refusal := nbwaitOp s a b waitMask
/-- `nbwaitx` (R304). -/
def execNbwaitx (a : Nat) (b : Opd) (c : Int) (s : State) : Host.Outcome State Fault Refusal := nbwaitOp s a b (maskPaths c)
/-- `nbget` (R301). -/
def execNbget (d a : Nat) (s : State) : Host.Outcome State Fault Refusal :=
  engineOp s fun i _ g s => setS s i d (barrierWord (getNb s g.team a))

/-! ## Presence and leave -/

/-- `pclr` (R309). -/
def execPclr (a : Nat) (b : Opd) (s : State) : Host.Outcome State Fault Refusal :=
  engineOp s fun i c g s =>
    let n := ssrc s i b
    let r := getA s i a
    let cl := clusterOf i.core
    let all (cause level : Int) := (activeLanes g).map fun l => { slot := l, addr := r.ptr, cause := cause, level := level }
    let blocks := (List.range n.toNat).map fun (j : Nat) => r.ptr / 27 + (j : Int)
    let outs := blocks.any fun b => !spIn s cl (27 * b)
    if n < 1 ∨ 729 < n then illegalOpcode s i
    else if !r.scratch ∨ r.ptr % 27 ≠ 0 then raise s i 6 0 (all 0 0)
    else if !regCheck r .store r.ptr (27 * n.toNat) then raise s i 5 0 (all 1 3)
    else if outs ∧ !g.r.suppress then raise s i 8 0 (all 0 0)
    else clearPresence (if outs then noteOob s i.core c (activeLanes g) else s) cl blocks

/-- `leave` (R312). -/
def execLeave (a : Opd) (s : State) : Host.Outcome State Fault Refusal :=
  engineOp s fun i c g s =>
    let n := ssrc s i a
    if n < 1 ∨ 81 < n then illegalOpcode s i
    else if g.leave ≠ 0 then s
    else match askLeave s (dieOf i.core) n.toNat i.core c g true with
      | (some s, _) => updGroup s i.core c fun g => { g with leave := n.toNat }
      | (none, s) => stallIssue s i .leave
/-- `unleave` (R312). -/
def execUnleave (s : State) : Host.Outcome State Fault Refusal :=
  engineOp s fun i c _ s => releaseLeave s i.core c

end Sys2Proof.Machine
end

