-- ==== Sys2Proof/Machine/Fifo.lean ====
section
/-! DEFINITION. FIFO banks: pushes and pops of groups and of engine operations, in the order in which the bank receives
them (11 R305 to R308; 03 R70, R75, R87). -/

namespace Sys2Proof.Machine

open Sys2Proof

/-- Is a bank in settled FIFO mode? -/
def fifoOpen (s : State) (cl b : Nat) : Bool := bankMode s cl b == some (-1)

/-- The oldest waiting push, and the oldest waiting pop, of a bank. -/
def firstPush (k : Bank) : Option Held := k.held.find? fun h => h.push
def firstPop (k : Bank) : Option Held := k.held.find? fun h => !h.push
/-- May they be served? -/
def pushFits (k : Bank) (h : Held) : Bool := decide (k.fifo.length + h.entries.length ≤ 729)
def popFits (k : Bank) (h : Held) : Bool := decide (h.count ≤ k.fifo.length)

/-- The push or pop that a bank can serve becomes due. -/
def offerFifo (s : State) (cl b : Nat) : State :=
  let k := getBank s cl b
  let s := match firstPush k with
    | some h => if pushFits k h ∧ !s.agenda.contains (.fifoPushEntry cl b) then push s (.fifoPushEntry cl b) else s
    | none => s
  match firstPop k with
  | some h => if popFits k h ∧ !s.agenda.contains (.fifoPopRemove cl b) then push s (.fifoPopRemove cl b) else s
  | none => s

/-- A push or a pop reaches a bank. -/
def enterFifo (s : State) (cl b : Nat) (h : Held) : State :=
  offerFifo (updBank s cl b fun k => { k with held := k.held ++ [h] }) cl b

/-- An engine operation goes on after a FIFO access. -/
def resumeOp (s : State) (id : Nat) (f : EngineOp → EngineOp) : State :=
  match mfind s.ops id with
  | some op => push { s with ops := mset s.ops id (f { op with awaiting := false }) } (opEvent op.kind id)
  | none => s

/-- The first of a list that satisfies a test is removed. -/
def dropFirst {α : Type} (p : α → Bool) : List α → List α
  | [] => []
  | a :: t => if p a then t else a :: dropFirst p t

/-- FIFO_PUSH_ENTRY: the oldest waiting push enters the queue as one unit (R306). -/
def execFifoPushEntry (cl b : Nat) (s : State) : Host.Outcome State Fault Refusal :=
  let k := getBank s cl b
  .next (match firstPush k with
    | some h =>
      if pushFits k h ∧ fifoOpen s cl b then
        let s := setBank s cl b { k with fifo := k.fifo ++ h.entries, held := dropFirst (·.push) k.held }
        let s := match h.op with
          | some id => resumeOp s id fun op => { op with sent := op.sent + 1 }
          | none => updHolder s h.core h.ctx (isMember h.team h.num) fun g => { wokenGroup g with pushed := some g.pc }
        offerFifo s cl b
      else s
    | none => s)

/-- The slots that a pop writes receive their words (R307). -/
def popLanes (slots : List Nat) (es : List (List Int)) : List (Nat × Int) :=
  slots.map fun l => (l, ofNonets (((es.getD (l / 9) []).drop (3 * (l % 9))).take 3))

/-- Failing check trits move with the entries of a queue (R87): `n` entries leave. -/
def parityShift (l : List Nat) (n : Nat) : List Nat :=
  l.filterMap fun p => if p < 27 * n then none else some (p - 27 * n)

/-- FIFO_POP_REMOVE: the oldest waiting pop takes its entries as one unit (R307, R308); an entry whose check fails gives a
parity error (R87). -/
def execFifoPopRemove (cl b : Nat) (s : State) : Host.Outcome State Fault Refusal :=
  let k := getBank s cl b
  .next (match firstPop k with
    | some h =>
      if popFits k h ∧ fifoOpen s cl b then
        let es := k.fifo.take h.count
        let bad := k.parity.any fun p => decide (p < 27 * h.count)
        let s := setBank s cl b { k with fifo := k.fifo.drop h.count, held := dropFirst (fun h => !h.push) k.held
                                         parity := parityShift k.parity h.count }
        let s := match h.op with
          | some id => resumeOp s id fun op => { op with got := op.got ++ es, spoilt := op.spoilt || bad }
          | none =>
            match findHolder s h.core h.ctx (holdsPend h.id) with
            | none => s
            | some g =>
              match g.pending.find? fun p => p.id == h.id with
              | none => s
              | some p =>
                bindPending s h.core h.ctx h.id
                  (if bad then { fails := p.slots.map fun l => { slot := l, cause := 5 } }
                   else { lanes := popLanes p.slots es })
        offerFifo s cl b
      else s
    | none => s)

/-- An access of an engine operation to a bank: the operation waits. -/
def opFifo (s : State) (id : Nat) (op : EngineOp) (b : Nat) (h : Held) : State :=
  enterFifo { s with ops := mset s.ops id { op with awaiting := true } } (clusterOf op.core) b
    { h with op := some id, core := op.core, ctx := op.ctx }

/-- What waits at a bank that leaves FIFO mode is out of range (R70, R308): operations end with that status, a stalled
push takes the outcome at its bundle, a pending pop lands: 0 in its lanes and the lanes recorded under the suppress policy,
the scratchpad range trap under the other. -/
def expelHeld (s : State) (h : Held) : State :=
  match h.op with
  | some id => resumeOp s id fun op => { op with lost := true }
  | none =>
    if h.push then updHolder s h.core h.ctx (isMember h.team h.num) wokenGroup
    else match findHolder s h.core h.ctx (holdsPend h.id) with
      | none => s
      | some g =>
        match g.pending.find? fun p => p.id == h.id with
        | none => s
        | some p =>
          if g.r.suppress then
            bindPending (updHolder s h.core h.ctx (holdsPend h.id) fun g => markOob g p.slots) h.core h.ctx h.id
              { lanes := p.slots.map fun l => (l, 0) }
          else
            let t : Trap := { cls := 8, lanes := plainLanes p.slots, pc := g.pc, ret := g.pc }
            let g' := { g with pending := g.pending.filter fun q => q.id != h.id }
            match (getGroup s h.core h.ctx).map (holdsPend h.id) with
            | some true => raiseTrap (setGroup s h.core h.ctx g') h.core h.ctx t
            | _ => updHolder s h.core h.ctx (holdsPend h.id) fun _ => { g' with raised := g'.raised.or (some t) }

/-! ## The instructions -/

/-- The entries that a group pushes (R306). -/
def pushEntries (g : Group) (i : Issue) (v : VReg) : List (List Int) :=
  (List.range (g.width / 9)).map fun j =>
    (List.range 9).flatMap fun k =>
      toNonets 3 (if i.guard.contains (9 * j + k) then laneVal v g.items (9 * j + k) else 0)

/-- The out-of-range outcome of a bank that is not in settled FIFO mode (R305): `k` under the suppress policy. -/
def fifoRange (s : State) (i : Issue) (c : Nat) (g : Group) (k : State → State) : State :=
  if g.r.suppress then k (noteOob s i.core c i.guard) else raise s i 8 0 (plainLanes i.guard)

/-- `fpush` (R306). -/
def execFpush (a : Opd) (b : Nat) (s : State) : Host.Outcome State Fault Refusal :=
  engineOp s fun i c g s =>
    let n := ssrc s i a
    let cl := clusterOf i.core
    if n < 0 ∨ 107 < n then illegalOpcode s i
    else if g.pushed = some i.pc then updGroup s i.core c fun g => { g with pushed := none }
    else if !fifoOpen s cl n.toNat then fifoRange s i c g id
    else
      let es := pushEntries g i (mget (.u 0) (srcRegs s i).v b)
      let k := getBank s cl n.toNat
      let h : Held := { push := true, core := i.core, ctx := c, id := 0, team := g.team, num := g.num, entries := es }
      if (firstPush k).isNone ∧ pushFits k h then
        offerFifo (setBank s cl n.toNat { k with fifo := k.fifo ++ es }) cl n.toNat
      else enterFifo (stallIssue s i .push) cl n.toNat h

/-- `fpop` (R307). -/
def execFpop (d : Nat) (a : Opd) (s : State) : Host.Outcome State Fault Refusal :=
  engineOp s fun i c g s =>
    let n := ssrc s i a
    let cl := clusterOf i.core
    if n < 0 ∨ 107 < n then illegalOpcode s i
    else match destTrap s i c g d with
      | some t => t
      | none =>
        let pend (s : State) (l : Option Landing) : Nat × State :=
          addPending (setV s i d (.f (allLanes (mget (.u 0) g.r.v d) g.items g.width))) i.core c .other [.v d] i.guard l
        if !fifoOpen s cl n.toNat then
          fifoRange s i c g fun s => (pend s (some { lanes := i.guard.map fun l => (l, 0) })).2
        else
          let (id, s) := pend s none
          enterFifo s cl n.toNat { push := false, core := i.core, ctx := c, id := id, count := g.width / 9 }

end Sys2Proof.Machine
end

