-- ==== Sys2Proof/Machine/BankMode.lean ====
section
/-! DEFINITION. Bank modes: requests, conversions (03 R67 to R71; 09 R243). -/

namespace Sys2Proof.Machine

open Sys2Proof

/-- The mode in which bank `i` of a core is settled, or was before its conversion. -/
def bankSettled (c : Core) (i : Nat) : Int := if i < 27 then trit c.setlo i else trit c.sethi (i - 27)

/-- A request for bank `i` of a core (R70, R71): the bank leaves its old mode at once, what waits at a FIFO is out of range,
parked groups check again, and the conversion is due. A conversion under way takes the new target. -/
def requestBank (s : State) (core i : Nat) (m : Int) : State :=
  let c := getCore s core
  if bankWanted c i = m then s
  else
    let old := bankSettled c i
    let c := if i < 27 then { c with modelo := setTrits c.modelo i i m }
      else { c with modehi := setTrits c.modehi (i - 27) (i - 27) m }
    if c.busy.contains i then setCore s core c
    else
      let s := setCore s core { c with busy := c.busy ++ [i] }
      let cl := clusterOf core
      let b := 36 * coreInCluster core + i
      let s := if old = -1 then
          let hs := (getBank s cl b).held
          hs.foldl expelHeld (setBank s cl b {})
        else if old = 1 then wakeParked s cl
        else if old = 0 then l1DropWay s core i
        else s
      push s (.bankConversion core i)

/-- The trits written to a bank-mode register are requested one by one (R68, R70). -/
def writeBankMode (s : State) (core : Nat) (hi : Bool) (v : Int) : State :=
  if hi then (List.range 9).foldl (fun s i => requestBank s core (27 + i) (trit v i)) s
  else (List.range 27).foldl (fun s i => requestBank s core i (trit v i)) s

/-- BK_MODELO_WRITE: a write to `bk.modelo`, or to `bk.modehi` (R68, R70). -/
def execBkModeloWrite (core : Nat) (hi : Bool) (v : Int) (s : State) : Host.Outcome State Fault Refusal :=
  .next (writeBankMode s core hi v)

/-- BANK_CONVERSION: the bank is cleared and settles in the mode requested last (R70, R71). -/
def execBankConversion (core bank : Nat) (s : State) : Host.Outcome State Fault Refusal :=
  let c := getCore s core
  .next (if c.busy.contains bank then
      let m := bankWanted c bank
      let c := { c with busy := c.busy.filter (· ≠ bank) }
      let c := if bank < 27 then { c with setlo := setTrits c.setlo bank bank m }
        else { c with sethi := setTrits c.sethi (bank - 27) (bank - 27) m }
      let b := 36 * coreInCluster core + bank
      setBank (endBank (setCore s core c) (clusterOf core) b) (clusterOf core) b {}
    else s)

/-- May a group write the bank-mode registers? (R68) -/
def bankControl (s : State) (g : Group) : Bool := g.r.super || (launchTcb s g.lid).bankControl

/-- `bkmode` (R243). DESIGN CHOICE (log 32): the operand values are checked before the right to write the registers. -/
def execBkmode (a b : Opd) (s : State) : Host.Outcome State Fault Refusal :=
  engineOp s fun i _ g s =>
    let n := ssrc s i a
    let m := ssrc s i b
    if n < 0 ∨ 35 < n ∨ m < -1 ∨ 1 < m then illegalOpcode s i
    else if !bankControl s g then privilegeTrap s i
    else requestBank s i.core n.toNat m

end Sys2Proof.Machine
end

