-- ==== Sys2Proof/Machine/Binary.lean ====
section
/-! DEFINITION. The binary types of the shell and the conversions between them and the ternary formats
(01 R32 to R34; 10 R259). A pattern is a natural below `2^(8n)`. -/

namespace Sys2Proof.Machine

open Sys2Proof

/-- A binary type: two's complement or unsigned of some bytes, or floating with exponent and fraction bits (R32). -/
inductive BTy
  | sint (bytes : Nat)
  | uint (bytes : Nat)
  | flt (ebits mbits : Nat)
  deriving DecidableEq, Repr

/-- The type of a code (R259). -/
def btyOf (c : Nat) : BTy :=
  match c with
  | 0 => .sint 1
  | 1 => .sint 2
  | 2 => .sint 4
  | 3 => .uint 1
  | 4 => .uint 2
  | 5 => .uint 4
  | 6 => .flt 5 10
  | 7 => .flt 8 7
  | _ => .flt 8 23

/-- Bits of a pattern. -/
def btyBits : BTy → Nat
  | .sint n => 8 * n
  | .uint n => 8 * n
  | .flt e m => 1 + e + m

/-- A lane value read as a pattern (R259). -/
def patternOf (t : BTy) (x : Int) : Nat := (x % 2 ^ btyBits t).toNat

/-- What a pattern denotes. -/
inductive BVal
  | fin (x : Exact)
  | inf (neg : Bool)
  | nan
  deriving DecidableEq, Repr

/-- `m * 2^e` exactly. -/
def exact2 (m e : Int) : Exact :=
  if 0 ≤ e then { num := m * 2 ^ e.toNat } else { num := m, den := 2 ^ (-e).toNat }

/-- The exponent of the least place of a binary floating type. -/
def bqmin (eb mb : Nat) : Int := 2 - 2 ^ (eb - 1) - mb

/-- The value of a pattern (R32). -/
def bdecode (t : BTy) (p : Nat) : BVal :=
  match t with
  | .uint _ => .fin { num := p }
  | .sint n => .fin { num := if 2 * p < 2 ^ (8 * n) then p else (p : Int) - 2 ^ (8 * n) }
  | .flt eb mb =>
    let neg := decide (2 ^ (eb + mb) ≤ p)
    let e := p / 2 ^ mb % 2 ^ eb
    let m := p % 2 ^ mb
    let sg (x : Int) : Int := if neg then -x else x
    if e = 2 ^ eb - 1 then (if m = 0 then .inf neg else .nan)
    else if e = 0 then .fin (exact2 (sg m) (bqmin eb mb))
    else .fin (exact2 (sg ((m : Int) + 2 ^ mb)) (bqmin eb mb + (e - 1)))

/-- Conversion of a pattern into a ternary format; none is the range fault (R33). -/
def convertBin (b : BTy) (t : TFmt) (p : Nat) : Option FRes :=
  match bdecode b p, t with
  | .fin x, .int w =>
    let n := exactInt x
    if fits w n then some { enc := n, fl := { underflow := decide (n = 0) && decide (x.num ≠ 0) } } else none
  | .fin x, .flt f =>
    let r := froundWith f (fMax f) x
    if r.fl.overflow then none else some r
  | .inf neg, .flt f => if f.special then some { enc := fInf f neg } else none
  | .nan, .flt f => if f.special then some { enc := fNaN f } else none
  | _, .int _ => none

/-- Nearest natural to `n/d`, ties to even. -/
def nearEven (n d : Nat) : Nat :=
  let q := n / d
  if 2 * (n % d) > d ∨ (2 * (n % d) = d ∧ q % 2 = 1) then q + 1 else q

/-- `|x| / 2^e` as a fraction of naturals. -/
def fracAt2 (x : Exact) (e : Int) : Nat × Nat :=
  let nd := exactAt x 0
  if 0 ≤ e then (nd.1, nd.2 * 2 ^ e.toNat) else (nd.1 * 2 ^ (-e).toNat, nd.2)

/-- The exponent `e` with `2^e ≤ |x| < 2^(e+1)`, for nonzero `x`. -/
def log2Floor (x : Exact) : Int :=
  let nd := exactAt x 0
  let e : Int := (nd.1.log2 : Int) - nd.2.log2
  let fr := fracAt2 x e
  if fr.1 < fr.2 then e - 1 else e

/-- A finite value as a binary floating pattern: nearest, ties to even, infinity beyond the range (R34). A value that
rounds to zero gives +0. -/
def bround (eb mb : Nat) (x : Exact) : Nat :=
  if x.num = 0 then 0 else
    let q := max (log2Floor x - mb) (bqmin eb mb)
    let fr := fracAt2 x q
    let m := nearEven fr.1 fr.2
    if m = 0 then 0
    else
      let code := min ((q - bqmin eb mb).toNat * 2 ^ mb + m) ((2 ^ eb - 1) * 2 ^ mb)
      if x.num < 0 then 2 ^ (eb + mb) + code else code

/-- Conversion of a ternary value into a pattern; none is the range fault (R34). -/
def convertToBin (b : BTy) (v : FVal) : Option Nat :=
  match b, v with
  | .uint n, .fin m k =>
    let i := exactInt { num := m, exp := k }
    if 0 ≤ i ∧ i < 2 ^ (8 * n) then some i.toNat else none
  | .sint n, .fin m k =>
    let i := exactInt { num := m, exp := k }
    if -(2 ^ (8 * n - 1)) ≤ i ∧ i < 2 ^ (8 * n - 1) then some (i % 2 ^ (8 * n)).toNat else none
  | .flt eb mb, .fin m k => some (bround eb mb { num := m, exp := k })
  | .flt eb mb, .inf neg => some ((2 ^ eb - 1) * 2 ^ mb + if neg then 2 ^ (eb + mb) else 0)
  | .flt eb mb, .nan => some ((2 ^ eb - 1) * 2 ^ mb + 2 ^ (mb - 1))
  | _, _ => none

end Sys2Proof.Machine
end

