-- ==== Sys2Proof/Machine/Mask.lean ====
section
/-! DEFINITION. Compares and masks, and the conversions of lane values (10 R256 to R260). -/

namespace Sys2Proof.Machine

open Sys2Proof

/-- A function of one or two lane values, 0 elsewhere. -/
def lane1 (f : Int → Int) : List Int → Int
  | [a] => f a
  | _ => 0
def lane2 (f : Int → Int → Int) : List Int → Int
  | [a, b] => f a b
  | _ => 0

/-- The class of a T27 value (R256 `fcls`). -/
def fclsOf : FVal → Int
  | .nan => 1
  | .inf _ => -1
  | .fin _ _ => 0

/-- `cmp`: sign of the exact difference (R256). -/
def execCmpVector (d : Nat) (a b : Opd) (s : State) : Host.Outcome State Fault Refusal :=
  maskAlu s d [a, b] (lane2 fun a b => sgnv (a - b))
/-- `fcmp`: sign of the difference of T27 values, 0 for a NaN (R256). -/
def execFcmp (d : Nat) (a b : Opd) (s : State) : Host.Outcome State Fault Refusal :=
  maskAlu s d [a, b] (lane2 fun a b => fcmpV (t27 a) (t27 b))
/-- `fcls`: class of a T27 value (R256). -/
def execFcls (d : Nat) (a : Opd) (s : State) : Host.Outcome State Fault Refusal :=
  maskAlu s d [a] (lane1 fun a => fclsOf (t27 a))
/-- `sgn`: sign (R256). -/
def execSgnMask (d : Nat) (a : Opd) (s : State) : Host.Outcome State Fault Refusal :=
  maskAlu s d [a] (lane1 sgnv)
/-- `kmin`: smaller trit (R256). -/
def execKmin (d : Nat) (a b : Nat) (s : State) : Host.Outcome State Fault Refusal :=
  maskOp s d [a, b] (lane2 min)
/-- `kmax`: larger trit (R256). -/
def execKmax (d : Nat) (a b : Nat) (s : State) : Host.Outcome State Fault Refusal :=
  maskOp s d [a, b] (lane2 max)
/-- `kneg`: inverted trit (R256). -/
def execKneg (d : Nat) (a : Nat) (s : State) : Host.Outcome State Fault Refusal :=
  maskOp s d [a] (lane1 fun a => -a)
/-- `ksum`: sum modulo 3 (R256). -/
def execKsum (d : Nat) (a b : Nat) (s : State) : Host.Outcome State Fault Refusal :=
  maskOp s d [a, b] (lane2 fun a b => wrap 1 (a + b))
/-- `kmul`: product (R256). -/
def execKmul (d : Nat) (a b : Nat) (s : State) : Host.Outcome State Fault Refusal :=
  maskOp s d [a, b] (lane2 fun a b => a * b)

/-- `kval` (R256): the mask trit as a value; uniform in a range, form F in a group. -/
def execKval (d a : Nat) (s : State) : Host.Outcome State Fault Refusal :=
  inIssue s fun i s =>
    if i.guard = [] then s
    else match i.who with
      | .range _ => vwrite s i (.reg d false) (.u (maskTrit (srcRegs s i) a 0)) Flags.none
      | .group c =>
        match getGroup s i.core c with
        | none => s
        | some g => vwrite s i (.reg d false) (lanesOf g.width i.guard (maskTrit (srcRegs s i) a)) Flags.none

/-! ## Conversions -/

/-- The format of a code (R257); none where a format register is invalid. -/
def fmtOfCode (r : Regs) (c : Nat) : Option TFmt :=
  match c with
  | 0 => some (.int 27)
  | 1 => some (.int 9)
  | 2 => some (.flt fmtT27)
  | 3 => some (.flt fmtT18)
  | 4 => some (.flt fmtT9)
  | _ => (ffmtOf (mget 0 r.fm (c - 5))).map .flt

/-- `cvt` (R258); a format of itself copies the value and clears the trits above its width. -/
def execCvt (d : Dst) (a : Opd) (b : Int) (s : State) : Host.Outcome State Fault Refusal :=
  let f := ((b + 98) / 14).toNat
  let t := ((b + 98) % 14).toNat
  match s.issue with
  | none => .fault .noIssue
  | some i =>
    if i.guard = [] then .next s
    else match fmtOfCode (srcRegs s i) f, fmtOfCode (srcRegs s i) t with
      | some ff, some tf =>
        vectorAlu s d [a] noArm fun l =>
          if f = t then (wrap (tfmtWidth ff) (l.headD 0), Flags.none) else fres (convert tf (tdecode ff (l.headD 0)))
      | _, _ => .next (formatFault s i)

/-- Has the bundle in the slot been given up? -/
def gaveUp (s : State) : Bool := match s.issue with | some j => j.broke | none => false

/-- A conversion that may meet the range fault in a lane (R260): the checks of the destination first, as though every
participating lane wrote; then the lanes that convert are written, and the others are marked. -/
def rangeConv (s : State) (i : Issue) (d : Dst) (a : Opd) (f : Int → Option (Int × Flags)) : State :=
  match i.who with
  | .range _ =>
    let v := vsrc s i 0 a
    if vCasts a || !isU v then groupOnly s i fun _ _ => s
    else match f (uVal v) with
      | some r => vwrite s i d (.u r.1) r.2
      | none => raiseAfter s i 11 0 []
  | .group c =>
    match getGroup s i.core c with
    | none => s
    | some g =>
      let v := vsrc s i g.width a
      if isU v then
        match f (uVal v) with
        | some r => vwrite s i d (.u r.1) r.2
        | none =>
          let t := vwrite s i d (.u 0) Flags.none
          if gaveUp t then t else raiseAfter s i 11 0 (plainLanes i.guard)
      else
        let at_ (l : Nat) := f (laneVal v g.items l)
        let ok := i.guard.filter fun l => (at_ l).isSome
        let bad := i.guard.filter fun l => !(at_ l).isSome
        let t := vwrite s { i with guard := ok } d (lanesOf g.width ok fun l => ((at_ l).map (·.1)).getD 0)
          (allFlags (ok.map fun l => ((at_ l).map (·.2)).getD Flags.none))
        if bad = [] ∨ gaveUp t then t else raiseAfter t i 11 0 (plainLanes bad)

/-- The two conversions that cross to binary types: the selector gives type and format (R260). -/
def binConv (s : State) (d : Dst) (a : Opd) (b : Int) (f : BTy → TFmt → Int → Option (Int × Flags)) :
    Host.Outcome State Fault Refusal :=
  inIssue s fun i s =>
    if i.guard = [] then s
    else match fmtOfCode (srcRegs s i) ((b + 63) % 14).toNat with
      | some t => rangeConv s i d a (f (btyOf ((b + 63) / 14).toNat) t)
      | none => formatFault s i

/-- `frombin` (R33, R260). -/
def execFrombin (d : Dst) (a : Opd) (b : Int) (s : State) : Host.Outcome State Fault Refusal :=
  binConv s d a b fun y t x => (convertBin y t (patternOf y x)).map fres
/-- `tobin` (R34, R260). -/
def execTobin (d : Dst) (a : Opd) (b : Int) (s : State) : Host.Outcome State Fault Refusal :=
  binConv s d a b fun y t x => (convertToBin y (tdecode t x)).map fun p => ((p : Int), Flags.none)

end Sys2Proof.Machine
end

