-- ==== Sys2Proof/Machine/Matrix.lean ====
section
/-! DEFINITION. The matrix engine: operand reads, passes, drains, the absolute maximum (11 R285 to R295; 01 R29). -/

namespace Sys2Proof.Machine

open Sys2Proof

/-! ## Operand accesses of engines (R62, R282) -/

/-- Why an access of an operation failed: code and cause of R282, and the faulting address. -/
structure OpFail where
  code : Int
  cause : Int
  va : Int
  deriving DecidableEq, Repr

/-- Units of an engine access, translated page by page; `k` bounds the pages (R62). -/
def opUnits (x : XlCtx) (kind : AccKind) (binary : Bool) : Nat → Int → Nat → State → Except OpFail (List PUnit) × State
  | 0, _, _, s => (.ok [], s)
  | k + 1, a, n, s =>
    if n = 0 then (.ok [], s)
    else
      let m := min n (19683 - a % 19683).toNat
      match translate s x kind binary a m with
      | (.error f, s) => (.error ⟨-4, f.cause, a⟩, s)
      | (.ok us, s) =>
        match opUnits x kind binary k (a + m) (n - m) s with
        | (.ok r, s) => (.ok (us ++ r), s)
        | (.error f, s) => (.error f, s)
/-- The units of a run of `n`. -/
def opRun (s : State) (op : EngineOp) (kind : AccKind) (binary : Bool) (a : Int) (n : Nat) :
    Except OpFail (List PUnit) × State :=
  opUnits (opXl op) kind binary (n / 19683 + 2) a n s

/-- Nonets of a run that an engine reads, in memory or in the scratchpad. -/
def opRead (s : State) (op : EngineOp) (scratch : Bool) (a : Int) (n : Nat) : Except OpFail (List Int) × State :=
  if scratch then
    let cl := clusterOf op.core
    if !spFits s cl a n then (.error ⟨-6, 0, 0⟩, s)
    else if (List.range n).any fun j => spParity s cl (a + j) then (.error ⟨-5, 5, 0⟩, s)
    else let r := spSee s (opAgent op) 0 false false cl a n; (.ok r.1, r.2)
  else
    match opRun s op .eread false a n with
    | (.error f, s) => (.error f, s)
    | (.ok us, s) =>
      match readAs s (opAgent op) 0 false false us with
      | (.ok l, s) => (.ok l, s)
      | (.error c, s) => (.error ⟨-5, c, 0⟩, s)

/-- `n` consecutive pieces of `m` nonets. -/
def opReads (op : EngineOp) (scratch : Bool) (m : Nat) : Nat → Int → State → Except OpFail (List (List Int)) × State
  | 0, _, s => (.ok [], s)
  | n + 1, a, s =>
    match opRead s op scratch a m with
    | (.error f, s) => (.error f, s)
    | (.ok l, s) =>
      match opReads op scratch m n (a + m) s with
      | (.ok r, s) => (.ok (l :: r), s)
      | (.error f, s) => (.error f, s)

/-- Writes of an engine to a run of the scratchpad, with the presence trits of the blocks it finishes (R72). -/
def opSpWrite (s : State) (op : EngineOp) (a : Int) (l : List Int) (finished : List Int) : State :=
  let cl := clusterOf op.core
  let s := spPut s (opAgent op) 0 cl false a l
  wakeParked (presentBy s (opAgent op) cl (spAbsent s cl finished)) cl

/-! ## The order of the tiles (R285) -/

/-- Do two operations name a common tile? -/
def tilesMeet (a b : EngineOp) : Bool := decide (a.tile < b.tile + b.count) && decide (b.tile < a.tile + a.count)
/-- Has every operation accepted before this one that shares a tile with it been performed? -/
def tilesFree (s : State) (id : Nat) (op : EngineOp) : Bool :=
  ((getCluster s (clusterOf op.core)).mtable.takeWhile (· ≠ id)).all fun j =>
    match mfind s.ops j with
    | some o => !tilesMeet o op
    | none => true
/-- The accumulators of a tile, and a tile of values in their order. -/
def getTile (s : State) (cl t : Nat) : SMap Int := mget [] (getCluster s cl).tiles t
def setTile (s : State) (cl t : Nat) (v : List Int) : State :=
  updCluster s cl fun k => { k with tiles := mput [] k.tiles t ((v.zipIdx.filter fun p => p.1 != 0).map fun p => (p.2, p.1)) }
def tileVals (s : State) (cl t : Nat) : List Int := (List.range 6561).map fun j => mget 0 (getTile s cl t) j

/-! ## Passes -/

/-- The elements packed in blocks (R38, R287). -/
def blockElems (f : TFmt) (k : Nat) (bs : List (List Int)) : List FVal :=
  let w := tfmtWidth f
  (bs.flatMap fun b =>
    let x := ofNonets b
    (List.range (perBlock w)).map fun j => tdecode f (trits x ((j + 1) * w - 1) (j * w))).take k

/-- The positions that the metadata words of a column give, group by group; none where they do not rise (R288). -/
def metaPositions (per : Nat) (ws : List Int) : Option (List Nat) :=
  let idx (w : Int) : List Int := (List.range 9).map fun i => trits w (3 * i + 2) (3 * i)
  let groups := (List.range (ws.length / per)).map fun g => ((ws.drop (g * per)).take per).flatMap idx
  let rises (l : List Int) : Bool := (l.zip (l.drop 1)).all fun p => decide (p.1 < p.2)
  if groups.all rises then some (groups.zipIdx.flatMap fun p => p.1.map fun x => (27 * (p.2 : Int) + x + 13).toNat)
  else none

/-- A column with its stored values at their positions and 0 elsewhere (R288). -/
def expandCol : Nat → Nat → List (Nat × FVal) → List FVal
  | 0, _, _ => []
  | n + 1, k, l =>
    match l with
    | (p, v) :: t => if p = k then v :: expandCol n (k + 1) t else .fin 0 0 :: expandCol n (k + 1) l
    | [] => .fin 0 0 :: expandCol n (k + 1) []

/-- The sum of exact products and an accumulator in T54, rounded once (R29, R290). -/
def sumT54 (ps : List (Option FVal)) (acc : FVal) : FRes :=
  let l := acc :: ps.filterMap id
  let pos := l.contains (.inf false)
  let neg := l.contains (.inf true)
  if l.contains .nan then { enc := fNaN fmtT54 }
  else if ps.contains none ∨ (pos && neg) then finvalid fmtT54
  else if pos || neg then { enc := fInf fmtT54 neg }
  else fround fmtT54 (l.foldl addFin { num := 0 })

/-- The integer of a scaled integer value. -/
def fvInt : FVal → Int
  | .fin m k => m * 3 ^ k.toNat
  | _ => 0

/-- One step of R29 in a mode: the accumulator and the flags. -/
def passStep (mode : Int) (acc : Int) (l : List (FVal × FVal)) : Int × Flags :=
  if mode = 1 then
    let r := sumT54 (l.map fun p => fmulV p.1 p.2) (fdecode fmtT54 acc)
    (r.enc, r.fl)
  else
    let x := acc + (l.map fun p => fvInt p.1 * fvInt p.2).sum
    if mode = 2 then (wrap 54 x, Flags.none)
    else
      let n := if mode = 3 then 27 else 18
      (sat n x, { overflow := decide (sat n x ≠ x) })

/-- The steps of one accumulator, nine positions at a time (R29). -/
def passDot (mode : Int) : Nat → Int × Flags → List (FVal × FVal) → Int × Flags
  | 0, a, _ => a
  | n + 1, a, l =>
    if l = [] then a
    else
      let r := passStep mode a.1 (l.take 9)
      passDot mode n (r.1, a.2.or r.2) (l.drop 9)

/-- One tile: every row of A against every column of the panel (R290). -/
def passTile (mode : Int) (k : Nat) (old : List Int) (rows cols : List (List FVal)) : List Int × Flags :=
  let r := ((rows.flatMap fun a => cols.map fun b => a.zip b).zip old).map fun p =>
    passDot mode (k / 9 + 1) (p.2, Flags.none) p.1
  (r.map (·.1), allFlags (r.map (·.2)))

/-- A pass over its rows of A and columns of B: the staged tiles (R290). -/
def passFinish (s : State) (id : Nat) (op : EngineOp) (x : Int) (rows cols : List (List FVal)) : State :=
  let cl := clusterOf op.core
  let k := (trits x 223 215).toNat
  let tiles := (List.range op.count).map fun j =>
    passTile (trits x 236 234) k (tileVals s cl (op.tile + j)) rows ((cols.drop (81 * j)).take 81)
  let s := tiles.zipIdx.foldl (fun s p => setTile s cl (op.tile + p.2) p.1.1) s
  completeOp s id { op with flags := allFlags (tiles.map (·.2)) } (statusWord 0 0 1) 0

/-- An operation ends at a failing access, its row field given. -/
def failOp (s : State) (id : Nat) (op : EngineOp) (row : Int) (f : OpFail) : State :=
  completeOp s id op (statusWord row f.cause f.code) f.va
/-- An operation goes on in a step of its own. -/
def nextOp (s : State) (id : Nat) (op : EngineOp) : State := push { s with ops := mset s.ops id op } (opEvent op.kind id)
/-- A failing access is noted, with its row field. -/
def noteFail (op : EngineOp) (row : Int) (f : OpFail) : EngineOp := { op with fails := op.fails ++ [(row, f.code, f.cause, f.va)] }
/-- Which of the failing accesses a status names is not stated (R291, R295). -/
def endFails (s : State) (id : Nat) (op : EngineOp) : State :=
  match op.fails[Config.pick s.fresh % op.fails.length]? with
  | some f => failOp (tick s) id op f.1 ⟨f.2.1, f.2.2.1, f.2.2.2⟩
  | none => s

/-- The shape of a pass (R286): its formats, blocks to a row of A and to a column of B, metadata words to a column and to each
group of 27 positions. -/
structure PassShape where
  fa : TFmt
  fb : TFmt
  k : Nat
  ra : Nat
  rb : Nat
  words : Nat
  per : Nat
def passShape (x : Int) : Option PassShape :=
  let k := (trits x 223 215).toNat
  let per := (trits x 233 232).toNat
  let kb := if per = 0 then k else k * (9 * per) / 27
  match passFmt (trits x 214 212) (trits x 211 200), passFmt (trits x 199 197) (trits x 196 185) with
  | some fa, some fb =>
    some { fa := fa, fb := fb, k := k, ra := rowBlocks (tfmtWidth fa) k, rb := rowBlocks (tfmtWidth fb) kb
           words := k / 27 * per, per := per }
  | _, _ => none
/-- The metadata of column `q` is read and checked (R288). -/
def passMeta (s : State) (op : EngineOp) (x : Int) (p : PassShape) (q : Nat) : EngineOp × State :=
  match opReads op (decide (trit x 79 = 1)) 3 p.words (trits x 78 43 + 3 * p.words * q) s with
  | (.error e, s) => (noteFail op (324 + q) e, s)
  | (.ok ws, s) =>
    match metaPositions p.per (ws.map ofNonets) with
    | some l => ({ op with metas := op.metas ++ [l] }, s)
    | none => (noteFail op (324 + q) ⟨-3, 0, 0⟩, s)
/-- The operands of a pass that has read them all, row by row and column by column (R287, R288). -/
def passRows (op : EngineOp) (p : PassShape) : List (List FVal) :=
  (List.range 81).map fun i => blockElems p.fa p.k ((op.got.drop (i * p.ra)).take p.ra)
def passCols (op : EngineOp) (p : PassShape) : List (List FVal) :=
  let kb := if p.per = 0 then p.k else p.k * (9 * p.per) / 27
  let cs := (List.range (81 * op.count)).map fun q => blockElems p.fb kb ((op.more.drop (q * p.rb)).take p.rb)
  if p.per = 0 then cs else (op.metas.zip cs).map fun c => expandCol p.k 0 (c.1.zip c.2)

/-- One step of a pass whose turn it is (R62, R295): a row of A is read, or one entry of it popped; then the metadata of a column,
then a column of B; then the tiles are staged, or the pass ends with the failure of one of its accesses. -/
def passRun (s : State) (id : Nat) (op : EngineOp) : State :=
  let x := ofNonets op.block
  match passShape x with
  | none => s
  | some p =>
    let fifo := decide (trit x 184 = -1)
    let bank := (trits x 183 148).toNat
    let nA := if fifo then 0 else 81
    let nM := if p.per = 0 then 0 else 81 * op.count
    let r := op.row
    let step (q : EngineOp × State) : State := nextOp q.2 id { q.1 with row := r + 1 }
    if fifo ∧ op.spoilt then failOp s id op ((op.got.length - 1) / p.ra : Nat) ⟨-5, 5, 0⟩
    else if fifo ∧ op.got.length < 81 * p.ra then
      if op.lost ∨ !fifoOpen s (clusterOf op.core) bank then failOp s id op (op.got.length / p.ra : Nat) ⟨-6, 0, 0⟩
      else opFifo s id op bank { push := false, core := 0, ctx := 0, id := 0, count := 1 }
    else if r < nA then
      step (match opReads op (decide (trit x 184 = 1)) 27 p.ra (trits x 183 148 + 27 * trits x 147 139 * (r : Int)) s with
        | (.ok bs, s) => ({ op with got := op.got ++ bs }, s)
        | (.error e, s) => (noteFail op r e, s))
    else if r < nA + nM then step (passMeta s op x p (r - nA))
    else if r < nA + nM + 81 * op.count then
      let q := r - nA - nM
      step (match opReads op (decide (trit x 138 = 1)) 27 p.rb
          (trits x 137 102 + ((q / 81 : Nat) : Int) * trits x 92 80 + 27 * trits x 101 93 * ((q % 81 : Nat) : Int)) s with
        | (.ok bs, s) => ({ op with more := op.more ++ bs }, s)
        | (.error e, s) => (noteFail op (81 + q) e, s))
    else if op.fails = [] then passFinish s id op x (passRows op p) (passCols op p)
    else endFails s id op

/-- Has a pass begun no row of A that it has not ended? (R295) -/
def passBetween (op : EngineOp) : Bool :=
  match passShape (ofNonets op.block) with
  | some p => trit (ofNonets op.block) 184 != -1 || op.got.length % p.ra == 0
  | none => true
/-- MATRIX_PASS: a pass is performed in its turn, row by row; a cancelled one ends at its next row (R290, R295). -/
def execMatrixPass (op : Nat) (s : State) : Host.Outcome State Fault Refusal :=
  .next (match mfind s.ops op with
    | none => s
    | some o =>
      if o.awaiting then s
      else if o.cancelled && passBetween o then completeOp s op o (statusWord 0 0 (-7)) 0
      else if !tilesFree s op o then s
      else passRun s op o)

/-! ## Drains -/

/-- A word or a nonet for each column of a tile, with the failures of the reads. -/
def drainEntries (op : EngineOp) (scratch : Bool) (n : Nat) (base row : Int) (s : State) : List Int × EngineOp × State :=
  (List.range 81).foldl (fun (p : List Int × EngineOp × State) (c : Nat) =>
    match opRead p.2.2 op scratch (base + n * c) n with
    | (.ok l, s) => (p.1 ++ [ofNonets l], p.2.1, s)
    | (.error e, s) => (p.1, noteFail p.2.1 (row + c) e, s)) ([], op, s)

/-- One element of a drain: correction, multiplier, conversion (R291). -/
def drainElem (f : TFmt) (acc : FVal) (corr : Option Int) (mul : Option Int) : FRes :=
  let x : FVal := match corr, acc with
    | some d, .fin m k => let e := addExact m k (-d) 0; .fin e.num e.exp
    | _, v => v
  match mul with
  | none => convert f x
  | some m =>
    match fmulV x (fdecode fmtT9 m) with
    | some p => convert f p
    | none => let r := convert f .nan; { r with fl := r.fl.or { invalid := true } }

/-- Elements packed into the blocks of a row, spare trits 0 (R38). -/
def packRow (w : Nat) : Nat → List Int → List (List Int)
  | 0, _ => []
  | n + 1, l =>
    blockOf (((l.take (perBlock w)).zipIdx.map fun p => p.1 * 3 ^ (w * p.2)).sum) :: packRow w n (l.drop (perBlock w))

/-- The elements of row `i` of a drain (R291). -/
def drainVals (s : State) (op : EngineOp) (x : Int) (f : TFmt) (i : Nat) : List FRes :=
  let cl := clusterOf op.core
  let cs := op.more.getD 0 []
  let mus := op.more.getD 1 []
  let read (v : Int) : FVal := if trit x 236 = 1 then fdecode fmtT54 v else .fin v 0
  (List.range (81 * op.count)).map fun c =>
    drainElem f (read (mget 0 (getTile s cl (op.tile + c / 81)) (81 * i + c % 81)))
      (if trit x 156 = -1 then none else some (trits x 165 157 * cs.getD c 0))
      (if trit x 119 = -1 then none else some (mus.getD c 0))
/-- The greatest magnitude among values and one more row's, those that are not NaN (R292). -/
def drainMax (f : TFmt) (am : FVal) (row : List FRes) : FVal :=
  ((row.map fun r => tdecode f r.enc).filter (· ≠ .nan)).foldl (fun a v => fmaxV a (fvAbs v)) am
/-- The blocks of a row. -/
def drainBlocks (op : EngineOp) (f : TFmt) (row : List FRes) : List (List Int) :=
  packRow (tfmtWidth f) (rowBlocks (tfmtWidth f) (81 * op.count)) (row.map (·.enc))
/-- A drain with one more row written: its flags, the greatest magnitude. -/
def drainWritten (op : EngineOp) (f : TFmt) (row : List FRes) : EngineOp :=
  { op with got := [], sent := 0, row := op.row + 1, flags := op.flags.or (allFlags (row.map (·.fl))), am := drainMax f op.am row }

/-- One row's blocks written to memory or the scratchpad: translated as a whole before any is written. -/
def drainRow (s : State) (op : EngineOp) (scratch : Bool) (a : Int) (l : List Int) : Except OpFail State × State :=
  let cl := clusterOf op.core
  if scratch then
    if spFits s cl a l.length then (.ok (opSpWrite s op a l (spBlocks a l.length)), s) else (.error ⟨-6, 0, 0⟩, s)
  else
    match opRun s op .ewrite false a l.length with
    | (.ok us, s) => (.ok (writeAs s (opAgent op) (us.zip l)), s)
    | (.error f, s) => (.error f, s)

/-- The update of the absolute-maximum word (R292). -/
def drainAbsMax (s : State) (op : EngineOp) (a : Int) (am : FVal) : Option OpFail × State :=
  match translate s (opXl op) .atomic false a 3 with
  | (.error f, s) => (some ⟨-4, f.cause, a⟩, s)
  | (.ok us, s) =>
    match us with
    | [] => (none, s)
    | u :: _ =>
      let r := frameRegion (frameOf u.pa)
      if r < 1 ∨ 3 < r ∨ (u.attr.policy ≠ 0 ∧ u.attr.policy ≠ 1) then (some ⟨-8, 0, 0⟩, s)
      else
        let ag := opAgent op
        let us := us.map fun u => { u with attr := { u.attr with via := .home } }
        match readAs s ag 4 true true us with
        | (.error c, s) => (some ⟨-5, c, 0⟩, s)
        | (.ok l, s) =>
          (none, (gatherAll (us.zip (toNonets 3 (fput fmtT27 (fmaxV (t27 (ofNonets l)) am)).enc))).foldl
            (fun s w => writeBlockAs s ag 4 w true) s)

/-- The end of a drain whose rows are written: the absolute maximum, zeroing, completion. -/
def drainEnd (s : State) (id : Nat) (op : EngineOp) (x : Int) : State :=
  let cl := clusterOf op.core
  let done (s : State) : State :=
    let s := if trit x 227 = 1 then (List.range op.count).foldl (fun s j => setTile s cl (op.tile + j) []) s else s
    completeOp s id op (statusWord 0 0 1) 0
  if trit x 82 = 1 then
    match drainAbsMax s op (trits x 81 46) (fdecode fmtT27 (convert (.flt fmtT27) op.am).enc) with
    | (some e, s) => failOp s id op 81 e
    | (none, s) => done s
  else done s

/-- A step of a drain with a FIFO destination: the next row is computed, or one of its blocks pushed (R291). -/
def drainPush (s : State) (id : Nat) (op : EngineOp) (x : Int) (f : TFmt) : State :=
  let bank := (trits x 210 175).toNat
  let b := rowBlocks (tfmtWidth f) (81 * op.count)
  if op.lost ∨ !fifoOpen s (clusterOf op.core) bank then failOp s id op op.row ⟨-6, 0, 0⟩
  else if op.got = [] then nextOp s id { op with got := drainBlocks op f (drainVals s op x f op.row) }
  else if op.sent = b then nextOp s id (drainWritten op f (drainVals s op x f op.row))
  else opFifo s id op bank { push := true, core := 0, ctx := 0, id := 0, entries := (op.got.drop op.sent).take 1 }

/-- One step of a drain in its turn: the corrections of a tile, then the multipliers of a tile, then row after row (R291). `more`
holds the corrections and the multipliers read. -/
def drainRun (s : State) (id : Nat) (op : EngineOp) : State :=
  let x := ofNonets op.block
  let n := op.count
  let cs := op.more.getD 0 []
  let mus := op.more.getD 1 []
  let nc := if trit x 156 = -1 then 0 else n
  let nm := if trit x 119 = -1 then 0 else n
  let j := op.metas.length
  let step (q : EngineOp × State) : State := nextOp q.2 id { q.1 with metas := q.1.metas ++ [[]] }
  match drainFmt x with
  | none => s
  | some f =>
    if j < nc then
      let (l, op, s) := drainEntries op (decide (trit x 156 = 1)) 3 (trits x 155 120 + 243 * j) (82 + 81 * j) s
      step ({ op with more := [cs ++ l, mus] }, s)
    else if j < nc + nm then
      let i := j - nc
      let (l, op, s) := drainEntries op (decide (trit x 119 = 1)) 1 (trits x 118 83 + 81 * i) (325 + 81 * i) s
      step ({ op with more := [cs, mus ++ l] }, s)
    else if op.fails ≠ [] then endFails s id op
    else if op.row = 81 then drainEnd s id op x
    else if trit x 211 = -1 then drainPush s id op x f
    else
      let row := drainVals s op x f op.row
      match drainRow s op (decide (trit x 211 = 1)) (trits x 210 175 + 27 * trits x 174 166 * (op.row : Int))
          (drainBlocks op f row).flatten with
      | (.ok s, _) => nextOp s id (drainWritten op f row)
      | (.error e, s) => failOp s id op op.row e

/-- DRAIN: a drain, or a zeroing of tiles, is performed in its turn; a cancelled drain ends at its next row (R291, R293, R295). -/
def execDrain (op : Nat) (s : State) : Host.Outcome State Fault Refusal :=
  .next (match mfind s.ops op with
    | none => s
    | some o =>
      if o.awaiting then s
      else if o.kind != .zero && o.cancelled && o.sent == 0 then completeOp s op o (statusWord o.row 0 (-7)) 0
      else if !tilesFree s op o then s
      else if o.kind = .zero then
        completeOp ((List.range o.count).foldl (fun s j => setTile s (clusterOf o.core) (o.tile + j) []) s) op o
          (statusWord 0 0 1) 0
      else drainRun s op o)

end Sys2Proof.Machine
end

