-- ==== Sys2Proof/Machine/Search.lean ====
section
/-! DEFINITION. Nearest-neighbour search: posts, packets and descriptors, the traversal, probes, completion records and
the status read (05 R116 to R130; 11 R310, R311). -/

namespace Sys2Proof.Machine

open Sys2Proof

/-! ## Reads and writes on the search path (R125) -/

/-- The translation registers of a query; its accesses are made in the stack base dies (R62). -/
def qXl (q : Query) : XlCtx :=
  { die := dieOf q.core, via := .home, super := q.super, userOk := q.userOk, uroot := q.uroot, sroot := q.sroot, asid := q.asid }

/-- The agent of search operations (R94). -/
def searchAgent : Agent := { path := .search }
/-- A read of part of a block, or the failure. -/
def qPart (s : State) (q : Query) (a : Int) (n : Nat) : Except PAnswer (List Int) × State :=
  match translate s (qXl q) .eread false a n with
  | (.error f, s) => (.error (.fail (-4) f.cause a), s)
  | (.ok us, s) =>
    match readAs s searchAgent 0 false false us with
    | (.ok l, s) => (.ok l, s)
    | (.error _, s) => (.error (.fail (-5) 0 a), s)

/-- A read of `k` blocks from a block address. -/
def qBlocks (q : Query) : Nat → Int → State → Except PAnswer (List (List Int)) × State
  | 0, _, s => (.ok [], s)
  | k + 1, a, s =>
    match qPart s q a 27 with
    | (.error e, s) => (.error e, s)
    | (.ok l, s) =>
      match qBlocks q k (a + 27) s with
      | (.ok r, s) => (.ok (l :: r), s)
      | (.error e, s) => (.error e, s)

/-- A read of `n` words from an address that is a multiple of 3. -/
def qWords (q : Query) : Nat → Int → State → Except PAnswer (List Int) × State
  | 0, _, s => (.ok [], s)
  | n + 1, a, s =>
    match qPart s q a 3 with
    | (.error e, s) => (.error e, s)
    | (.ok l, s) =>
      match qWords q n (a + 3) s with
      | (.ok r, s) => (.ok (ofNonets l :: r), s)
      | (.error e, s) => (.error e, s)

/-- A write of nonets, translated as a whole before it is made; one that meets a failing check has the outcome of R400 and fails
(R128). -/
def qWrite (s : State) (q : Query) (a : Int) (l : List Int) : Option PAnswer × State :=
  match opUnits (qXl q) .ewrite false 3 a l.length s with
  | (.error f, s) => (some (.fail f.code f.cause f.va), s)
  | (.ok us, s) =>
    (if (gatherAll (us.zip l)).any (writeFails s) then some (.fail (-5) 0 a) else none, writeAs s searchAgent (us.zip l))

/-! ## The descriptor and the packet -/

/-- A field of a query's packet or descriptor. -/
def qPkt (q : Query) (hi lo : Nat) : Int := trits (ofNonets q.packet) hi lo
def qDesc (q : Query) (hi lo : Nat) : Int := trits (ofNonets q.desc) hi lo

/-- The element format that a format code and value name (R116). -/
def descFmt (code v : Int) : Option TFmt :=
  if code = 1 then (if v = 0 then some (.int 9) else none)
  else if code = 2 then (if v = 0 then some (.flt fmtT9) else none)
  else if code = 3 then (if v = 0 then some (.flt fmtT18) else none)
  else if code = 4 then (ffmtOf v).map .flt
  else none
/-- Is the exact method that of the format? (R122) -/
def exactFmt : TFmt → Bool
  | .int _ => true
  | .flt f => decide (f.e ≤ 4)

/-- Is the descriptor well formed under the format it names? (R116, R117) -/
def descOk (x : Int) (f : TFmt) : Bool :=
  let v := trits x 98 90
  let st := trits x 89 81
  let d := trits x 71 63
  let p := trits x 35 0
  let last := p + 27 * st * trits x 62 36 - 1
  isZero x 242 144 && (decide (trits x 143 135 = 1) || decide (trits x 143 135 = -1)) &&
  inRng x 98 90 0 728 && inRng x 89 81 1 729 && inRng x 80 72 1 243 && inRng x 71 63 1 2187 &&
  inRng x 62 36 1 (half 27) && isMul x 35 0 27 &&
  decide (3 * (trits x 80 72 + 1) ≤ 27 * v) && decide (v + (rowBlocks (tfmtWidth f) d.toNat : Nat) ≤ st) &&
  fits 36 last && decide ((p < 0) = (last < 0))

/-- Are the packet's own fields well formed? (R119) -/
def packetOk (x : Int) : Bool :=
  isZero x 224 217 && decide (trit x 216 ≠ -1) && inRng x 215 189 0 (half 27) && inRng x 179 171 1 81 &&
  inRng x 188 180 (trits x 179 171) 729 && inRng x 170 144 0 (half 27) && isMul x 143 108 27 && isMul x 107 72 27 &&
  isMul x 71 36 27 && isMul x 35 0 27

/-- The address of a node's record (R117). -/
def recordAt (q : Query) (n : Int) : Int := qDesc q 35 0 + 27 * qDesc q 89 81 * n

/-- The elements of a vector at a block address (R117). -/
def qVector (s : State) (q : Query) (f : TFmt) (a : Int) : Except PAnswer (List FVal) × State :=
  let d := (qDesc q 71 63).toNat
  match qBlocks q (rowBlocks (tfmtWidth f) d) a s with
  | (.error e, s) => (.error e, s)
  | (.ok bs, s) => (.ok (blockElems f d bs), s)

/-! ## Distances (R121, R122) -/

/-- An exact value as an element of the order. -/
def exactVal (x : Exact) : FVal := .fin x.num x.exp
/-- The difference of two finite elements. -/
def diffVal : FVal → FVal → FVal
  | .fin a i, .fin b j => exactVal (addExact a i (-b) j)
  | _, _ => .nan
/-- One term of a distance: the squared difference, or the negated product. -/
def distTerm (metric : Int) (a b : FVal) : FVal :=
  let sq (x y : FVal) : FVal := match x, y with | .fin m i, .fin n j => .fin (m * n) (i + j) | _, _ => .nan
  if metric = 1 then sq (diffVal a b) (diffVal a b) else sq (fvNeg a) b
/-- The exact sum of terms. -/
def distSum (l : List FVal) : Exact := l.foldl addFin { num := 0 }
/-- A block sum added to the accumulator in T54, with what the rounding raises (R26, R27). -/
def distAdd (acc : FVal × Flags) (b : Exact) : FVal × Flags :=
  match acc.1 with
  | .fin _ _ => let r := fround fmtT54 (addFin b acc.1); (fdecode fmtT54 r.enc, acc.2.or r.fl)
  | _ => acc
/-- Block sums added in the order in which their data arrives, which is not stated. -/
def distRounded : Nat → State → FVal × Flags → List Exact → (FVal × Flags) × State
  | 0, s, acc, _ => (acc, s)
  | n + 1, s, acc, l =>
    let j := Config.pick s.fresh % l.length
    match l[j]? with
    | some b => distRounded n (tick s) (distAdd acc b) (l.eraseIdx j)
    | none => (acc, s)
/-- Terms of the blocks of a vector. -/
def termBlocks (per : Nat) : Nat → List FVal → List (List FVal)
  | 0, _ => []
  | n + 1, l => if l = [] then [] else l.take per :: termBlocks per n (l.drop per)
/-- The distance of a vector from the query's, with the flags of a rounded one (R121, R122). -/
def distanceOf (s : State) (f : TFmt) (metric : Int) (a b : List FVal) : (FVal × Flags) × State :=
  let special (v : FVal) : Bool := match v with | .fin _ _ => false | _ => true
  if (a ++ b).any special then ((.nan, {}), s)
  else
    let ts := (a.zip b).map fun p => distTerm metric p.1 p.2
    if exactFmt f then ((exactVal (distSum ts), {}), s)
    else
      let bs := (termBlocks (perBlock (tfmtWidth f)) ts.length ts).map distSum
      distRounded bs.length s (.fin 0 0, {}) bs
/-- The T54 value that is reported (R123). -/
def distReport (d : FVal) : Int := (fput fmtT54 d).enc

/-- The order of R120: by distance, NaN last, then by identifier. -/
def distCmp (a b : FVal) : Int :=
  if a = .nan ∧ b = .nan then 0 else if a = .nan then 1 else if b = .nan then -1 else fcmpV a b
def better (a b : SNode) : Bool :=
  let c := distCmp a.dist b.dist
  decide (c < 0) || (decide (c = 0) && decide (a.node < b.node))
/-- A node enters the working list, best first. -/
def insertNode (n : SNode) : List SNode → List SNode
  | [] => [n]
  | h :: t => if better n h then n :: h :: t else h :: insertNode n t
/-- A node is offered to a working list of `L` nodes. -/
def offerNode (L : Nat) (n : SNode) (w : List SNode) : List SNode := (insertNode n w).take L

/-! ## Posting and the status read (R126, R310, R311) -/

/-- The queries that a team has posted and whose completion is outstanding. -/
def teamQueries (s : State) (t : Nat) : List (Nat × Query) := s.qrys.filter fun e => e.2.team == t

/-- `qpost` (R310). -/
def execQpost (d : Option Nat) (a : Nat) (s : State) : Host.Outcome State Fault Refusal :=
  engineOp s fun i c g s =>
    let r := getA s i a
    if r.scratch ∨ !regCheck { r with load := r.load && r.engine } .load r.ptr 27 then boundsAll s i r.ptr
    else if r.ptr % 27 ≠ 0 then
      raise s i 6 0 ((activeLanes g).map fun l => { slot := l, addr := r.ptr })
    else if (teamQueries s g.team).length ≥ 81 then stallIssue s i .engine
    else
      let (p, s) : Option Nat × State := match d with
        | some k => let (p, s) := addPending s i.core c .other [.s k] [] none; (some p, s)
        | none => (none, s)
      let (id, s) := newId s
      let r' := srcRegs s i
      let q : Query :=
        { core := i.core, ctx := c, team := g.team, lid := g.lid, addr := r.ptr, pend := p, super := r'.super
          userOk := r'.userOk, uroot := r'.uroot, sroot := r'.sroot, asid := r'.asid }
      let s := updTeam { s with qrys := mset s.qrys id q } g.team fun t => { t with outstanding := t.outstanding + 1 }
      push (updGroup s i.core c fun g => { g with ops := g.ops ++ [id] }) (.queryAccept id)

/-- The status word of a sequence number of a team (R311). -/
def qstatWord (s : State) (t : Nat) (n : Int) : Int :=
  match getTeam s t with
  | some tm => if 1 ≤ n then match mfind tm.queries n.toNat with | some w => 3 ^ 26 + w | none => 0 else 0
  | none => 0
/-- The completions that a sequence number of a team names (R107). -/
def qstatRel (s : State) (t : Nat) (n : Int) : List Nat :=
  match getTeam s t with
  | some tm => (mfind tm.queryRel n.toNat).toList
  | none => []
/-- `qstat` (R311); a status other than 0 is an acquire. -/
def execQstat (d : Option Nat) (a : Opd) (s : State) : Host.Outcome State Fault Refusal :=
  engineOp s fun i _ g s =>
    match d with
    | some n =>
      let v := qstatWord s g.team (ssrc s i a)
      setS (if trits v 8 0 = 0 then s else acquireStatus s i.core
        { scope := 4, mask := [.search, .core], meets := some (qstatRel s g.team (ssrc s i a)) }) i n v
    | none => s

/-! ## Acceptance -/

def setQuery (s : State) (id : Nat) (q : Query) : State := { s with qrys := mset s.qrys id q }

/-- Is a query the first of its team that is posted and not accepted, or the first that is not complete? -/
def firstOf (s : State) (id : Nat) (q : Query) (p : Query → Bool) : Bool :=
  s.qrys.all fun e => e.2.team != q.team || !p e.2 || decide (id ≤ e.1)

/-- Queries that one engine coordinates, and those that wait for it (R124). DESIGN CHOICE (log 83): a query whose traversal has ended is
no longer counted, though its record is yet to be written. -/
def coordinated (s : State) (h : Nat) : Nat := (s.qrys.filter fun e => e.2.st == .running && e.2.coord == h).length
def awaiting (s : State) (h : Nat) : List (Nat × Query) :=
  s.qrys.filter fun e => e.2.st == .waiting && e.2.turn != 0 && e.2.coord == h
/-- A query starts: the probe of the entry node, at which the query vector is read (R120). -/
def runQuery (s : State) (id : Nat) (q : Query) : State :=
  let e := qPkt q 170 144
  push (setQuery s id { q with st := .running, turn := 0, visited := [e], asked := [(e, none)] }) (.searchProbe id e.toNat)
/-- An accepted query starts where its coordinator has room and none waits before it, else it waits for its turn (R124). -/
def startQuery (s : State) (id : Nat) (q : Query) : State :=
  if coordinated s q.coord < 27 ∧ awaiting s q.coord = [] then runQuery s id q
  else
    let (n, s) := newId s
    setQuery s id { q with st := .waiting, turn := n }
/-- Where a coordinator has room, the query that has waited longest for it starts (R124). -/
def serveWaiting (s : State) (h : Nat) : State :=
  if coordinated s h < 27 then
    match (awaiting s h).find? fun e => (awaiting s h).all fun f => decide (e.2.turn ≤ f.2.turn) with
    | some e => runQuery s e.1 e.2
    | none => s
  else s

/-- The traversal of a query has ended: its completion is due when every earlier one of its team is done (R126, R129). -/
def endQuery (s : State) (id : Nat) (q : Query) (status cause addr : Int) : State :=
  serveWaiting (push (setQuery s id { q with st := .ended, status := status, cause := cause, faultAt := addr, asked := [], turn := 0 })
    (.queryCompletion id)) q.coord
/-- It has ended with a failure. -/
def failQuery (s : State) (id : Nat) (q : Query) : PAnswer → State
  | .fail code cause addr => endQuery s id q code cause addr
  | .dist _ => s

/-- The home of a node's record, which names the engine that serves it (R118, R124); 0 where it does not translate. DESIGN CHOICE
(log 58): a record in a host or peer window, which no stack is home of, has the home that its frame index would give. -/
def homeNode (s : State) (q : Query) (n : Int) : Nat × State :=
  match translate s (qXl q) .eread false (recordAt q n) 3 with
  | (.ok (u :: _), s) => (homeOf s (frameIndex (frameOf u.pa) * 243 + u.pa % 19683 / 81), s)
  | (_, s) => (0, s)

/-- The descriptor is read and checked, then the entry node and the exact requirement (R119). DESIGN CHOICE
(log 60): a descriptor whose format is invalid names no method, and the record's method trit is 0. -/
def acceptDesc (s : State) (id : Nat) (q : Query) : State :=
  match qPart s q (qPkt q 35 0) 27 with
  | (.error e, s) => failQuery s id q e
  | (.ok d, s) =>
    let q := { q with desc := d }
    let x := ofNonets d
    match descFmt (trits x 107 99) (trits x 134 108) with
    | none => endQuery s id q (-2) 0 0
    | some f =>
      let q := { q with method := if exactFmt f then 1 else 0 }
      if !descOk x f then endQuery s id q (-2) 0 0
      else if trits x 62 36 ≤ qPkt q 170 144 then endQuery s id q (-1) 0 0
      else if trit (ofNonets q.packet) 216 = 1 ∧ !exactFmt f then endQuery s id q (-6) 0 0
      else
        let (h, s) := homeNode s q (qPkt q 170 144)
        startQuery s id { q with coord := h }

/-- A sequence number enters the team's table of the 729 most recent (R311). -/
def noteQuery (tm : Team) (n : Int) (w : Int) : Team :=
  { tm with queries := (mset tm.queries n.toNat w).filter fun e =>
      decide ((n - (e.1 : Int)) % half 27 < 729) }

/-- A draining group whose post has been accepted may come to its end (R161). -/
def drainPosted (s : State) (q : Query) : State :=
  match getGroup s q.core q.ctx with
  | some g => if g.st = .draining ∧ g.team = q.team then push s (.drainingEnd q.core q.ctx) else s
  | none => s
/-- QUERY_ACCEPT: the posts of a team are accepted in order; the number lands, the packet is read and checked
(R119, R126). -/
def execQueryAccept (id : Nat) (s : State) : Host.Outcome State Fault Refusal :=
  .next (match mfind s.qrys id with
    | none => s
    | some q =>
      if q.st ≠ .posted then s
      else if !firstOf s id q (fun p => p.st == .posted) then push s (.queryAccept id)
      else match getTeam s q.team with
        | none => s
        | some tm =>
          let n := tm.nextSeq
          let s := setTeam s q.team
            { noteQuery tm n 0 with nextSeq := if n = half 27 then 1 else n + 1 }
          let s := bindStatus s q.core q.ctx q.pend n
          let q := { q with seq := n, st := .waiting }
          let s := drainPosted (setQuery s id q) q
          match qPart s q q.addr 27 with
          | (.error e, s) => failQuery s id q e
          | (.ok p, s) =>
            let q := { q with packet := p }
            if packetOk (ofNonets p) then acceptDesc s id q else endQuery s id q (-1) 0 0)

/-! ## The traversal (R120, R124) -/

/-- The query vector, which the coordinator reads once, at the start of the traversal (R120, R124). -/
def queryVector (s : State) (q : Query) (f : TFmt) : Except PAnswer (List FVal) × State :=
  if q.vec = [] then qVector s q f (qPkt q 71 36) else (.ok q.vec, s)
/-- SEARCH_PROBE: one node's vector is read and its distance computed; with the last answer the expansion is due. The first probe of a
query has its vector read. -/
def execSearchProbe (id node : Nat) (s : State) : Host.Outcome State Fault Refusal :=
  .next (match mfind s.qrys id with
    | none => s
    | some q =>
      match descFmt (qDesc q 107 99) (qDesc q 134 108) with
      | none => s
      | some f =>
        if q.st ≠ .running ∨ !(q.asked.any fun p => decide (p.1 = (node : Int)) && p.2.isNone) then s
        else match queryVector s q f with
        | (.error e, s) => failQuery s id q e
        | (.ok own, s) =>
          let (a, fl, s) : PAnswer × Flags × State :=
            match qVector s q f (recordAt q node + 27 * qDesc q 98 90) with
            | (.error e, s) => (e, {}, s)
            | (.ok v, s) => let r := distanceOf s f (qDesc q 143 135) own v; (.dist r.1.1, r.1.2, r.2)
          let q := { q with vec := own, flags := q.flags.or fl, asked := q.asked.map fun p => if p.1 = (node : Int) ∧ p.2.isNone then (p.1, some a) else p }
          let s := setQuery s id q
          if q.asked.all fun p => p.2.isSome then push s (.expansion id) else s)

/-- The answers of an expansion applied in the order of R120: the query with its list and its count of probes, and the
first failure. -/
def applyAnswers (L : Nat) : List (Int × Option PAnswer) → Query → Query × Option PAnswer
  | [], q => (q, none)
  | (n, some (.dist d)) :: t, q =>
    applyAnswers L t { q with probes := q.probes + 1, list := offerNode L { dist := d, node := n } q.list }
  | (_, some e) :: _, q => ({ q with probes := q.probes + 1 }, some e)
  | (_, none) :: t, q => applyAnswers L t q

/-- The neighbours to probe, in order: those not yet visited, up to the bound on the visited set; and whether it was met
(R120). -/
def newNodes (visited : List Int) : List Int → List Int → List Int × Bool
  | acc, [] => (acc, false)
  | acc, v :: t =>
    if visited.contains v || acc.contains v then newNodes visited acc t
    else if visited.length + acc.length ≥ 6561 then (acc, true)
    else newNodes visited (acc ++ [v]) t

/-- The best node that is not expanded. -/
def bestOpen (l : List SNode) : Option SNode := l.find? fun n => !n.expanded

/-- One node is expanded: its record is read and checked, and its neighbours are probed (R117, R120). -/
def expandNode (s : State) (id : Nat) (q : Query) (u : Int) : State :=
  let q := { q with expansions := q.expansions + 1
                    list := q.list.map fun n => if n.node = u then { n with expanded := true } else n }
  let a := recordAt q u
  match qWords q 1 a s with
  | (.error e, s) => failQuery s id q e
  | (.ok l, s) =>
    let c := l.getD 0 0
    if c < 0 ∨ qDesc q 80 72 < c then endQuery s id q (-3) 0 0
    else match qWords q c.toNat (a + 3) s with
      | (.error e, s) => failQuery s id q e
      | (.ok ids, s) =>
        if ids.any fun v => decide (v < 0) || decide (qDesc q 62 36 ≤ v) then endQuery s id q (-3) 0 0
        else
          let (ns, full) := newNodes q.visited [] ids
          let s := setQuery s id
            { q with asked := ns.map fun n => (n, none), visited := q.visited ++ ns, full := full }
          if ns = [] then push s (.expansion id) else ns.foldl (fun s n => push s (.searchProbe id n.toNat)) s

/-- EXPANSION: the answers change the working list; then the best open node is expanded, or the traversal ends (R120,
R128). DESIGN CHOICE (log 83): a query of an aborted launch ends with -7 where it would else end with +1, +2 or +3. -/
def execExpansion (id : Nat) (s : State) : Host.Outcome State Fault Refusal :=
  .next (match mfind s.qrys id with
    | none => s
    | some q =>
      if q.st ≠ .running ∨ q.asked.any fun p => p.2.isNone then s
      else
        let (q, bad) := applyAnswers (qPkt q 188 180).toNat q.asked q
        let q := { q with asked := [] }
        match bad with
        | some e => failQuery s id q e
        | none =>
          if q.cancelled || ((getLaunch s q.lid).map (·.aborting)).getD false then endQuery s id q (-7) 0 0
          else if q.full then endQuery s id q 3 0 0
          else match bestOpen q.list with
            | none => endQuery s id q 1 0 0
            | some u =>
              let x := qPkt q 215 189
              if 0 < x ∧ q.expansions = x then endQuery s id q 2 0 0 else expandNode s id q u.node)

/-! ## Completion (R126 to R129) -/

/-- The result entries from entry `i`, `n` of them; the first failure ends them. -/
def writeEntries (q : Query) : Nat → Nat → State → Option PAnswer × State
  | 0, _, s => (none, s)
  | n + 1, i, s =>
    let e : Int × Int := match q.list[i]? with
      | some v => (v.node, distReport v.dist)
      | none => (-1, fNaN fmtT54)
    match qWrite s q (qPkt q 107 72 + 9 * i) (toNonets 3 e.1 ++ toNonets 6 e.2) with
    | (some f, s) => (some f, s)
    | (none, s) => writeEntries q n (i + 1) s

/-- The completion record (R127). -/
def queryRecord (q : Query) (count : Int) : List Int :=
  blockOf (q.faultAt * 3 ^ 126 + qPkt q 242 225 * 3 ^ 108 + q.method * 3 ^ 99 + q.probes * 3 ^ 72 +
    q.expansions * 3 ^ 45 + count * 3 ^ 36 + q.status * 3 ^ 27 + q.seq)

/-- The completion record is written: a read of it observes the query's completion (R107, R129). -/
def recordWrite (s : State) (q : Query) (count : Int) : Option PAnswer × State :=
  publish s searchAgent 4 fun s => qWrite s q (qPkt q 143 108) (queryRecord q count)
/-- The frieze record of a write that failed (R128, R336 kind 4). DESIGN CHOICE (log 84): it names no core and no context, since what
posts it is an engine in a base die. -/
def queryFrieze (s : State) (q : Query) (status addr : Int) : State :=
  friezePost s (dieOf q.core) 4 (-1) (-1) addr q.seq status

/-- The flags that an operation has raised are set in its group, which may be saved (R28, R189). -/
def flagGroup (s : State) (core ctx id : Nat) (f : Flags) : State :=
  let mine (g : Group) : Bool := g.ops.contains id
  let put (g : Group) : Group := { g with r := orFlags g.r f, ops := g.ops.filter (· ≠ id) }
  updDie (updHolder s core ctx mine put) (dieOf core) fun d =>
    { d with shares := d.shares.map fun h =>
        { h with groups := h.groups.map fun e => if mine e.2.2 then (e.1, e.2.1, put e.2.2) else e } }
/-- The completion event of a query, which releases its accesses (R107, R129): its flags are set in its group (R28), its status is kept
for the status read, its place in the team's count and its coordinator's are freed. -/
def closeQuery (s : State) (id : Nat) (q : Query) (status cause : Int) : State :=
  let rel := s.fresh
  let s := releaseBy (flagGroup { s with qrys := mdel s.qrys id } q.core q.ctx id q.flags) searchAgent 4
  let s := updTeam s q.team fun tm =>
    let held := (mfind tm.queries q.seq.toNat).isSome
    { tm with outstanding := tm.outstanding - 1
              queryRel := if held && relHeld s rel then mset tm.queryRel q.seq.toNat rel else mdel tm.queryRel q.seq.toNat
              queries := if held then mset tm.queries q.seq.toNat (cause * 19683 + status) else tm.queries }
  let s := match (teamQueries s q.team).find? fun e => e.2.st == .ended with
    | some e => if s.agenda.contains (.queryCompletion e.1) then s else push s (.queryCompletion e.1)
    | none => s
  offerRetire (wakeEngine s (clusterOf q.core)) q.team

/-- QUERY_COMPLETION: the result entries and then the completion record, in the team's order (R126 to R129). The first failure that
the query has met stays its status (R128). DESIGN CHOICE (log 61): a query whose packet names no place for a record is recorded in
the frieze as one whose record could not be written. -/
def execQueryCompletion (id : Nat) (s : State) : Host.Outcome State Fault Refusal :=
  .next (match mfind s.qrys id with
    | none => s
    | some q =>
      if q.st ≠ .ended ∨ !firstOf s id q (fun _ => true) then s
      else
        let (bad, s) := if 0 < q.status then writeEntries q (qPkt q 179 171).toNat 0 s else (none, s)
        let (q, s) := match bad with
          | some (.fail code cause addr) =>
            ({ q with status := code, cause := cause, faultAt := addr }, queryFrieze s q code addr)
          | _ => (q, s)
        let count := if 0 < q.status then min (qPkt q 179 171) q.list.length else 0
        if q.packet = [] ∨ qPkt q 143 108 % 27 ≠ 0 then closeQuery (queryFrieze s q q.status q.faultAt) id q q.status q.cause
        else match recordWrite s q count with
          | (some (.fail code cause addr), s) =>
            let s := queryFrieze s q code addr
            if q.status < 0 then closeQuery s id q q.status q.cause else closeQuery s id q code cause
          | (_, s) => closeQuery s id q q.status q.cause)

end Sys2Proof.Machine
end

