-- ==== Sys2Proof/Machine/Copy.lean ====
section
/-! DEFINITION. The copy unit: block copies, copies into registers (11 R296 to R299; 03 R72, R88). -/

namespace Sys2Proof.Machine

open Sys2Proof

/-- Units read for a copy: a unit of a poisoned block has no value (R88, R297). -/
def copyReadGo (last : Option (Int × Attr × Except Nat (List Int))) :
    List PUnit → State → Except Nat (List (Option Int)) × State
  | [], s => (.ok [], s)
  | u :: t, s =>
    let b := u.pa / 27
    let (r, s) := match last with
      | some (b', a, r) => if b' = b ∧ a = u.attr then (r, s) else readBlock s b u.attr
      | none => readBlock s b u.attr
    let next (s : State) (v : Option Int) : Except Nat (List (Option Int)) × State :=
      match copyReadGo (some (b, u.attr, r)) t s with
      | (.ok l, s) => (.ok (v :: l), s)
      | (.error c, s) => (.error c, s)
    match r with
    | .ok l => next s (some (l.getD (u.pa % 27).toNat 0))
    | .error c => if c = 2 then next s none else (.error c, s)

/-- Where a row of a copy lies: units of memory, or a run of the scratchpad. -/
inductive Side
  | mem (us : List PUnit)
  | sp (a : Int) (n : Nat)
  deriving DecidableEq, Repr

/-- One side of a row, translated or checked. -/
def copySideAt (s : State) (op : EngineOp) (scratch : Bool) (kind : AccKind) (binary : Bool) (a : Int) (n : Nat) :
    Except OpFail Side × State :=
  if scratch then
    if spFits s (clusterOf op.core) a n then (.ok (.sp a n), s) else (.error ⟨-6, 0, 0⟩, s)
  else
    match opRun s op kind binary a n with
    | (.ok us, s) => (.ok (.mem us), s)
    | (.error f, s) => (.error f, s)

/-- Units read by a copy, as the last writes left them or as writes that it need not have seen found them (R98, R106). -/
def copyRead (s : State) (op : EngineOp) (us : List PUnit) : Except Nat (List (Option Int)) × State :=
  match copyReadGo none us s with
  | (.error c, s) => (.error c, s)
  | (.ok l, s) =>
    if us.all lateUnit then
      let r := seeLocs s (opAgent op) 0 false false ((us.zip l).map fun p =>
        { key := memKey p.1.pa, binary := p.1.attr.binary, val := p.2.getD 0 })
      (.ok ((l.zip r.1).map fun p => p.1.map fun _ => p.2), r.2)
    else (.ok l, s)
/-- The units of a side as the copy reads them. -/
def readSide (s : State) (op : EngineOp) : Side → Except OpFail (List (Option Int)) × State
  | .sp a n =>
    let cl := clusterOf op.core
    if (List.range n).any fun j => spParity s cl (a + j) then (.error ⟨-5, 5, 0⟩, s)
    else let r := spSee s (opAgent op) 0 false false cl a n; (.ok (r.1.map some), r.2)
  | .mem us =>
    match copyRead s op us with
    | (.ok l, s) => (.ok l, s)
    | (.error c, s) => (.error ⟨-5, c, 0⟩, s)
/-- What the units of a side hold. -/
def sideVals (s : State) (cl : Nat) : Side → List (Option Int)
  | .sp a n => (spReads s cl a n).map some
  | .mem us => match (copyReadGo none us s).1 with | .ok l => l | .error _ => us.map fun _ => none

/-- The places of a side (R93). -/
def sideKeys (cl : Nat) : Side → List Nat
  | .sp a n => (List.range n).map fun (j : Nat) => spKey cl (a + (j : Int))
  | .mem us => us.map fun u => memKey u.pa

/-- Where source and destination overlap, each place takes the value from before the copy or one that the copy wrote at
its source; which is not stated (R297). `cur` are the values after the rows written so far, `ks` the sources, `ds` the
destinations, `row` what this row has written. -/
def copyChoose : List (Option Int × Option Int) → List Nat → List Nat → List (Nat × Option Int) →
    State → List (Option Int) × State
  | (old, cur) :: t, k :: ks, d :: ds, row, s =>
    let (v, s) := if old = cur then (old, s) else (if Config.choice s.fresh then old else cur, tick s)
    let (v, s) := match row.find? fun p => p.1 == k with
      | some p => if p.2 = v then (v, s) else (if Config.choice s.fresh then v else p.2, tick s)
      | none => (v, s)
    let row := if ks.contains d then (d, v) :: row else row
    let (l, s) := copyChoose t ks ds row s
    (v :: l, s)
  | _, _, _, _, s => ([], s)

/-- A block is written poisoned (R88). -/
def markPoison (s : State) (b : Int) (at_ : Attr) : State :=
  placeAtom s b at_ false true { payload := rawPayload (atomAt s b), key := at_.key, epoch := keySeal s at_.key, poison := true }

/-- Units of a row written to memory: those without a value poison their blocks in regions +1 to +3; elsewhere, where
nothing can hold poison, what they leave is not stated. -/
def writeCopied (s : State) (op : EngineOp) (l : List (PUnit × Option Int)) : State :=
  let good := l.filterMap fun p => p.2.map fun v => (p.1, v)
  let bad := l.filter fun p => p.2.isNone
  let s := writeAs s (opAgent op) good
  bad.foldl (fun s p =>
    let r := frameRegion (frameOf p.1.pa)
    if 1 ≤ r ∧ r ≤ 3 then
      let b := p.1.pa / 27
      if (mergeSource s b p.1.attr).getD (atomAt s b).poison then s else markPoison s b p.1.attr
    else tick (writeAs s (opAgent op) [(p.1, wrap 9 (Config.word s.fresh))])) s

/-- The parameters of a block copy (R296). -/
structure CopyShape where
  len : Nat
  rows : Nat
  binary : Bool
  sspace : Int
  sbase : Int
  sstride : Int
  dspace : Int
  dbase : Int
  dstride : Int
  deriving DecidableEq, Repr
def copyShape (x : Int) : CopyShape :=
  { len := (trits x 227 218).toNat, rows := (trits x 217 209).toNat, binary := decide (trit x 228 = -1)
    sspace := trit x 208, sbase := trits x 207 172, sstride := trits x 171 159
    dspace := trit x 158, dbase := trits x 157 122, dstride := trits x 121 109 }
/-- The address of row `r` on a side. -/
def rowAddr (base stride : Int) (len r : Nat) : Int := base + r * stride * len

/-- Blocks of a scratchpad row that no later row touches (R72). -/
def lastBlocks (c : CopyShape) (r : Nat) : List Int :=
  (spBlocks (rowAddr c.dbase c.dstride c.len r) c.len).filter fun b =>
    (List.range (c.rows - r - 1)).all fun j =>
      !(spBlocks (rowAddr c.dbase c.dstride c.len (r + 1 + j)) c.len).contains b

/-- The units of row `r` from unit `part` on that are copied together: those that lie in one block of the destination. -/
def pieceLen (c : CopyShape) (r part : Nat) : Nat :=
  min (c.len - part) (27 - ((rowAddr c.dbase c.dstride c.len r + part) % 27).toNat)

/-- Values of row `r` written to their places of the destination, which is not a FIFO bank. -/
def copyPut (s : State) (op : EngineOp) (c : CopyShape) (r : Nat) (side : Side) (vs : List (Option Int)) : State :=
  match side with
  | .sp a n => opSpWrite s op a (vs.map fun v => v.getD 0) ((lastBlocks c r).filter (spBlocks a n).contains)
  | .mem us => writeCopied s op (us.zip vs)

/-- The values of `n` units of a source row from unit `part` on: those from before the copy, where it has overwritten them, or those
that stand there (R297). -/
def copyGet (s : State) (op : EngineOp) (c : CopyShape) (r part n : Nat) (dst : Option Side) :
    Except OpFail (List (Option Int)) × State :=
  let cl := clusterOf op.core
  match copySideAt s op (decide (c.sspace = 1)) .eread c.binary (rowAddr c.sbase c.sstride c.len r + part) n with
  | (.error f, s) => (.error f, s)
  | (.ok src, s) =>
    match readSide s op src with
    | (.error f, s) => (.error f, s)
    | (.ok cur, s) =>
      match dst with
      | none => (.ok cur, s)
      | some d =>
        let ks := sideKeys cl src
        let old := (ks.zip cur).map fun p => (mfind op.olds p.1).getD p.2
        let (l, s) := copyChoose (old.zip cur) ks (sideKeys cl d) [] s
        (.ok l, s)

/-- The lowest row in which a poisoned block was read. -/
def notePoison (op : EngineOp) (r : Nat) (vs : List (Option Int)) : EngineOp :=
  if vs.any (·.isNone) ∧ op.poisonRow.isNone then { op with poisonRow := some r } else op

/-- A copy ends after its last row (R282, R297). -/
def copyEnd (s : State) (id : Nat) (op : EngineOp) : State :=
  completeOp s id op (match op.poisonRow with | some r => statusWord r 2 (-5) | none => statusWord 0 0 1) 0

/-- A copy about to write keeps what its destination holds, where later reads of its own may meet it (R297). -/
def keepOld (s : State) (op : EngineOp) (c : CopyShape) (d : Side) : EngineOp :=
  let cl := clusterOf op.core
  if c.sspace = c.dspace then
    { op with olds := ((sideKeys cl d).zip (sideVals s cl d)).foldl (fun m p =>
        if (mfind m p.1).isSome then m else mset m p.1 p.2) op.olds }
  else op
/-- `n` more units of a row are done; the next row follows the last. -/
def copyOn (op : EngineOp) (c : CopyShape) (n : Nat) : EngineOp :=
  if op.part + n < c.len then { op with part := op.part + n } else { op with part := 0, got := [], row := op.row + 1 }
/-- The next units of a row go to memory or to the scratchpad; `get` gives their values. -/
def copyStep (s : State) (id : Nat) (op : EngineOp) (c : CopyShape)
    (get : State → Nat → Side → Except OpFail (List (Option Int)) × State) : State :=
  let r := op.row
  let n := pieceLen c r op.part
  match copySideAt s op (decide (c.dspace = 1)) .ewrite c.binary (rowAddr c.dbase c.dstride c.len r + op.part) n with
  | (.error f, s) => failOp s id op r f
  | (.ok d, s) =>
    match get s n d with
    | (.error f, s) => failOp s id op r f
    | (.ok vs, s) => nextOp (copyPut s op c r d vs) id (copyOn (keepOld s (notePoison op r vs) c d) c n)
/-- A step of a copy between memory and the scratchpad: the units of a block of the destination are read and written (R62, R297). -/
def copyRow (s : State) (id : Nat) (op : EngineOp) (c : CopyShape) : State :=
  if op.row = c.rows then copyEnd s id op
  else copyStep s id op c fun s n d => copyGet s op c op.row op.part n (some d)

/-- A step of a copy with a FIFO side: the entries of row `op.row` are popped or read one by one, then pushed, or written by blocks of
the destination (R62, R297, R299). -/
def copyFifo (s : State) (id : Nat) (op : EngineOp) (c : CopyShape) : State :=
  let cl := clusterOf op.core
  let n := c.len / 27
  let r := op.row
  let pop : Held := { push := false, core := 0, ctx := 0, id := 0, count := 1 }
  if op.spoilt then failOp s id op r ⟨-5, 5, 0⟩
  else if op.lost then failOp s id op r ⟨-6, 0, 0⟩
  else if r = c.rows then copyEnd s id op
  else if op.got.length < n then
    if c.sspace = -1 then
      if fifoOpen s cl c.sbase.toNat then opFifo s id op c.sbase.toNat pop else failOp s id op r ⟨-6, 0, 0⟩
    else
      match copyGet s op c r (27 * op.got.length) 27 none with
      | (.error f, s) => failOp s id op r f
      | (.ok vs, s) => nextOp s id { notePoison op r vs with got := op.got ++ [vs.map fun v => v.getD 0] }
  else if c.dspace = -1 then
    if op.sent = n then
      nextOp s id { op with got := [], sent := 0, row := r + 1 }
    else if fifoOpen s cl c.dbase.toNat then
      opFifo s id op c.dbase.toNat { pop with push := true, count := 0, entries := (op.got.drop op.sent).take 1 }
    else failOp s id op r ⟨-6, 0, 0⟩
  else copyStep s id op c fun s n _ => (.ok (((op.got.flatten.drop op.part).take n).map some), s)

/-- Does an earlier copy of the queue push to, or pop from, the same bank? (R299) -/
def copyWaits (s : State) (id : Nat) (op : EngineOp) : Bool :=
  let c := copyShape (ofNonets op.block)
  ((getCluster s (clusterOf op.core)).copyq.takeWhile (· ≠ id)).any fun j =>
    match mfind s.ops j with
    | some o =>
      let k := copyShape (ofNonets o.block)
      o.kind == .copy &&
      ((decide (c.sspace = -1) && decide (k.sspace = -1) && decide (k.sbase = c.sbase)) ||
       (decide (c.dspace = -1) && decide (k.dspace = -1) && decide (k.dbase = c.dbase)))
    | none => false

/-- Has a copy begun no row that it has not ended? (R295) -/
def copyBetween (op : EngineOp) : Bool :=
  op.part == 0 && if (copyShape (ofNonets op.block)).sspace = -1 then op.got.isEmpty else op.sent == 0
/-- BLOCK_COPY: a block copy goes on by a block, or by an entry of its FIFO bank; a cancelled one ends at its next row (R295, R297). -/
def execBlockCopy (op : Nat) (s : State) : Host.Outcome State Fault Refusal :=
  .next (match mfind s.ops op with
    | none => s
    | some o =>
      let c := copyShape (ofNonets o.block)
      if o.awaiting then s
      else if o.cancelled && copyBetween o then completeOp s op o (statusWord o.row 0 (-7)) 0
      else if copyWaits s op o then s
      else if c.sspace = -1 ∨ c.dspace = -1 then copyFifo s op o c
      else copyRow s op o c)

/-! ## Copies into registers (R298) -/

/-- The values of the slots that have been read. -/
def regCopyVals (slots : List Nat) (got : List (List Int)) : List (Nat × Int) :=
  ((slots.zip got).filter fun p => !p.2.isEmpty).map fun p => (p.1, ofNonets p.2)

/-- The pending register of the target group takes its values, or lands unchanged. -/
def landCopy (s : State) (core t num : Nat) (e : Nat × Group) (p : Pend) (reg : Nat) (vals : Option (List (Nat × Int))) : State :=
  let land (g : Group) : Group :=
    match vals with
    | none =>
      { g with pending := g.pending.filter fun q => q.id != p.id
               transit := g.transit.map fun t => { t with waits := t.waits.filter (· ≠ p.id) } }
    | some l =>
      if g.rolling || g.st == .draining then landDropped p { lanes := l } g
      else landGroup p { lanes := l } { g with r := { g.r with
        v := mput (.u 0) g.r.v reg (.f (allLanes (mget (.u 0) g.r.v reg) g.items g.width)) } }
  rollDue (afterLanding (updHolder s core e.1 (isMember t num) land) core e.1) core e.1

/-- COPY_INTO_REGISTERS: the slots are read one by one, in ascending order, and the first that fails ends the copy (R62, R298). The
values land in every occupied slot at once, just before completion, in the shadow bank where the target stands there (R192). -/
def execCopyIntoRegisters (op : Nat) (s : State) : Host.Outcome State Fault Refusal :=
  .next (match mfind s.ops op with
    | none => s
    | some o =>
      let x := ofNonets o.block
      let reg := (trits x 108 100).toNat
      let num := (trits x 99 95).toNat
      let mine (p : Pend) : Bool := p.kind == .copy && p.regs.contains (.v reg)
      match (teamHolders s o.team).find? fun e => e.2.num == num && e.2.pending.any mine with
      | none => completeOp s op o (statusWord 0 0 (-1)) 0
      | some e =>
        match e.2.pending.find? mine with
        | none => completeOp s op o (statusWord 0 0 (-1)) 0
        | some p =>
          let land (s : State) := landCopy s o.core o.team num e p reg
          let there (l : Nat) : Bool := (occupied e.2).contains l || e.2.transit.any fun t => t.slot == l
          if o.cancelled then completeOp (land s none) op o (statusWord 0 0 (-7)) 0
          else match p.slots[o.got.length]? with
            | none => completeOp (land s (some ((regCopyVals p.slots o.got).filter fun v => there v.1))) op o (statusWord 0 0 1) 0
            | some l =>
              if !there l then nextOp s op { o with got := o.got ++ [[]] }
              else
                match opRead s o (decide (trit x 208 = 1)) (trits x 207 172 + l * trits x 171 159) (trits x 94 92).toNat with
                | (.ok v, s) => nextOp s op { o with got := o.got ++ [v] }
                | (.error f, s) => failOp (land s none) op o l f)

end Sys2Proof.Machine
end

