-- ==== Sys2Proof/Machine/Control.lean ====
section
/-! DEFINITION. Transfers of control, cuts, joins, exit, markers and the restart address (09 R224 to R235; 06 R139 to R147,
R152, R157, R161). -/

namespace Sys2Proof.Machine

open Sys2Proof

/-! ## Divergent transfers (R152, R157, R224) -/

/-- Items in ascending box order. -/
def insertPos (e : Nat × Bool × Stored) : List (Nat × Bool × Stored) → List (Nat × Bool × Stored)
  | [] => [e]
  | h :: t => if e.2.2.pos < h.2.2.pos then e :: h :: t else h :: insertPos e t
def sortPos (l : List (Nat × Bool × Stored)) : List (Nat × Bool × Stored) := l.foldr insertPos []

/-- The path with the most lanes; a tie goes to the one ranked first (R152). -/
def majority : List (Int × List Nat) → Option (Int × List Nat)
  | [] => none
  | p :: t =>
    match majority t with
    | none => some p
    | some q => if q.2.length ≤ p.2.length then some p else some q

/-- What is known of some slots, in ascending slot (R332). -/
def bySlot (gone : List Nat) (f : Nat → Option Int) : List (Nat × Int) :=
  (List.range 81).filterMap fun l => if gone.contains l then (f l).map fun t => (l, t) else none
/-- The minority lanes become empty slots and their items enter the spawn store, or stay in transit; none where the store
or the team's pool has no room (R152, R153). -/
def spawnPaths (s : State) (core ctx : Nat) (g : Group) (paths : List (Int × List Nat)) : Option State :=
  match majority paths, getTeam s g.team with
  | some m, some tm =>
    let minor := paths.filter fun p => p.1 ≠ m.1
    let items := sortPos (minor.flatMap fun p => p.2.filterMap fun l =>
      (mfind g.items l).map fun it => (l, laneWaits g l != [], storedOf s core g l it p.1))
    let c := getCore s core
    if storeUsed c + items.length > 729 then none
    else
      match placeItems (items.map (·.2)) c.builds tm.pool s.nextId with
      | none => none
      | some (bs, pool, next) =>
        let gone := items.map (·.1)
        let g := { g with
          items := g.items.filter fun e => !gone.contains e.1
          active := g.active.filter fun l => !gone.contains l
          transit := g.transit ++ (items.filter (·.2.1)).map fun e =>
            { slot := e.1, it := e.2.2, waits := laneWaits g e.1 }
          stepSpawn := if g.stepping then bySlot gone fun l => (items.find? fun e => e.1 == l).map (·.2.2.target) else []
          pc := m.1 }
        let s := { s with nextId := next }
        let s := updCore s core fun c => { c with builds := bs }
        let s := setTeam s g.team { tm with pool := pool, spawned := true }
        some (buildDue (setGroup s core ctx (setRestart g m.1)) core)
  | _, _ => none

/-- The reconvergence address: the highest start among the paths (R225). -/
def reconvergence (paths : List (Int × List Nat)) : Int := paths.foldl (fun a p => max a p.1) (paths.head?.map (·.1) |>.getD 0)

/-- A divergent branch in no-spawn mode: an entry is pushed and the first path runs (R157). -/
def pushPaths (s : State) (i : Issue) (ctx : Nat) (g : Group) (paths : List (Int × List Nat)) : State :=
  match paths with
  | [] => s
  | p :: t =>
    if g.mstack.length ≥ 27 then raiseAll s i 10
    else setGroup s i.core ctx
      { g with mstack := { saved := g.active, reconv := reconvergence paths, paths := t } :: g.mstack
               pc := p.1, active := p.2 }

/-- The paths of a transfer, in the order of R224: the active lanes with each target, targets without lanes left out. -/
def mergePaths : List (Int × List Nat) → List (Int × List Nat)
  | [] => []
  | p :: t =>
    let r := mergePaths t
    if p.2 = [] then r
    else match r.find? fun q => q.1 == p.1 with
      | some q => (p.1, (List.range 81).filter fun l => p.2.contains l || q.2.contains l) :: r.filter fun q => q.1 != p.1
      | none => p :: r

/-- A transfer of control: each lane of the guard goes to its target, the other active lanes go on in sequence; a target
that is not a multiple of 6 raises the illegal-opcode trap (R195, R224, R226). A range goes as a whole (R197). -/
def transfer (s : State) (i : Issue) (targets : List (Int × List Nat)) : State :=
  match i.who with
  | .range _ =>
    match targets.find? fun p => p.2 != [] with
    | some p => if p.1 % 6 ≠ 0 then illegalOpcode s i else setPc s i.core i.who p.1
    | none => s
  | .group c =>
    match getGroup s i.core c with
    | none => s
    | some g =>
      let rest := (activeLanes g).filter fun l => !i.guard.contains l
      let ps := mergePaths (targets ++ [(i.pc + 6, rest)])
      if ps.any fun p => p.1 % 6 != 0 then illegalOpcode s i
      else match ps with
        | [] => s
        | [p] => setPc s i.core i.who p.1
        | _ =>
          if g.nospawn then pushPaths s i c g ps
          else match spawnPaths s i.core c g ps with
            | some s => s
            | none => pushPaths s i c g ps

/-- The address a displacement names (R200). -/
def targetOf (i : Issue) (d : Int) : Int := i.pc + 6 * d

/-- `br`: a guarded branch (R227). -/
def execBr (b : Int) (s : State) : Host.Outcome State Fault Refusal :=
  scalarOp s fun i s => transfer s i [(targetOf i b, i.guard)]

/-- `loop` (R228): the counter falls by one, and the branch is taken while it is above 0. -/
def execLoop (d : Nat) (b : Int) (s : State) : Host.Outcome State Fault Refusal :=
  scalarOp s fun i s =>
    let v := wrap 27 (mget 0 (srcRegs s i).s d - 1)
    let t := transfer (setS s i d v) i (if 0 < v then [(targetOf i b, i.guard)] else [(i.pc + 6, i.guard)])
    match t.issue with
    | some j => if j.broke then transfer s i (if 0 < v then [(targetOf i b, i.guard)] else [(i.pc + 6, i.guard)]) else t
    | none => t

/-- `jmp` (R229). -/
def execJmp (tz : Int) (s : State) : Host.Outcome State Fault Refusal :=
  scalarOp s fun i s => transfer s i [(targetOf i tz, i.guard)]

/-- A register that names an address and permits nothing (R229 `call`). -/
def linkReg (p : Int) : AReg := { ptr := p, base := p, limit := p }

/-- `call` (R229). -/
def execCall (c : Nat) (tz : Int) (s : State) : Host.Outcome State Fault Refusal :=
  scalarOp s fun i s =>
    let t := transfer (setA s i c (linkReg (i.pc + 6))) i [(targetOf i tz, i.guard)]
    match t.issue with
    | some j => if j.broke then transfer s i [(targetOf i tz, i.guard)] else t
    | none => t

/-- `ret` (R229). -/
def execRet (a : Nat) (s : State) : Host.Outcome State Fault Refusal :=
  scalarOp s fun i s => transfer s i [((getA s i a).ptr, i.guard)]

/-! ## Cuts of a range (R141, R231) -/

/-- Values of `b + k * x` for `x` from `lo` to `hi` whose sign is `sg`, as an interval; empty where its first end is
above its second (R141). -/
def signInterval (b k lo hi sg : Int) : Int × Int :=
  if k < 0 then signPos (-b) (-k) lo hi (-sg) else signPos b k lo hi sg
where
  /-- For a stride above 0. -/
  signPos (b k lo hi sg : Int) : Int × Int :=
    if sg < 0 then (lo, min hi ((-b - 1) / k))
    else if 0 < sg then (max lo (-b / k + 1), hi)
    else if b % k = 0 then (max lo (-b / k), min hi (-b / k)) else (1, 0)

/-- The number of positions below `p` in a box of rows `X` and planes `X * Y` whose coordinate of dimension `d`, counted
from the box's edge, lies from `a` to `a + n - 1` (R132). -/
def countBelow (X Y : Int) (d : Nat) (a n p : Int) : Int :=
  let clamp (v hi : Int) := max 0 (min v hi)
  match d with
  | 0 => p / X * n + clamp (p % X - a) n
  | 1 => p / (X * Y) * (X * n) + clamp (p % (X * Y) - a * X) (n * X)
  | _ => clamp (p - a * (X * Y)) (n * (X * Y))

/-- A box restricted in one dimension. -/
def restrictBox (b : Box) (d : Nat) (lo hi : Int) : Box :=
  match d with
  | 0 => { b with x0 := lo, x1 := hi }
  | 1 => { b with y0 := lo, y1 := hi }
  | _ => { b with z0 := lo, z1 := hi }
/-- The interval of a box in a dimension. -/
def boxSpan (b : Box) (d : Nat) : Int × Int :=
  match d with
  | 0 => (b.x0, b.x1)
  | 1 => (b.y0, b.y1)
  | _ => (b.z0, b.z1)

/-- The piece of a range whose index of dimension `d` lies in an interval; none where no item of its run does (R141). -/
def cutPiece (q : Range) (d : Nat) (lo hi : Int) : Option Range :=
  if hi < lo then none
  else
    let c (p : Int) := countBelow (boxX q.box) (boxY q.box) d (lo - (boxSpan q.box d).1) (hi - lo + 1) p
    if c q.p0 = c (q.p1 + 1) then none
    else some { q with box := restrictBox q.box d lo hi, p0 := c q.p0, p1 := c (q.p1 + 1) - 1 }

/-- The dimension, base and stride under which a register can cut a box: one nonzero stride, and no value of the box's
interval wraps (R141). -/
def cutLine (q : Range) : VReg → Option (Nat × Int × Int)
  | .a b sx sy sz =>
    let go (d : Nat) (k : Int) :=
      let sp := boxSpan q.box d
      if fits27 (b + k * sp.1) && fits27 (b + k * sp.2) then some (d, b, k) else none
    if sx ≠ 0 ∧ sy = 0 ∧ sz = 0 then go 0 sx
    else if sx = 0 ∧ sy ≠ 0 ∧ sz = 0 then go 1 sy
    else if sx = 0 ∧ sy = 0 ∧ sz ≠ 0 then go 2 sz
    else none
  | _ => none

/-- The pieces of a cut with their signs, in the order -, 0, + (R141). -/
def cutPieces (q : Range) (v : VReg) : Option (List (Int × Range)) :=
  match cutLine q v with
  | none => none
  | some (d, b, k) =>
    some ([-1, 0, 1].filterMap fun sg =>
      let iv := signInterval b k (boxSpan q.box d).1 (boxSpan q.box d).2 sg
      (cutPiece q d iv.1 iv.2).map fun r => (sg, r))

/-- The free entries of a core's range table, ascending. -/
def freeEntries (c : Core) : List Nat := (List.range 27).filter fun e => (mfind c.ranges e).isNone

/-- A range is divided: the first piece takes its entry and the others free entries; none where too few are free, or where
the register does not cut (R141). -/
def cutRange (s : State) (core e : Nat) (q : Range) (v : VReg) (f : Int → Range → Range) : Option State :=
  match cutPieces q v with
  | none => none
  | some ps =>
    let es := e :: freeEntries (getCore s core)
    if es.length < ps.length then none
    else some ((ps.zip es).foldl (fun s p => setRange s core p.2 (f p.1.1 p.1.2)) s)

/-- Lanes of the guard by the sign of their value. -/
def lanesBySign (g : Group) (i : Issue) (v : VReg) (sg : Int) : List Nat :=
  i.guard.filter fun l => sgnv (laneVal v g.items l) == sg

/-- `br3` (R230): each lane takes the target of the sign of its value; a running range cuts, or casts. -/
def execBr3 (c : Nat) (tn tz tp : Int) (s : State) : Host.Outcome State Fault Refusal :=
  inIssue s fun i s =>
    if i.guard = [] then s
    else
      let tgt (sg : Int) := targetOf i (if sg < 0 then tn else if sg = 0 then tz else tp)
      let v := mget (.u 0) (srcRegs s i).v c
      match i.who with
      | .group x =>
        match getGroup s i.core x with
        | none => s
        | some g => transfer s i ([-1, 0, 1].map fun sg => (tgt sg, lanesBySign g i v sg))
      | .range e =>
        if isU v then transfer s i [(tgt (sgnv (uVal v)), i.guard)]
        else match getRange s i.core e with
          | none => s
          | some q =>
            match cutRange s i.core e q v fun sg p => { p with pc := tgt sg } with
            | some t => if [-1, 0, 1].any fun sg => tgt sg % 6 != 0 then illegalOpcode s i else t
            | none => groupOnly s i fun _ _ => s

/-- `br3s` (R230): a uniform value; a range goes on without a cut. -/
def execBr3s (c : Nat) (tn tz tp : Int) (s : State) : Host.Outcome State Fault Refusal :=
  scalarOp s fun i s =>
    if inRange i && sCasts (.reg c) then groupOnly s i fun _ _ => s
    else
      let v := ssrc s i (.reg c)
      transfer s i [(targetOf i (if v < 0 then tn else if v = 0 then tz else tp), i.guard)]

/-- `cut` (R231): the sign into a mask; a range is divided, or casts. -/
def execCut (d a : Nat) (s : State) : Host.Outcome State Fault Refusal :=
  scalarOp s fun i s =>
    let v := mget (.u 0) (srcRegs s i).v a
    match i.who with
    | .group x =>
      match getGroup s i.core x with
      | none => s
      | some g => setMask s i d (i.guard.map fun l => (l, sgnv (laneVal v g.items l)))
    | .range e =>
      if isU v then setMask s i d [(0, sgnv (uVal v))]
      else match getRange s i.core e with
        | none => s
        | some q =>
          match cutRange s i.core e q v fun sg p => { p with r := { p.r with k := mput (.u 0) p.r.k d (.u sg) } } with
          | some t => t
          | none => groupOnly s i fun _ _ => s

/-! ## Joins and exit -/

/-- A range at a join waits for its family (R146). -/
def rangeJoin (s : State) (i : Issue) (e : Nat) : State :=
  updRange s i.core e fun r => { r with st := .atJoin }

/-- `join` (R232). -/
def execJoin (s : State) : Host.Outcome State Fault Refusal :=
  scalarOp s fun i s =>
    match i.who with
    | .range e => rangeJoin s i e
    | .group _ => s

/-- The registers from `n` upward become uniform 0 (R147). -/
def dropRegs (r : Regs) (n : Nat) : Regs := { r with v := r.v.filter fun e => decide (e.1 < n) }

/-- `join.d` (R147, R232): a group clears its registers from the live count upward and waits for its team. DESIGN CHOICE (log 70): a
register that a load is still to land in is cleared at once, and the landing finds it in form U and is lost; the spec does not say
whether the join waits. -/
def execJoinD (a : Opd) (s : State) : Host.Outcome State Fault Refusal :=
  scalarOp s fun i s =>
    let v := ssrc s i a
    if inRange i && sCasts a then groupOnly s i fun _ _ => s
    else if v < 0 ∨ 243 < v then illegalOpcode s i
    else match i.who with
      | .range e => rangeJoin s i e
      | .group c =>
        match getGroup s i.core c with
        | none => s
        | some g =>
          if (g.r.v.filter fun e => decide (v.toNat ≤ e.1)).any fun e => !handlerAllows g e.1 (.u 0) then
            doubleFault (breakIssue s i) i.core c 2 i.pc
          else
            push (setGroup s i.core c
              { g with r := dropRegs g.r v.toNat, st := .stalled, wait := some (.join v.toNat) })
              (.teamDissolve g.team)

/-- `exit` (R233): the items of the guard retire; a range retires with all its items. -/
def execExit (s : State) : Host.Outcome State Fault Refusal :=
  scalarOp s fun i s =>
    match i.who with
    | .range e => delRange s i.core e
    | .group c =>
      match getGroup s i.core c with
      | none => s
      | some g =>
        updTeam (setGroup s i.core c
          { g with items := g.items.filter fun e => !i.guard.contains e.1
                   active := g.active.filter fun l => !i.guard.contains l }) g.team fun t => { t with exited := true }

/-! ## Markers (R188, R234, R235) -/

/-- The share of a launch on a die. -/
def findShare (s : State) (die lid : Nat) : Option Share := (getDie s die).shares.find? fun h => h.lid == lid
def updShare (s : State) (die lid : Nat) (f : Share → Share) : State :=
  updDie s die fun d => { d with shares := d.shares.map fun h => if h.lid = lid then f h else h }
/-- Is a pre-emption request pending for the share? (R188) -/
def requested (s : State) (die lid : Nat) : Bool :=
  match findShare s die lid with
  | some h => h.requested
  | none => false
/-- Does a range of a launch of a kind stand on the die casting, its teams waiting for room? (R143) -/
def castsWait (s : State) (die : Nat) (f : Nat → Bool) : Bool :=
  (List.range 81).any fun c => (getCore s (81 * die + c)).ranges.any fun e => e.2.st == .casting && f e.2.lid
/-- Does another launch wait for the die: saved, not yet placed, in a packet, with a range that waits to cast, or for co-residency?
DEDUCED (log 69): a launch in a packet of kinds 1 to 3 waits for the die that the packet is sent to (R193). -/
def dieWanted (s : State) (die lid : Nat) : Bool :=
  let d := getDie s die
  d.shares.any (fun h => h.lid != lid && h.saved) || d.offers.any (fun o => o.lid != lid) ||
  (d.mail ++ d.senders ++ d.chain).any (fun p => p.lid != lid && decide (p.kind ≤ 3)) ||
  castsWait s die (fun l => l != lid) || coWaits s die fun l => l != lid
/-- A request under R188; the groups and ranges stop where they may. -/
def requestShare (s : State) (die lid : Nat) : State :=
  push (updShare s die lid fun h => { h with requested := true }) (.shareSave die lid)

/-- A safe-point marker (R188): with a request pending the group stops at it, and a range casts. -/
def safePoint (s : State) (i : Issue) : State :=
  let lid := whoLid s i.core i.who
  if requested s (dieOf i.core) lid then
    groupOnly s i fun c _ =>
      push (updGroup (breakIssue s i) i.core c fun g => { g with stopped := true, st := .stalled })
        (.shareSave (dieOf i.core) lid)
  else s

/-- `safe` (R234). -/
def execSafe (s : State) : Host.Outcome State Fault Refusal := scalarOp s fun i s => safePoint s i

/-- `yield` (R234): in a bulk launch, with another launch waiting for the die, the request is made first. -/
def execYield (s : State) : Host.Outcome State Fault Refusal :=
  scalarOp s fun i s =>
    let lid := whoLid s i.core i.who
    let die := dieOf i.core
    if (launchTcb s lid).serving ∨ !dieWanted s die lid ∨ requested s die lid then safePoint s i
    else safePoint (requestShare s die lid) i

/-- `region` (R235): the restart address is the next bundle's. -/
def execRegion (s : State) : Host.Outcome State Fault Refusal := scalarOp s fun _ s => noteRestart s

end Sys2Proof.Machine
end

