-- ==== Sys2Proof/Machine/Teams.lean ====
section
/-! DEFINITION. Landings, moves of items, groups of the former, casts, merging, dissolving, draining and the retirement of
teams (06 R142 to R162; 08 R208). -/

namespace Sys2Proof.Machine

open Sys2Proof

/-! ## Landings and moves -/

/-- A status word that is an acquire is one as it lands (R65, R107, R245). -/
def landAcquire (s : State) (core : Nat) (l : Landing) : State :=
  match l.acq with
  | some a => acquireStatus s core a
  | none => s
/-- A landing in a group (R208, R313): its values are discarded where the group drains or rolls back (R161, R321). -/
def landIn (s : State) (core ctx : Nat) (p : Pend) (l : Landing) : State :=
  match getGroup s core ctx with
  | none => s
  | some g =>
    if g.rolling then
      rollDue (afterLanding (setGroup s core ctx (landDropped p l g)) core ctx) core ctx
    else if g.st = .draining then afterLanding (setGroup s core ctx (landDropped p l g)) core ctx
    else
      let s := setGroup s core ctx (landGroup p l g)
      afterLanding (landFails s core ctx p l.fails) core ctx

/-- What a landing makes of a displaced group. -/
def landDisplaced (p : Pend) (l : Landing) (g : Group) : Group :=
  if g.rolling || g.st == .draining then landDropped p l g else landGroup p l g
/-- Does an earlier load or atomic of its group land before this one? DEDUCED (log 92): a group's loads and atomics land in the order
of their bundles, as R378 step 3 has it ("`v3` landed before `s6` could"). -/
def landsLater (g : Group) (p : Pend) : Bool :=
  (p.kind == .load || p.kind == .atomic) &&
  (g.pending.takeWhile (·.id ≠ p.id)).any fun q => (q.kind == .load || q.kind == .atomic) && q.land.isSome
/-- VALUE_LANDING: the value of a pending destination lands; in the shadow bank where its group stands there, a failing one of a group
that takes its values when that group is back (R192). One that lands after another (`landsLater`) stays due. -/
def execValueLanding (core ctx id : Nat) (s : State) : Host.Outcome State Fault Refusal :=
  .next (match findHolder s core ctx (holdsPend id) with
    | none => s
    | some h =>
      match h.pending.find? fun p => p.id == id with
      | none => s
      | some p =>
        match p.land with
        | none => s
        | some l =>
          if landsLater h p then push s (.valueLanding core ctx id) else
          let inCtx := match getGroup s core ctx with | some g => holdsPend id g && !g.displaced | none => false
          if inCtx then landIn (landAcquire s core l) core ctx p l
          else if l.fails ≠ [] && !h.rolling && h.st != .draining then s
          else updHolder (landAcquire s core l) core ctx (holdsPend id) (landDisplaced p l))

/-- A group without items, pending paths or items in transit drains (R155, R161). -/
def checkDrain (s : State) (core ctx : Nat) : State :=
  match getGroup s core ctx with
  | none => s
  | some g =>
    if g.items = [] ∧ g.transit = [] ∧ g.st ≠ .draining ∧ g.st ≠ .reserved then startDraining s core ctx else s

/-- ITEM_MOVE: an item in transit whose destinations have landed enters the spawn store, but for a halted group's (R153, R155,
R326). -/
def execItemMove (core ctx slot : Nat) (s : State) : Host.Outcome State Fault Refusal :=
  .next (match getGroup s core ctx with
    | none => s
    | some g =>
      match g.transit.find? fun t => t.slot == slot && t.waits == [] with
      | none => s
      | some t =>
        if g.st = .halted ∨ g.displaced then s
        else
        let s := setGroup s core ctx { g with transit := g.transit.filter fun u => u.slot != slot }
        checkDrain (enterStore s core { t.it with since := (getDie s (dieOf core)).cycle }) core ctx)

/-! ## The former (R154) -/

/-- Does a group wait in one of the ways that let the former issue early? -/
def groupWaits (g : Group) : Bool :=
  g.st == .halted || match g.wait with
    | some (.barrier ..) => true
    | some (.join _) => true
    | some .park => true
    | _ => false

/-- Is a build to be issued now: full, or every other group of its team waits? (R154) -/
def buildReady (s : State) (core : Nat) (b : Build) : Bool :=
  match b.items.head? with
  | none => false
  | some it =>
    decide (it.width ≤ b.items.length) ||
    ((getCore s core).groups ++ shadowGroups (getCore s core)).all fun e =>
      e.2.team != b.team || e.2.st == .reserved || groupWaits e.2

/-- FORMER_GROUP_ISSUE. -/
def execFormerGroupIssue (core build : Nat) (s : State) : Host.Outcome State Fault Refusal :=
  .next (match (getCore s core).builds.find? fun b => b.id == build with
    | none => s
    | some b => if buildReady s core b then issueBuild s core build else s)

/-- FORMER_ISSUE_TIMEOUT: 729 cycles after its first item entered the store (R154). -/
def execFormerIssueTimeout (core build : Nat) (s : State) : Host.Outcome State Fault Refusal :=
  .next (match (getCore s core).builds.find? fun b => b.id == build with
    | none => s
    | some b =>
      if b.items.any fun it => decide (it.since + 729 ≤ (getDie s (dieOf core)).cycle) then issueBuild s core build else s)

/-- Builds of a core that are to be issued become due. -/
def offerBuilds (s : State) (core : Nat) : State :=
  (getCore s core).builds.foldl (fun s b =>
    if buildReady s core b ∧ !s.agenda.contains (.formerGroupIssue core b.id) then push s (.formerGroupIssue core b.id)
    else s) s

/-- Stored items for which the team's pool has a context again are taken into builds (R154). -/
def refill (s : State) (core t : Nat) : State :=
  (getCore s core).store.foldl (fun s it =>
    if it.team = t then
      enterStore (updCore s core fun c => { c with store := dropFirst' (fun o => decide (o = it)) c.store }) core it
    else s) s
where
  /-- Without the first that satisfies a test. -/
  dropFirst' (p : Stored → Bool) : List Stored → List Stored
    | [] => []
    | a :: t => if p a then t else a :: dropFirst' p t

/-! ## Casting (R142 to R144, R156) -/

/-- The contexts, storage and team slot that a team of `n` items needs are free (R143). -/
def teamFits (s : State) (core : Nat) (h : Header) (n : Nat) : Bool :=
  let c := getCore s core
  decide (groupCount h n + h.spawn ≤ (freeCtxs c).length) && decide (teamStorage h n ≤ fileFree c) &&
  decide ((teamsOn s core).length < 27)

/-- The registers of a cast group: those of its range, with the masks of lanes that no access has marked, and of the trap
registers the handler and frame addresses alone (R74, R143, R315). -/
def castRegs (r : Regs) : Regs := { r with oob := [], tr := { vec := r.tr.vec, fp := r.tr.fp } }

/-- Group `j` of a team of `n` items from position `p0` (R142). -/
def castGroup (s : State) (core t lid : Nat) (h : Header) (box : Box) (p0 : Int) (n j : Nat) (r : Regs) (pc : Int) :
    Group :=
  let m := min h.w (n - j * h.w)
  let role := roleOf h j
  setRestart
    { st := .ready, lid := lid, team := t, num := j, role := role, width := h.w, nf := roleRegs h role
      storage := laneRegs (roleRegs h role) h.w
      items := (List.range m).map fun (l : Nat) => (l, boxItem box (p0 + ((j * h.w + l : Nat) : Int)))
      active := List.range m, pc := pc, nospawn := h.nospawn, r := castRegs r, paid := (getDie s (dieOf core)).trialG } pc

/-- A team of `n` items from position `p0` is cast: its groups, its pool, its slot (R143, R148, R156). -/
def castTeam (s : State) (core lid : Nat) (h : Header) (box : Box) (p0 : Int) (n family : Nat) (r : Regs) (pc : Int) :
    State :=
  let (t, s) := newId s
  let k := groupCount h n
  let xs := freeCtxs (getCore s core)
  let pool := (xs.drop k).take h.spawn
  let s := setTeam s t
    { core := core, lid := lid, number := wrap 27 (Config.teamOffset lid + t), box := box, p0 := p0, family := family
      size := n, castGroups := k, pool := pool }
  let s := (List.range k).foldl (fun s j =>
    holdGroup s core (xs.getD j 0) (castGroup s core t lid h box p0 n j r pc)) s
  pool.foldl (fun s x => holdGroup s core x { lid := lid, team := t, width := h.w, storage := poolRegs h }) s

/-- Is a range the first that casts on its core? (R143) -/
def firstCaster (s : State) (core e : Nat) (q : Range) : Bool :=
  (getCore s core).ranges.all fun o =>
    o.2.st != .casting || decide (q.castAt < o.2.castAt) || (decide (q.castAt = o.2.castAt) && decide (e ≤ o.1))

/-- An entry of a core's range table has become free: the plinth offers its shares again, and restores what is saved (R178,
R193). -/
def entryFreed (s : State) (core : Nat) : State :=
  let d := dieOf core
  if ((getDie s d).offers.any (fun o => o.core == core) ∨ (getDie s d).shares.any (·.saved)) ∧
      !s.agenda.contains (.plinth d) then push s (.plinth d) else s

/-- For a serving launch that finds no room on a die the bulk share with the most group contexts is requested, of several the
latest; one request at a time (R188, R191). -/
def requestBulk (s : State) (die lid : Nat) : State :=
  let count (l : Nat) : Nat :=
    ((List.range 81).map fun c => ((getCore s (81 * die + c)).groups.filter fun e => e.2.lid == l).length).sum
  let bulk := (getDie s die).shares.filter fun h => h.lid != lid && !h.saved && !(launchTcb s h.lid).serving
  match bulk with
  | [] => s
  | h :: t =>
    if bulk.any (·.requested) then s
    else
      let best := t.foldl (fun (a : Share) b =>
        if count a.lid < count b.lid ∨ (count a.lid = count b.lid ∧ a.begun < b.begun) then b else a) h
      requestShare s die best.lid

/-- Co-resident launches that wait are considered again (R180). -/
def pokeCoResident (s : State) : State :=
  s.launches.foldl (fun s e =>
    if e.2.castAll ∧ e.2.st = .queued ∧ !s.agenda.contains (.coResidencyCast e.1) then push s (.coResidencyCast e.1)
    else s) s

/-- TEAM_CAST: the range that casts first casts its next team where the core can hold it (R143); a serving launch that finds no
room has a bulk share requested (R191). -/
def execTeamCast (core entry : Nat) (s : State) : Host.Outcome State Fault Refusal :=
  .next (match getRange s core entry with
    | none => s
    | some q =>
      let h := launchHdr s q.lid
      let left := (q.p1 - q.p0 + 1).toNat
      let n := min h.T left
      if q.st ≠ .casting ∨ !firstCaster s core entry q ∨ !teamFits s core h n then
        (if q.st = .casting ∧ !teamFits s core h n ∧ (launchTcb s q.lid).serving then requestBulk s (dieOf core) q.lid else s)
      else
        let s := castTeam s core q.lid h q.box q.p0 n q.family q.r q.pc
        if left ≤ n then offerCast (entryFreed (delRange s core entry) core) core
        else push (setRange s core entry { q with p0 := q.p0 + (n : Int) }) (.teamCast core entry))

/-! ## Merging (R145, R146) -/

/-- Is the register state of two contexts identical? (R145) -/
def sameState (a b : Regs) : Bool :=
  decide (a.v = b.v) && decide (a.s = b.s) && decide (a.a = b.a) && decide (a.k = b.k) && decide (a.fm = b.fm) &&
  a.suppress == b.suppress && a.super == b.super && a.userOk == b.userOk && decide (a.uroot = b.uroot) &&
  decide (a.sroot = b.sroot) && decide (a.asid = b.asid)

/-- Does a run cover its box? -/
def wholeRun (q : Range) : Bool := decide (q.p0 = 0) && decide (q.p1 = boxSize q.box - 1)
/-- Is `b` next above `a` in dimension `d`, or for `d = 3` the next run of the same box? (R145) -/
def nextTo (d : Nat) (a b : Range) : Bool :=
  match d with
  | 0 => wholeRun a && wholeRun b && decide (b.box = { a.box with x0 := a.box.x1 + 1, x1 := b.box.x1 })
  | 1 => wholeRun a && wholeRun b && decide (b.box = { a.box with y0 := a.box.y1 + 1, y1 := b.box.y1 })
  | 2 => wholeRun a && wholeRun b && decide (b.box = { a.box with z0 := a.box.z1 + 1, z1 := b.box.z1 })
  | _ => decide (a.box = b.box) && decide (a.p1 + 1 = b.p0)
/-- The union of two adjacent ranges. -/
def unite (d : Nat) (a b : Range) : Range :=
  let box := match d with
    | 0 => { a.box with x1 := b.box.x1 }
    | 1 => { a.box with y1 := b.box.y1 }
    | 2 => { a.box with z1 := b.box.z1 }
    | _ => a.box
  { a with box := box, p0 := if d < 3 then 0 else a.p0, p1 := if d < 3 then boxSize box - 1 else b.p1
           r := { a.r with sticky := a.r.sticky.or b.r.sticky } }
/-- The launch position of the lowest item of a range. -/
def firstItem (t : Tcb) (q : Range) : Int :=
  let i := boxItem q.box q.p0
  i.x + t.nx * (i.y + t.ny * i.z)
/-- The pair that merges next in dimension `d`: of the ranges at one join with identical state, the adjacent pair with the
lowest item. -/
def mergePair (t : Tcb) (d : Nat) (rs : List (Nat × Range)) : Option ((Nat × Range) × (Nat × Range)) :=
  let ps := rs.flatMap fun a => rs.filterMap fun b =>
    if a.1 ≠ b.1 ∧ a.2.pc = b.2.pc ∧ nextTo d a.2 b.2 ∧ sameState a.2.r b.2.r then some (a, b) else none
  ps.foldl (fun m p =>
    match m with
    | none => some p
    | some q => if firstItem t p.1.2 < firstItem t q.1.2 then some p else some q) none
/-- One merge after another, along `ix` first. -/
def mergeAll (t : Tcb) (core : Nat) (pick : State → List (Nat × Range)) : Nat → State → State
  | 0, s => s
  | n + 1, s =>
    match [0, 1, 2, 3].findSome? fun d => (mergePair t d (pick s)).map fun p => (d, p) with
    | none => s
    | some (d, a, b) =>
      let lo := min a.1 b.1
      let hi := max a.1 b.1
      let u := unite d a.2 b.2
      let keep := if a.1 = lo then a.2 else b.2
      mergeAll t core pick n (delRange (setRange s core lo { u with r := { keep.r with sticky := u.r.sticky } }) core hi)

/-- RANGE_MERGE: the family's ranges at joins merge, and run on after their joins (R146). -/
def execRangeMerge (core family : Nat) (s : State) : Host.Outcome State Fault Refusal :=
  .next (
    let at_ (s : State) := (getCore s core).ranges.filter fun e => e.2.family == family && e.2.st == .atJoin
    if (getCore s core).ranges.any fun e => e.2.family == family && e.2.st == .running then s
    else match at_ s with
      | [] => s
      | e :: _ =>
        let s := mergeAll (launchTcb s e.2.lid) core at_ 27 s
        let s := (at_ s).foldl (fun s e => setRange s core e.1 { e.2 with st := .running }) s
        entryFreed s core)

/-! ## Pools (R156) -/

/-- A freed context returns to its team's pool with the storage of a pool context; while the file cannot supply the
difference it is held and not counted (R156). -/
def toPool (s : State) (core ctx : Nat) (g : Group) : State :=
  let (t, lid) := (g.team, g.lid)
  let need := poolRegs (launchHdr s lid) - g.storage
  let c := getCore s core
  let blank : Group := { lid := lid, team := t, width := (launchHdr s lid).w, storage := g.storage, low := g.low }
  if need ≤ fileFree c then
    let s := setGroup s core ctx { blank with storage := g.storage + need, low := g.low + lowPart c need }
    let s := updCore s core fun c => { c with used := c.used + need }
    refill (updTeam s t fun tm => { tm with pool := tm.pool ++ [ctx] }) core t
  else setGroup s core ctx blank

/-- Contexts that wait for storage are tried again when storage is freed (R156). -/
def retryPool (s : State) (core : Nat) : State :=
  (getCore s core).groups.foldl (fun s e =>
    match getTeam s e.2.team with
    | some tm =>
      if e.2.st = .reserved ∧ !tm.pool.contains e.1 ∧ !(getCore s core).builds.any (fun b => b.ctx == e.1) then
        toPool s core e.1 e.2
      else s
    | none => s) s

/-! ## Dissolving (R147) -/

/-- Every group of a team, those displaced into the shadow bank included. -/
def teamAll (s : State) (t : Nat) : List (Nat × Group) :=
  match getTeam s t with
  | some tm =>
    ((getCore s tm.core).groups ++ shadowGroups (getCore s tm.core)).filter fun e => e.2.team == t && e.2.st != .reserved
  | none => []

/-- Does a mask register hold one trit in every occupied lane? That trit. -/
def maskOne (g : Group) (k : Nat) : Option Int :=
  match (occupied g).map (maskTrit g.r k) with
  | [] => none
  | t :: l => if l.all (· = t) then some t else none
/-- A group's registers with its masks in form U; none where some mask differs between lanes. -/
def uniformRegs (g : Group) : Option Regs :=
  let ks := g.r.k.map (·.1)
  if ks.all fun k => (maskOne g k).isSome then
    some { g.r with k := ks.foldl (fun m k => mput (.u 0) m k (.u ((maskOne g k).getD 0))) [] }
  else none

/-- May the team dissolve? The registers of the range that it becomes, and its join's address (R147). -/
def dissolveRegs (s : State) (tm : Team) (gs : List (Nat × Group)) : Option (Regs × Int) :=
  match gs with
  | [] => none
  | e :: rest =>
    match uniformRegs e.2 with
    | none => none
    | some r =>
      let ok (g : Group) : Bool :=
        decide (g.pc = e.2.pc) && g.st != .halted && (match g.wait with | some (.join _) => true | _ => false) && decide (g.mstack = []) &&
        decide (g.transit = []) && decide (g.pending = []) && decide (g.leave = 0) && decide (g.ops = []) &&
        !g.r.tr.inHandler && g.r.v.all (fun p => !isF p.2) &&
        match uniformRegs g with | some q => sameState q r | none => false
      let c := getCore s tm.core
      let size := (gs.map fun e => e.2.items.length).sum
      if gs.all (fun e => ok e.2) ∧ !tm.exited ∧ tm.outstanding = 0 ∧ size = tm.size ∧
          !c.store.any (fun i => i.team == e.2.team) ∧ !c.builds.any (fun b => b.team == e.2.team) then
        some ({ r with sticky := rest.foldl (fun f e => f.or e.2.r.sticky) r.sticky }, e.2.pc)
      else none

/-- The contexts of a team are freed, displaced ones of its pool included, with its storage and its slot. -/
def freeTeam (s : State) (t : Nat) (tm : Team) : State :=
  let c := getCore s tm.core
  let mine := (c.groups ++ shadowGroups c).filter fun e => e.2.team == t
  let s := setCore s tm.core
    { c with groups := c.groups.filter fun e => e.2.team != t
             shadow := c.shadow.map fun h => (h.1, h.2.filter fun e => e.2.team != t)
             used := c.used - (mine.map fun e => e.2.storage).sum
             owner := match c.owner with
               | some (.group x) => if c.groups.any (fun e => e.2.team == t && e.1 == x) then none else c.owner
               | o => o }
  { s with teams := mdel s.teams t }

/-- TEAM_DISSOLVE: when every group stands at a dissolving join or is halted, the team becomes a range, or its groups go on; a
team with a displaced group waits for the swap back (R147, R192). -/
def execTeamDissolve (team : Nat) (s : State) : Host.Outcome State Fault Refusal :=
  .next (match getTeam s team with
    | none => s
    | some tm =>
      let gs := (teamAll s team).filter fun e => e.2.st != .draining
      let joined (g : Group) : Bool := match g.wait with | some (.join _) => true | _ => false
      if !gs.all (fun e => joined e.2 || e.2.st == .halted) ∨
          (teamAll s team).any (fun e => e.2.displaced) then s
      else
        let go (s : State) : State := gs.foldl (fun s e => if joined e.2 then wakeGroup s tm.core e.1 else s) s
        match dissolveRegs s tm gs, freeEntries (getCore s tm.core) with
        | some (r, pc), e :: _ =>
          let s := freeTeam s team tm
          let q : Range :=
            { lid := tm.lid, box := tm.box, p0 := tm.p0, p1 := tm.p0 + (tm.size : Int) - 1, pc := pc
              r := { castRegs r with ckhi := 0 }, family := tm.family, st := .atJoin
              paid := (getDie s (dieOf tm.core)).trialG }
          offerMerge (pokeCoResident (offerCast (retryPool (setRange s tm.core e q) tm.core) tm.core)) tm.core tm.family
        | _, _ => go s)

/-! ## Ends (R161, R162) -/

/-- DRAINING_END: nothing of the group is outstanding; its context is freed (R161). -/
def execDrainingEnd (core ctx : Nat) (s : State) : Host.Outcome State Fault Refusal :=
  .next (match getGroup s core ctx with
    | none => s
    | some g =>
      let posted := s.qrys.any fun e => e.2.team == g.team && e.2.ctx == ctx && e.2.st == .posted
      if g.st ≠ .draining ∨ g.displaced ∨ g.pending ≠ [] ∨ g.transit ≠ [] ∨ posted then s
      else
        let s := drainBuffer s core
        let s := updCore s core fun c => { c with owner := if c.owner = some (.group ctx) then none else c.owner }
        let s := toPool s core ctx g
        let s := push s (.teamDissolve g.team)
        offerRetire (offerBuilds s core) g.team)

/-- A core's exchange with its shadow bank begins, where the launch staged there is to start, or the serving team has retired: the
core issues nothing for 27 cycles, and exchanges then (R192). The fence before it waits for the core's writes (R112, R351). -/
def trySwap (s : State) (core : Nat) : State :=
  let c := getCore s core
  match c.shadow with
  | none => s
  | some (t, _) =>
    let due : Bool := if c.swapped then (getTeam s t).isNone else s.launches.any fun e => e.2.staged == some core && e.2.due
    if due && !c.swapping && !writesWait s core then updCore s core fun c => { c with swapping := true, swapWait := 27 } else s

/-- TEAM_RETIRE: the team's slot, barriers and pool are freed (R162); the core swaps back after a serving team (R192). -/
def execTeamRetire (team : Nat) (s : State) : Host.Outcome State Fault Refusal :=
  .next (match getTeam s team with
    | none => s
    | some tm =>
      let c := getCore s tm.core
      let lives := (c.groups ++ shadowGroups c).any fun e => e.2.team == team && e.2.st != .reserved
      let stored := c.store.any (fun i => i.team == team) || c.builds.any (fun b => b.team == team)
      if tm.saved ∨ lives ∨ stored ∨ tm.outstanding ≠ 0 then s
      else
        let s := freeTeam s team tm
        let s := trySwap s tm.core
        checkPiece (pokeCoResident (offerCast (retryPool s tm.core) tm.core)) (dieOf tm.core) tm.lid)

end Sys2Proof.Machine
end

