-- ==== Sys2Proof/Machine/Launch.lean ====
section
/-! DEFINITION. Launches: the host queues' commands and records, task control blocks, kernel headers, the split over dies
and cores, the mailboxes and the plinth, completion (07 R166 to R180; 08 R212, R213; 09 R244). -/

namespace Sys2Proof.Machine

open Sys2Proof

/-! ## Records to the host (R168, R170) -/

/-- The number after a sequence number (R167). -/
def nextSeq (n : Int) : Int := if n = half 27 then 1 else n + 1
/-- Is there a free completion slot? (R168) -/
def slotFree (q : Queue) : Bool := decide ((q.phead + 1) % 3 ^ q.jp ≠ q.ptail)
/-- The block of a record (R170). -/
def recBlock (n : Int) (r : Rec) : List Int :=
  blockOf (n * 3 ^ 216 + r.cmd * 3 ^ 189 + r.kind * 3 ^ 180 + r.status * 3 ^ 171 + r.code * 3 ^ 162 + r.addr * 3 ^ 129)
/-- The places of a whole block. -/
def blockPlaces (l : List Int) : SMap Int := l.zipIdx.map fun p => (p.2, p.1)

/-- A record is written into the next completion slot of a queue that is on (R168, R111). DEDUCED (log 77): the MSI-X vector of the queue
is signalled with it (R363). -/
def writeRecord (s : State) (q : Nat) (r : Rec) : State :=
  let k := getQueue s q
  let s := writeHostBlock s (729 * k.pbase + (k.phead : Int)) (blockPlaces (recBlock k.nextRec r)) []
  let s := if s.signals.contains q then s else { s with signals := s.signals ++ [q] }
  setQueue s q { k with phead := (k.phead + 1) % 3 ^ k.jp, lastcpl := k.nextRec, nextRec := nextSeq k.nextRec }

/-- A command is answered (R167 to R170); `follow` are the aborts to be answered once its record is written (R169). -/
def answer (s : State) (q : Nat) (seq status addr : Int) (follow : List (Nat × Int) := []) : State :=
  let k := getQueue s q
  push (setQueue s q
    { k with records := k.records ++ [{ cmd := seq, status := status, addr := addr, follow := follow }]
             unfinished := k.unfinished.erase seq }) (.completionRecordWrite q)

/-- A link manager sends its next record once the one before it has been written or dropped (R348). -/
def nextLinkRecord (s : State) (n : Nat) : State :=
  let m := getManager s n
  match m.out with
  | [] => s
  | r :: t =>
    if m.busy then s
    else
      let s := setManager s n { m with out := t, busy := true }
      if r.kind = 2 then push { s with events := s.events ++ [{ r with link := n + 1 }] } .eventRecordWrite
      else
        let k := getQueue s 81
        push (setQueue s 81 { k with records := k.records ++ [{ r with link := n + 1 }], unfinished := k.unfinished.erase r.cmd })
          (.completionRecordWrite 81)
/-- A record has been written or dropped. -/
def recordDone (s : State) (r : Rec) : State :=
  if r.link = 0 then s
  else nextLinkRecord (setManager s (r.link - 1) { getManager s (r.link - 1) with busy := false }) (r.link - 1)
/-- A change of a link manager has been applied: its record follows those of the changes before it (R348). -/
def linkRecord (s : State) (n : Nat) (r : Rec) : State :=
  nextLinkRecord (setManager s n { getManager s n with out := (getManager s n).out ++ [r] }) n

/-- COMPLETION_RECORD_WRITE: the oldest waiting completion of a queue takes a free slot (R168); aborts that waited for it are
answered (R169). -/
def execCompletionRecordWrite (q : Nat) (s : State) : Host.Outcome State Fault Refusal :=
  let k := getQueue s q
  .next (match k.records with
    | [] => s
    | r :: t =>
      if k.enable ∧ slotFree k then
        let s := writeRecord (setQueue s q { k with records := t }) q r
        let s := recordDone (r.follow.foldl (fun s p => answer s p.1 p.2 1 r.addr) s) r
        if t = [] then s else push s (.completionRecordWrite q)
      else s)

/-- EVENT_RECORD_WRITE: the oldest event goes to queue 0: written, waiting while fewer than 243 wait, or dropped and
counted (R168). -/
def execEventRecordWrite (s : State) : Host.Outcome State Fault Refusal :=
  let k := getQueue s 0
  .next (match s.events with
    | [] => s
    | r :: t =>
      let s := { s with events := t }
      if !k.enable ∨ (k.records.filter fun r => r.kind == 2).length ≥ 243 then
        recordDone (setQueue s 0 { k with lost := min (half 27) (k.lost + 1) }) r
      else push (setQueue s 0 { k with records := k.records ++ [r] }) (.completionRecordWrite 0))

/-! ## Commands (R167, R169) -/

/-- The kinds of command that a slot may hold; a malformed one, and one whose block the host port rejects. -/
inductive CmdKind
  | launch | abort | nop | bad
  deriving DecidableEq, Repr

/-- Is a number a physical address that is a multiple of 27 in region +1, +2 or +3? (R169, R171, R194) -/
def memAddr (a : Int) : Bool :=
  decide (a % 27 = 0) && decide (1 ≤ frameRegion (frameOf a)) && decide (frameRegion (frameOf a) ≤ 3)

/-- The command in the slot at the head of a queue: its number where the block can be read, its kind, order and address
(R169). -/
def headCmd (s : State) (q : Nat) : Option Int × CmdKind × Bool × Int :=
  let k := getQueue s q
  match readHostBlock s (729 * k.cbase + (k.chead : Int)) with
  | .error _ => (none, .bad, false, 0)
  | .ok l =>
    let x := ofNonets l
    let kind := trits x 215 207
    let a := trits x 205 173
    let ok := decide (trit x 206 ≠ -1) && isZero x 172 0 && (if kind = 3 then decide (a = 0) else memAddr a)
    (some (trits x 242 216),
      if !ok then .bad else if kind = 1 then .launch else if kind = 2 then .abort else if kind = 3 then .nop else .bad,
      ok && decide (trit x 206 = 1), a)

/-- The launches that wait with the global command processor (R172). -/
def gcpWaiting (s : State) : Nat := (s.launches.filter fun e => e.2.st == .waiting && e.2.holder == 1).length

/-- May the processor take the command at the head of a queue? (R167 to R169, R172) DESIGN CHOICE (log 90): an ordered command that is held
stays in its slot, and the later commands of its queue wait behind it. -/
def mayTake (s : State) (q : Nat) : Bool :=
  let k := getQueue s q
  let c := headCmd s q
  k.enable && k.chead != k.ctail && k.records.isEmpty && slotFree k &&
  (!c.2.2.1 || k.unfinished.isEmpty) && (c.2.1 != .launch || decide (gcpWaiting s < 729))

/-- The command at the head of a queue is taken; `f` is what it does under its number where that is the expected one
(R167). -/
def takeCmd (s : State) (q : Nat) (kind : CmdKind) (f : State → Int → Int → State) : State :=
  if q ≥ 81 ∨ !mayTake s q then s
  else
    let k := getQueue s q
    let k' := { k with chead := (k.chead + 1) % 3 ^ k.jc }
    match headCmd s q with
    | (none, c, _, _) => if kind = c then answer (setQueue s q k') q 0 (-8) 0 else s
    | (some n, c, _, a) =>
      if c ≠ kind then s
      else
        let s := setQueue s q { k' with lastcmd := n, expect := nextSeq n, unfinished := k.unfinished ++ [n] }
        if n ≠ k.expect then answer s q n (-7) a else f s n a

/-- NO_OPERATION (R169). -/
def execNoOperation (q : Nat) (s : State) : Host.Outcome State Fault Refusal :=
  .next (takeCmd s q .nop fun s n a => answer s q n 1 a)
/-! ## Task control blocks (R171, R172) -/

/-- Are the fields of block 0 well formed? (R171) -/
def tcb0Ok (x : Int) : Bool :=
  isMul x 242 207 27 && inRng x 170 157 1 1594323 && inRng x 156 143 1 1594323 && inRng x 142 129 1 1594323 &&
  (isZero x 71 39 || decide (trits x 71 39 % 27 = 0)) && isZero x 38 33 && inRng x 32 30 0 6 &&
  decide (trit x 29 ≠ -1) && decide (trit x 28 ≠ -1) && decide (trit x 27 ≠ -1) && decide (trit x 26 ≠ -1) &&
  decide (trit x 25 ≠ -1) && decide (trit x 24 ≠ -1) && decide (trit x 23 ≠ -1) && isZero x 22 0 &&
  (decide (trit x 28 = 0) || decide (trit x 27 = 1))
/-- And those of block 1, under the time slice of block 0? -/
def tcb1Ok (slice : Int) (x : Int) : Bool :=
  isZero x 153 0 && inRng x 176 168 0 9841 && (if isZero x 242 210 then decide (slice = 0) else memAddr (trits x 242 210))

/-- The fields of the two blocks. -/
def tcbOf (x y : Int) : Tcb :=
  { kernel := trits x 242 207, param := trits x 206 171, nx := trits x 170 157, ny := trits x 156 143
    nz := trits x 142 129, uroot := trits x 128 105, sroot := trits x 104 81, asid := trits x 80 72
    succ := trits x 71 39, slice := (trits x 32 30).toNat, spread := decide (trit x 29 = 1)
    shadow := decide (trit x 28 = 1), serving := decide (trit x 27 = 1), bankControl := decide (trit x 26 = 1)
    coResident := decide (trit x 25 = 1), userOk := decide (trit x 24 = 1), super := decide (trit x 23 = 1)
    image := trits y 242 210 }

/-- A field of a block reached by physical address is replaced, by an atomic on the nonets that hold it; none where the
block fails a check (R172). -/
def setPhysField (s : State) (pa : Int) (hi lo : Nat) (v : Int) : Option State × State :=
  match readPhys s pa with
  | (.error _, s) => (none, s)
  | (.ok l, s) =>
    let l' := blockOf (setTrits (ofNonets l) hi lo v)
    let t := writePhys s (pa + (lo / 9 : Nat)) ((l'.drop (lo / 9)).take (hi / 9 + 1 - lo / 9))
    (some t, t)

/-- A field of a block reached by physical address is written, as a partial write (R172, R400). -/
def writeField (s : State) (pa : Int) (hi lo : Nat) (v : Int) : State :=
  let js := (List.range 27).filter fun j => decide (lo / 9 ≤ j) && decide (j ≤ hi / 9)
  let l := blockOf (setTrits 0 hi lo v)
  let ts (j : Nat) : List Nat := (List.range 9).filter fun t => decide (lo ≤ 9 * j + t) && decide (9 * j + t ≤ hi)
  writeBlock s (pa / 27) physAttr false (js.map fun j => (j, l.getD j 0))
    ((js.filter fun j => (ts j).length != 9).map fun j => (j, ts j))

/-- A launch ends: its completion is due (R173). -/
def endLaunch (s : State) (lid : Nat) (status : Int) : State :=
  push (updLaunch s lid fun l => { l with st := .complete, status := status }) (.launchComplete lid)

/-- The plinth of a die has room for a launch that waits: it looks at its chain again (R172, R179). -/
def pokeChain (s : State) (die : Nat) : State :=
  if (getDie s die).chain = [] ∨ s.agenda.contains (.plinth die) then s else push s (.plinth die)
/-- A launch whose wait count is 0 is to start (R172). -/
def startDue (s : State) (lid : Nat) : State :=
  let s := push (updLaunch s lid fun l => { l with st := .queued }) (.launchStart lid)
  match getLaunch s lid with
  | some l => if 2 ≤ l.holder then pokeChain s (l.holder - 2) else s
  | none => s

/-- A launch is accepted: the holder is written, the wait count read (R171, R172). The task control block is read and
checked first; where block 0 is well formed the launch has its successors whatever becomes of it (R173). One through a shadow bank is
to be staged while it waits (R192). `num` is the number that its packet has given it, 0 where there is none. -/
def acceptLaunch (s : State) (addr : Int) (holder : Nat) (src : Source) (user : Bool) (num : Nat := 0) : Nat × State :=
  let (lid, s) := if num = 0 then newId s else (num, s)
  let put (s : State) (t : Tcb) : State :=
    setLaunch s lid { addr := addr, holder := holder, source := src, user := user, tcb := t }
  match readPhys s addr with
  | (.error _, s) => (lid, endLaunch (put s {}) lid (-9))
  | (.ok b0, s) =>
    let x := ofNonets b0
    match setPhysField s (addr + 27) 158 154 holder with
    | (none, s) => (lid, endLaunch (put s (known x)) lid (-9))
    | (some s, _) =>
      match readPhys s (addr + 27) with
      | (.error _, s) => (lid, endLaunch (put s (known x)) lid (-9))
      | (.ok b1, s) =>
        let y := ofNonets b1
        if !tcb0Ok x ∨ !tcb1Ok (trits x 32 30) y ∨ (user ∧ trit x 23 = 1) then (lid, endLaunch (put s (known x)) lid (-1))
        else
          let s := put s (tcbOf x y)
          (lid, if trits y 176 168 = 0 then startDue s lid else if trit x 28 = 1 then push s (.launchStart lid) else s)
where
  /-- What is known of a block 0 alone. -/
  known (x : Int) : Tcb := if tcb0Ok x then tcbOf x 0 else {}

/-- LAUNCH_COMMAND (R169, R172). -/
def execLaunchCommand (q : Nat) (s : State) : Host.Outcome State Fault Refusal :=
  .next (takeCmd s q .launch fun s n a => (acceptLaunch s a 1 (.host q n) false).2)

/-- The wait count of a task control block falls by one, saturating at 0; a launch that waits there with the count at 0
starts (R172, R173, R247). A block that fails a check keeps its count, and an event of code 5 is sent. -/
def decWait (s : State) (addr : Int) : State :=
  match readPhys s (addr + 27) with
  | (.error _, s) => sendEvent s 5 (addr + 27)
  | (.ok b, s) =>
    let x := ofNonets b
    let n := max 0 (trits x 176 168 - 1)
    match setPhysField s (addr + 27) 176 168 n with
    | (none, s) => sendEvent s 5 (addr + 27)
    | (some s, _) =>
      if n = 0 ∧ trits x 158 154 ≠ 0 then
        match s.launches.find? fun e => decide (e.2.addr = addr) && e.2.st == .waiting with
        | some e => startDue s e.1
        | none => s
      else s

/-! ## The kernel header (R212, R213) -/

/-- A run of ternary nonets read as an instruction fetch, by walks of its own (R57, R171). -/
def fetchWalked (s : State) (x : XlCtx) (n : Nat) (va : Int) : Option (List Int) × State :=
  fetchFrom s x none n va
where
  /-- The walk of a page serves the nonets of it that follow. -/
  fetchFrom (s : State) (x : XlCtx) (last : Option (Int × Leaf)) : Nat → Int → Option (List Int) × State
    | 0, _ => (some [], s)
    | n + 1, va =>
      let q := va / 19683
      let cont (s : State) (l : Leaf) : Option (List Int) × State :=
        if !l.x ∨ l.binary then (none, s)
        else match readUnits s [unitOf x l va] with
          | (.error _, s) => (none, s)
          | (.ok v, s) =>
            match fetchFrom s x (some (q, l)) n (va + 1) with
            | (some r, s) => (some (v ++ r), s)
            | (none, s) => (none, s)
      if outOfSpace va ∨ privilegeFault x va then (none, s)
      else match last.filter fun p => decide (p.1 = q) with
        | some p => cont s p.2
        | none =>
          match walk s x va with
          | (.error _, _, s) => (none, s)
          | (.ok l, _, s) => cont s l

/-- The translation registers that a task control block gives (R171). -/
def tcbXl (die : Nat) (t : Tcb) : XlCtx :=
  { die := die, via := .home, super := t.super, userOk := t.userOk, uroot := t.uroot, sroot := t.sroot, asid := t.asid }

/-- The status of a header: 1 where it is accepted (R213, R150). -/
def headerStatus (kernel x : Int) : Int :=
  let T := trits x 17 9
  let w := trits x 26 18
  let s := trits x 35 27
  let reg (hi lo : Nat) := inRng x hi lo 0 243
  if !(isZero x 242 99 && isZero x 44 37 && decide (trits x 8 0 = 1) &&
      (decide (w = 9) || decide (w = 27) || decide (w = 81)) && inRng x 17 9 9 729 && decide (T % w = 0) &&
      decide (T / w ≤ 27) && inRng x 35 27 0 3 && decide (trit x 36 ≠ -1) && inRng x 98 90 27 9841 &&
      decide ((kernel + trits x 98 90) % 6 = 0) && reg 53 45 && reg 71 63 && reg 89 81 &&
      decide (0 ≤ trits x 62 54) && decide (0 ≤ trits x 80 72)) then -2
  else
    let h : Header :=
      { T := T.toNat, w := w.toNat, spawn := s.toNat, regs := (trits x 53 45).toNat, gP := (trits x 62 54).toNat
        nP := (trits x 71 63).toNat, gC := (trits x 80 72).toNat, nC := (trits x 89 81).toNat }
    if h.gP + h.gC > groupCount h h.T ∨ h.T / h.w + h.spawn > 27 ∨ teamStorage h h.T > regFile then -3 else 1

/-- The fields of an accepted header. -/
def headerOf (kernel x : Int) : Header :=
  { T := (trits x 17 9).toNat, w := (trits x 26 18).toNat, spawn := (trits x 35 27).toNat
    nospawn := decide (trit x 36 = 1), regs := (trits x 53 45).toNat, gP := (trits x 62 54).toNat
    nP := (trits x 71 63).toNat, gC := (trits x 80 72).toNat, nC := (trits x 89 81).toNat
    entry := kernel + trits x 98 90 }

/-! ## Ranges of a launch (R131, R134, R138, R171) -/

/-- The box of a launch. -/
def launchBox (t : Tcb) : Box := { x0 := 0, x1 := t.nx - 1, y0 := 0, y1 := t.ny - 1, z0 := 0, z1 := t.nz - 1 }
/-- The registers of a range that the plinth creates. DESIGN CHOICE (log 71): the parameter pointer has 36 trits and `s0` 27; `s0`
takes the low 27 (R171). -/
def rangeRegs (t : Tcb) : Regs :=
  { s := mput 0 [] 0 (wrap 27 t.param), super := t.super, userOk := t.userOk, uroot := t.uroot, sroot := t.sroot
    asid := t.asid }
/-- The share of a launch uses a core's cluster from now on (R285). -/
def noteUsed (s : State) (core lid : Nat) : State :=
  updShare s (dieOf core) lid fun h =>
    { h with used := if h.used.contains (clusterOf core) then h.used else h.used ++ [clusterOf core] }
/-- The start of a launch on a core: a sequential fence at system scope, and the fetched bundles are dropped (R112); its share uses
the core's cluster (R285). -/
def startOn (s : State) (core lid : Nat) : State :=
  updCore (startFence (drainBuffer (noteUsed s core lid) core) core) core fun c => { c with fetch := [] }
/-- A range enters the lowest free entry of a core's table; none where no entry is free (R138). -/
def createRange (s : State) (core lid : Nat) (p0 p1 : Int) (family : Nat) : Option State :=
  match freeEntries (getCore s core), getLaunch s lid with
  | e :: _, some l =>
    let q : Range :=
      { lid := lid, box := launchBox l.tcb, p0 := p0, p1 := p1, pc := l.hdr.entry, r := rangeRegs l.tcb
        family := family, paid := (getDie s (dieOf core)).trialG }
    some (startOn (setRange s core e q) core lid)
  | _, _ => none

/-- Does a saved share of the die come before a launch: was it saved before the launch was accepted? (R193) -/
def behindSaved (s : State) (die lid : Nat) : Bool :=
  (getDie s die).shares.any fun h => h.saved && h.lid != lid && decide (h.order < lid)
/-- The offers of a die for which there is room are placed (R178), in their turn (R193). -/
def placeOffers (s : State) (die : Nat) : State :=
  (getDie s die).offers.foldl (fun s o =>
    let blocked : Bool := match findShare s die o.lid with | some h => h.requested || h.saved | none => false
    if blocked || coreHeld s o.core o.lid || behindSaved s die o.lid then s
    else match createRange s o.core o.lid o.p0 o.p1 o.family with
      | some s => updDie s die fun d => { d with offers := d.offers.filter fun k => k.core != o.core || k.family != o.family }
      | none => s) s

/-- The share of a launch on a die begins: its time slice is counted from here (R193). -/
def newShare (s : State) (die lid : Nat) (soft : Bool) : State :=
  if (findShare s die lid).isSome then (if soft then s else updShare s die lid fun h => { h with soft := false })
  else updDie s die fun d => { d with shares := d.shares ++ [{ lid := lid, start := d.cycle, begun := d.cycle, soft := soft }] }

/-- A new family on a die (R138). -/
def newFamily (s : State) (die : Nat) : Nat × State :=
  ((getDie s die).nextFamily, updDie s die fun d => { d with nextFamily := d.nextFamily + 1 })

/-- A serving launch without shadow for whose ranges a die has no free entries (R191). -/
def makeRoom (s : State) (die lid : Nat) : State :=
  if (launchTcb s lid).serving ∧ (getDie s die).offers.any (fun o => o.lid == lid) then requestBulk s die lid else s

/-- A piece of a launch is placed on a die by its plinth (R178). -/
def placePiece (s : State) (die lid : Nat) (first last : Int) : State :=
  let s := newShare s die lid false
  let (f, s) := newFamily s die
  let s := updDie s die fun d =>
    { d with offers := d.offers ++ (coreSplit s die (launchHdr s lid) first last).map fun p =>
        { core := p.1, lid := lid, p0 := p.2.1, p1 := p.2.2, family := f } }
  checkPiece (makeRoom (placeOffers s die) die lid) die lid

/-! ## Shadow staging (R192) -/

/-- May the launch run through a shadow bank: one team of at most 9 groups whose storage fits? -/
def shadowOk (t : Tcb) (h : Header) : Bool :=
  let n := (launchSize t).toNat
  decide (n ≤ h.T) && decide (groupCount h n ≤ 9) &&
  decide (((List.range (groupCount h n)).map fun g => laneRegs (roleRegs h (roleOf h g)) h.w).sum ≤ 19683)

/-- The team of a serving launch is staged into the shadow bank of a core that has none, which core is not stated (R192). DESIGN CHOICE
(log 86): its spawn reserve is not staged, and its pool starts empty. -/
def stageShadow (s : State) (die lid : Nat) : Option State :=
  match getLaunch s lid with
  | none => none
  | some l =>
    let cs := (liveCores (getDie s die)).filter fun j =>
      (getCore s (81 * die + j)).shadow.isNone && decide ((teamsOn s (81 * die + j)).length < 27) &&
      !coreHeld s (81 * die + j) lid
    match cs[Config.pick s.fresh % cs.length]? with
    | none => none
    | some j =>
      let s := tick s
      let core := 81 * die + j
      let n := (launchSize l.tcb).toNat
      let (t, s) := newId s
      let (f, s) := newFamily s die
      let s := updLaunch s lid fun l => { l with staged := some core }
      let s := setTeam s t
        { core := core, lid := lid, number := wrap 27 (Config.teamOffset lid + t), box := launchBox l.tcb, p0 := 0
          family := f, size := n, castGroups := groupCount l.hdr n }
      let gs := (List.range (groupCount l.hdr n)).map fun g =>
        let k := castGroup s core t lid l.hdr (launchBox l.tcb) 0 n g (rangeRegs l.tcb) l.hdr.entry
        (18 + g, { k with low := k.storage })
      some (updCore s core fun c => { c with shadow := some (t, gs), swapped := false })

/-- A launch through a shadow bank goes on at its die: it is staged where it is not and a core is free for it, and once its piece has
reached the die its share begins, and the exchange (R192). DESIGN CHOICE (log 72): the plinth stages a launch that waits as soon as its
holder has read its header, and no packet asks for it. -/
def shadowTurn (s : State) (die lid : Nat) : State :=
  let s := match getLaunch s lid with
    | some l => if l.staged.isNone then (stageShadow s die lid).getD s else s
    | none => s
  match getLaunch s lid with
  | some l =>
    match l.staged with
    | some core => if l.due then trySwap (noteUsed (newShare s die lid false) core lid) core else s
    | none => s
  | none => s
/-- Its piece has reached its die. -/
def shadowDue (s : State) (die lid : Nat) : State := shadowTurn (updLaunch s lid fun l => { l with due := true }) die lid
/-- The launches through shadow banks that a die has not staged, in acceptance order. -/
def shadowWaits (s : State) (die : Nat) : List Nat :=
  (s.launches.filter fun e => e.2.tcb.shadow && e.2.checked && e.2.staged.isNone &&
    ((launchDies s e.2).head?.map (·.1)) == some die && (e.2.st == .waiting || e.2.due) && e.2.st != .complete).map (·.1)
/-- A staged team whose launch has not started leaves its shadow bank. -/
def unstage (s : State) (l : Launch) : State :=
  match l.staged with
  | none => s
  | some core =>
    match (getCore s core).shadow with
    | some (t, _) =>
      if (getCore s core).swapped then s
      else updCore { s with teams := mdel s.teams t } core fun c => { c with shadow := none }
    | none => s

/-! ## Starting a launch (R172, R175, R177, R180) -/

/-- A launch starts, with pieces on dies; what its fetches see is what stands in memory now (R112). -/
def beginLaunch (s : State) (lid : Nat) (ps : List (Nat × Int × Int)) : State :=
  updLaunch (newStart s) lid fun l =>
    { l with st := .running, start := s.starts + 1, pieces := ps.map (·.1) }
/-- The agent that holds a launch starts it: the pieces go to the dies that receive them. -/
def sendPieces (s : State) (lid : Nat) (l : Launch) : State :=
  let send (s : State) (d : Nat) (a b : Int) (kind source : Nat) : State :=
    sendPacket s d { first := a, last := b, addr := l.addr, lid := lid, kind := kind, source := source }
  match l.source with
  | .host _ _ =>
    let ps := dieSplit s l.tcb l.hdr
    ps.foldl (fun s p => send s p.1 p.2.1 p.2.2 1 1)
      (beginLaunch s lid ps)
  | .die d =>
    let ps := launchDies s l
    ps.foldl (fun s p =>
        if p.1 = d then (if l.tcb.shadow then shadowDue s d lid else placePiece s d lid p.2.1 p.2.2)
        else send s p.1 p.2.1 p.2.2 2 (2 + d))
      (beginLaunch s lid ps)

/-- Contexts, storage and team slots of every team of a run. -/
def runNeeds (h : Header) (ts : List (Int × Nat)) : Nat × Nat × Nat :=
  ((ts.map fun t => groupCount h t.2 + h.spawn).sum, (ts.map fun t => teamStorage h t.2).sum, ts.length)
/-- Can every receiving core hold every team of its share while it holds nothing else? (R151, R180) -/
def coAdmitted (s : State) (l : Launch) : Bool :=
  (coreShares s l.hdr (launchDies s l)).all fun p =>
    let n := runNeeds l.hdr (teamRuns l.hdr.T 28 p.2.1 p.2.2)
    decide (n.1 ≤ 27) && decide (n.2.1 ≤ regFile) && decide (n.2.2 ≤ 27)

/-- The check of a launch: its header, resources and co-residency; the status that refuses it, or 1 (R180, R213). -/
def launchCheck (s : State) (l : Launch) : Int × Header × State :=
  match fetchWalked s (tcbXl 9 l.tcb) 27 l.tcb.kernel with
  | (none, s) => (-9, {}, s)
  | (some b, s) =>
    let x := ofNonets b
    let st := headerStatus l.tcb.kernel x
    let h := headerOf l.tcb.kernel x
    if st ≠ 1 then (st, {}, s)
    else if l.tcb.shadow ∧ !shadowOk l.tcb h then (-3, h, s)
    else if l.tcb.coResident ∧ !coAdmitted s { l with hdr := h } then (-4, h, s)
    else (1, h, s)

/-- LAUNCH_START: the launch is checked, and refused, held for co-residency, or split (R172, R180). One through a shadow bank that
waits is checked and staged; where it is to be refused it is so when it starts (R192). -/
def execLaunchStart (lid : Nat) (s : State) : Host.Outcome State Fault Refusal :=
  .next (match getLaunch s lid with
    | none => s
    | some l =>
      if !(l.st = .queued ∨ (l.st = .waiting ∧ l.tcb.shadow ∧ !l.checked)) ∨ l.castAll then s
      else
        let (st, h, s) := if l.checked then (1, l.hdr, s) else launchCheck s l
        if st ≠ 1 then (if l.st = .queued then endLaunch s lid st else s)
        else
          let l := { l with hdr := h, castAll := l.tcb.coResident && !l.tcb.shadow, checked := true }
          let s := setLaunch s lid l
          if l.st = .waiting then (match (launchDies s l).head? with | some p => shadowTurn s p.1 lid | none => s)
          else if l.castAll then push s (.coResidencyCast lid) else sendPieces s lid l)

/-- CO_RESIDENCY_CAST: when every receiving core has the resources free, every team is cast at the kernel's entry (R151, R180). For a
serving launch that lacks room on a die a bulk share is requested there (R191). -/
def execCoResidencyCast (lid : Nat) (s : State) : Host.Outcome State Fault Refusal :=
  .next (match getLaunch s lid with
    | none => s
    | some l =>
      if l.st ≠ .queued ∨ !l.castAll then s
      else
        let ds := launchDies s l
        let cs := coreShares s l.hdr ds
        let free (p : Nat × Int × Int) : Bool :=
          let c := getCore s p.1
          let n := runNeeds l.hdr (teamRuns l.hdr.T 28 p.2.1 p.2.2)
          decide (n.1 ≤ (freeCtxs c).length) && decide (n.2.1 ≤ fileFree c) &&
          decide ((teamsOn s p.1).length + n.2.2 ≤ 27) && !coreHeld s p.1 lid && !behindSaved s (dieOf p.1) lid
        if !cs.all free then
          (if l.tcb.serving then
            ds.foldl (fun s d => if cs.any fun p => dieOf p.1 == d.1 && !free p then requestBulk s d.1 lid else s) s
          else s)
        else
          let s := beginLaunch s lid ds
          ds.foldl (fun s d =>
            let (f, s) := newFamily (newShare s d.1 lid false) d.1
            (coreSplit s d.1 l.hdr d.2.1 d.2.2).foldl (fun s p =>
              let s := startOn s p.1 lid
              (teamRuns l.hdr.T 28 p.2.1 p.2.2).foldl (fun s t =>
                castTeam s p.1 lid l.hdr (launchBox l.tcb) t.1 t.2 f (rangeRegs l.tcb) l.hdr.entry) s) s) s)

/-! ## Mailboxes and the plinth (R176, R177, R179) -/

/-- A packet has arrived: a waiting `mbox` takes it, or the plinth sees it (R177, R245). -/
def mailArrived (s : State) (die : Nat) : State :=
  if (getDie s die).mboxWait ≠ [] then push s (.mboxPacketArrival die)
  else if s.agenda.contains (.plinth die) then s else push s (.plinth die)

/-- WORK_PACKET: the oldest packet that waits in its sender takes a free mailbox slot (R177). -/
def execWorkPacket (die : Nat) (s : State) : Host.Outcome State Fault Refusal :=
  let d := getDie s die
  .next (match d.senders with
    | [] => s
    | p :: t => if d.mail.length < 27 then mailArrived (setDie s die { d with mail := d.mail ++ [p], senders := t }) die else s)

/-- A mailbox slot has been freed: a sender's packet may arrive. -/
def mailFreed (s : State) (die : Nat) : State :=
  if (getDie s die).senders = [] then s else push s (.workPacket die)

/-- A device-side launch is appended to a die's overflow chain, through the next field of the chain's last block (R179). -/
def appendChain (s : State) (die : Nat) (p : Packet) : State :=
  let s := match (getDie s die).chain.getLast? with
    | some q => (setPhysField s (q.addr + 27) 209 177 p.addr).2
    | none => s
  updDie s die fun d => { d with chain := d.chain ++ [p] }
/-- Has a plinth room for a launch that waits? (R172) -/
def plinthRoom (s : State) (die : Nat) : Bool :=
  decide ((s.launches.filter fun e => e.2.st == .waiting && e.2.holder == 2 + die).length < 243)

/-- The oldest packet of a die for `mbox`: of its mailbox, or the head of its overflow chain (R245). -/
def takePacket (s : State) (die : Nat) : Option Packet × State :=
  let d := getDie s die
  match d.mail, d.chain with
  | p :: t, _ => (some p, mailFreed (setDie s die { d with mail := t }) die)
  | [], p :: t => (some p, setDie s die { d with chain := t })
  | [], [] => (none, s)

/-- The packet that the plinth takes: the head of its chain whenever the mailbox holds fewer than 27 packets and it has room for the
launch, else the oldest of the mailbox (R179). -/
def plinthTake (s : State) (die : Nat) : Option Packet × State :=
  let d := getDie s die
  match d.chain with
  | p :: t => if d.mail.length < 27 && plinthRoom s die then (some p, setDie s die { d with chain := t }) else mailHead s die d
  | [] => mailHead s die d
where
  /-- The oldest of the mailbox. -/
  mailHead (s : State) (die : Nat) (d : Die) : Option Packet × State :=
    match d.mail with
    | p :: t => (some p, mailFreed (setDie s die { d with mail := t }) die)
    | [] => (none, s)

/-- A piece is reported complete with a status; the launch ends with its last piece (R175). -/
def reportPiece (s : State) (lid die : Nat) (status : Int) : State :=
  match getLaunch s lid with
  | none => s
  | some l =>
    let l := { l with pieces := l.pieces.filter (· ≠ die), status := if l.status < 0 then l.status else status }
    let s := setLaunch s lid l
    if l.pieces = [] ∧ l.st = .running then endLaunch s lid l.status else s

/-- The plinth acts on a packet (R176 to R178). A launch that it has no room for goes to its chain (R172). -/
def plinthPacket (s : State) (die : Nat) (p : Packet) : State :=
  if p.kind = 1 ∨ p.kind = 2 then
    match getLaunch s p.lid with
    | some l =>
      if l.tcb.shadow then shadowDue s die p.lid else placePiece s die p.lid p.first p.last
    | none => s
  else if p.kind = 3 then
    if plinthRoom s die then (acceptLaunch s p.addr (2 + die) (.die die) p.user p.lid).2 else appendChain s die p
  else if p.kind = 5 then reportPiece s p.lid (p.source - 2) p.status
  else s

/-- The plinth of a die acts, once it has begun: on one packet, then on its offers, on what it has to stage, and on its saved shares (R177
to R179, R191 to R193, R353). -/
def plinthStep (die : Nat) (s : State) : State :=
  if !(getDie s die).plinthUp then s
  else
  let (p, s) := plinthTake s die
  let s := match p with
    | some p => plinthPacket s die p
    | none => s
  let s := placeOffers s die
  let s := (distinct ((getDie s die).offers.map (·.lid))).foldl (fun s lid => makeRoom s die lid) s
  let s := (shadowWaits s die).foldl (fun s lid => shadowTurn s die lid) s
  let d := getDie s die
  let s := (d.shares.filter (·.saved)).foldl (fun s h => push s (.shareRestore die h.lid)) s
  if p.isSome ∧ (d.mail ≠ [] ∨ d.chain ≠ []) then push s (.plinth die) else s

/-- A piece that the plinth placed has ended: what its groups and engines wrote is performed, its pins are dropped (R294), and it is
reported to the global command processor, to the plinth that forwarded it, or, of a device-side launch, ends the launch (R111, R175,
R177). -/
def endPiece (die lid : Nat) (s : State) : State :=
  match getLaunch s lid with
  | none => s
  | some l =>
    let s := drainBuffers s (dieCores die)
    if !pieceDone s die lid ∨ (findShare s die lid).isNone ∨ !dieSettled s die then s
    else
      let s := releaseDie s die 4
      let s := updDie s die fun d => { d with shares := d.shares.filter fun h => h.lid != lid }
      let s := if (getDie s die).softShares.any fun x => x.desc.lid == lid then s else dropPins s die lid
      let st := shareStatus s lid
      let s := match l.source with
        | .die d =>
          if d = die then reportPiece s lid die st
          else
            let r := ((dieSplit s l.tcb l.hdr).find? fun p => p.1 == die).map (·.2)
            sendPacket s d
              { first := (r.map (·.1)).getD 0, last := (r.map (·.2)).getD 0, addr := l.addr, lid := lid, kind := 5
                source := 2 + die, status := st }
        | .host _ _ => reportPiece s lid die st
      push s (.plinth die)

/-! ## Completion and aborts (R169, R173, R188) -/

/-- A successor list: its pointers, none where it is malformed or cannot be read (R173). -/
def successors (s : State) (a : Int) : Option (List Int) × State :=
  if a = 0 then (some [], s)
  else match readPhys s a with
    | (.error _, s) => (none, s)
    | (.ok l, s) =>
      let c := l.getD 0 0
      let ps := (List.range c.toNat).map fun i => ofNonets ((l.drop (1 + 4 * i)).take 4)
      let ok := decide (0 ≤ c) && decide (c ≤ 6) &&
        ps.all (fun p => decide (p % 27 = 0) && decide (trits p 35 33 = 0)) &&
        (l.drop (1 + 4 * c.toNat)).all (· = 0)
      (if ok then some ps else none, s)

/-- LAUNCH_COMPLETE: the status, the successors, the completion, in this order (R173); aborts that waited for it are
answered (R169). -/
def execLaunchComplete (lid : Nat) (s : State) : Host.Outcome State Fault Refusal :=
  .next (match getLaunch s lid with
    | none => s
    | some l =>
      if l.st ≠ .complete then s
      else
        let st := if l.aborting ∧ l.status ≠ -10 then shareStatus s lid else if l.status = 0 then 1 else l.status
        let (sc, s) := successors s l.tcb.succ
        let st := if sc.isNone then -1 else st
        let s := writeField s (l.addr + 27) 167 159 st
        let s := (sc.getD []).foldl decWait s
        let s : State := match l.source with
          | .host q n => answer (releaseHost s) q n st l.addr l.abortBy
          | .die _ => l.abortBy.foldl (fun s p => answer s p.1 p.2 1 l.addr) s
        let s := { s with launches := mdel s.launches lid }
        let s := if s.launches.any fun e => e.2.st == .running then s else { s with code := [] }
        pokeCoResident ((liveDies s).foldl (fun s d => if (getDie s d).chain = [] then s else push s (.plinth d)) s))

/-- Does an operation stand between two of its rows? (R295) -/
def atRow (o : EngineOp) : Bool :=
  match o.kind with
  | .pass => passBetween o
  | .copy => copyBetween o
  | .drain => o.sent == 0
  | .regCopy => true
  | .zero => false

/-- A launch is aborted: one that has not started ends at once; of one that runs the shares are requested, its operations
and queries are cancelled, and what is not yet placed is withdrawn (R128, R169, R188, R295). -/
def abortLaunch (s : State) (lid : Nat) : State :=
  match getLaunch s lid with
  | none => s
  | some l =>
    let s := setLaunch s lid { l with aborting := true }
    if l.st ≠ .running then endLaunch (unstage s l) lid (-5)
    else
      let s : State := { s with
        ops := s.ops.map fun (e : Nat × EngineOp) =>
          (e.1, if e.2.lid = lid ∧ e.2.kind ≠ .zero then { e.2 with cancelled := true } else e.2)
        qrys := s.qrys.map fun (e : Nat × Query) => (e.1, if e.2.lid = lid then { e.2 with cancelled := true } else e.2) }
      let s := s.ops.foldl (fun s e =>
        if e.2.lid = lid ∧ atRow e.2 then push (resumeFifo s e.1 e.2) (opEvent e.2.kind e.1) else s) s
      (List.range 9).foldl (fun s d =>
        let s := updDie s d fun k =>
          { k with offers := k.offers.filter fun o => o.lid != lid
                   mail := k.mail.filter fun p => p.lid != lid || decide (4 ≤ p.kind)
                   senders := k.senders.filter fun p => p.lid != lid || decide (4 ≤ p.kind) }
        if (findShare s d lid).isSome then requestShare s d lid
        else if l.pieces.contains d then reportPiece (unstage s l) lid d (-5) else s) s
where
  /-- An operation that waits at a FIFO bank with no row begun gives up its access. -/
  resumeFifo (s : State) (id : Nat) (op : EngineOp) : State :=
    let s := updCluster s (clusterOf op.core) fun k =>
      { k with banks := k.banks.map fun b => (b.1, { b.2 with held := b.2.held.filter fun h => h.op != some id }) }
    { s with ops := mset s.ops id { op with awaiting := false } }

/-- ABORT (R169). -/
def execAbort (q : Nat) (s : State) : Host.Outcome State Fault Refusal :=
  .next (takeCmd s q .abort fun s n a =>
    match s.launches.find? fun e => decide (e.2.addr = a) && e.2.st != .complete with
    | none => answer s q n (-8) a
    | some e => abortLaunch (updLaunch s e.1 fun l => { l with abortBy := l.abortBy ++ [(q, n)] }) e.1)

/-! ## Writes of the queue registers (R166, R168) -/

/-- DOORBELL: a write of `hq.ctail` (R166). -/
def execDoorbell (q : Nat) (i : Int) (s : State) : Host.Outcome State Fault Refusal := .next (writeQueueCtail s q i)
/-- HQ_CTL_WRITE (R166). -/
def execHqCtlWrite (q : Nat) (v : Int) (s : State) : Host.Outcome State Fault Refusal := .next (writeQueueCtl s q v)
/-- HQ_PTAIL_WRITE (R166, R168). -/
def execHqPtailWrite (q : Nat) (v : Int) (s : State) : Host.Outcome State Fault Refusal := .next (writeQueuePtail s q v)
/-- LG_BUDGET_WRITE (R186). -/
def execLgBudgetWrite (die : Nat) (v : Int) (s : State) : Host.Outcome State Fault Refusal :=
  .next (if trits v 26 9 = 0 then writeLgBudget s die v else s)

end Sys2Proof.Machine
end

