-- ==== Sys2Proof/Machine/Special.lean ====
section
/-! DEFINITION. The special registers that a context holds, by their numbers (09 R236, R237; 01 R28; 02 R53; 03 R74; 12 R315). -/

namespace Sys2Proof.Machine

open Sys2Proof

/-- The low word of an address of 36 trits, and the word that holds its upper 9 (R315). -/
def addrLo (a : Int) : Int := trits a 26 0
def addrHi (a : Int) : Int := trits a 35 27
/-- `tr.stat` (R315). -/
def trapStat (t : TrapRegs) : Int := 3 * (t.rollbacks : Int) + (if t.inHandler then 1 else 0)

/-- The registers that a context holds (R236, R315). -/
def readContextReg (r : Regs) (n : Nat) : Int :=
  match n with
  | 1 => stickyWord r.sticky
  | 2 => if r.suppress then 1 else 0
  | 3 => slotWord r.oob 0 27
  | 4 => slotWord r.oob 27 27
  | 5 => slotWord r.oob 54 27
  | 6 => (if r.super then 1 else 0) + (if r.userOk then 3 else 0)
  | 7 => r.uroot
  | 8 => r.sroot
  | 9 => r.asid
  | 15 => r.ckhi
  | 27 => addrLo r.tr.vec
  | 28 => addrHi r.tr.vec
  | 29 => addrLo r.tr.fp
  | 30 => addrHi r.tr.fp
  | 31 => r.tr.cause
  | 32 => addrLo r.tr.ret
  | 33 => addrHi r.tr.ret
  | 34 => slotWord r.tr.lanes 0 27
  | 35 => slotWord r.tr.lanes 27 27
  | 36 => slotWord r.tr.lanes 54 27
  | 37 => trapStat r.tr
  | _ => 0

/-- Slots of a mask register's word. -/
def maskSlots (v : Int) (base : Nat) : List Nat :=
  ((List.range 27).filter fun i => decide (trit v i = 1)).map (base + ·)
/-- The sticky out-of-range mask with one word replaced (R74). -/
def setOob (r : Regs) (v : Int) (base : Nat) : Regs :=
  { r with oob := (List.range 81).filter fun l =>
      if base ≤ l ∧ l < base + 27 then (maskSlots v base).contains l else r.oob.contains l }
/-- A write to a register of a context; the read-only ones keep their values (R28, R53, R74, R315). -/
def writeContextReg (r : Regs) (n : Nat) (v : Int) : Regs :=
  match n with
  | 1 => { r with sticky := stickyOf v }
  | 2 => { r with suppress := decide (trit v 0 = 1) }
  | 3 => setOob r v 0
  | 4 => setOob r v 27
  | 5 => setOob r v 54
  | 6 => { r with super := decide (trit v 0 = 1), userOk := decide (trit v 1 = 1) }
  | 7 => { r with uroot := v }
  | 8 => { r with sroot := v }
  | 9 => { r with asid := v }
  | 27 => { r with tr := { r.tr with vec := join36 v (addrHi r.tr.vec) } }
  | 28 => { r with tr := { r.tr with vec := join36 (addrLo r.tr.vec) v } }
  | 29 => { r with tr := { r.tr with fp := join36 v (addrHi r.tr.fp) } }
  | 30 => { r with tr := { r.tr with fp := join36 (addrLo r.tr.fp) v } }
  | 32 => { r with tr := { r.tr with ret := join36 v (addrHi r.tr.ret) } }
  | 33 => { r with tr := { r.tr with ret := join36 (addrLo r.tr.ret) v } }
  | _ => r

end Sys2Proof.Machine
end

