-- ==== Sys2Proof/Machine/Image.lean ====
section
/-! DEFINITION. The context image of a share: its sections, what stands where in them, its writing and reading (07 R189, R194). -/

namespace Sys2Proof.Machine

open Sys2Proof

/-! ## Spots

DESIGN CHOICE (log 21): R194 gives what each section holds and how many blocks it has, and not where in the blocks a thing stands. Here
the things stand in the order in which R194 names them, each in whole nonets, as far as the blocks of the section reach. What has no room
is not in the image: it comes back as it was saved. -/

/-- A spot in a section: how many nonets, what they are, and what is changed by them. -/
structure Spot (α : Type) where
  size : Nat
  get : α → List Int
  put : List Int → α → α

/-- A number of `n` nonets. -/
def numberAt {α : Type} (n : Nat) (get : α → Int) (put : Int → α → α) : Spot α :=
  { size := n, get := fun a => toNonets n (get a), put := fun l => put (ofNonets l) }
/-- A number that is not negative. -/
def countAt {α : Type} (n : Nat) (get : α → Nat) (put : Nat → α → α) : Spot α :=
  numberAt n (fun a => (get a : Int)) fun v => put v.toNat
/-- A bit. -/
def bitAt {α : Type} (get : α → Bool) (put : Bool → α → α) : Spot α :=
  numberAt 1 (fun a => if get a then 1 else 0) fun v => put (decide (v = 1))
/-- The slots whose trits are + in nine nonets. -/
def slotsOf (l : List Int) : List Nat := (List.range 81).filter fun i => trit (l.getD (i / 9) 0) (i % 9) == 1
/-- A set of slots. -/
def slotsAt {α : Type} (get : α → List Nat) (put : List Nat → α → α) : Spot α :=
  { size := 9, get := fun a => slotNonets (get a), put := fun l => put (slotsOf l) }
/-- A spot of a part. -/
def spotInside {α β : Type} (p : Spot α) (get : β → α) (upd : (α → α) → β → β) : Spot β :=
  { size := p.size, get := fun b => p.get (get b), put := fun l => upd (p.put l) }

/-- What stands in spots, one after another. -/
def spotsOf {α : Type} (ps : List (Spot α)) (a : α) : List Int := ps.flatMap fun p => p.get a
/-- What they hold is taken from nonets, as far as these reach. -/
def takeSpots {α : Type} : List (Spot α) → List Int → α → α
  | [], _, a => a
  | p :: t, l, a => if p.size ≤ l.length then takeSpots t (l.drop p.size) (p.put (l.take p.size) a) else a

/-! ## Registers -/

/-- The words of a vector register in form U or A, and the register with other words. -/
def vregWords : VReg → List Int
  | .u b => [b]
  | .a b x y z => [b, x, y, z]
  | .f _ => []
def vregWith (l : List Int) : VReg → VReg
  | .u _ => .u (l.getD 0 0)
  | .a .. =>
    if l.getD 1 0 = 0 ∧ l.getD 2 0 = 0 ∧ l.getD 3 0 = 0 then .u (l.getD 0 0)
    else .a (l.getD 0 0) (l.getD 1 0) (l.getD 2 0) (l.getD 3 0)
  | v => v
/-- The nonets of a mask register, and the register with others. -/
def kregNonets : KReg → List Int
  | .u t => [t]
  | .f l => (List.range 9).map fun j => ofTrits ((l.drop (9 * j)).take 9)
def kregWith (n : List Int) : KReg → KReg
  | .u _ => .u (trit (n.getD 0 0) 0)
  | .f l => .f ((List.range l.length).map fun i => trit (n.getD (i / 9) 0) (i % 9))
/-- Words of three nonets each. -/
def wordsOf (n : Nat) (l : List Int) : List Int := (List.range n).map fun j => ofNonets ((l.drop (3 * j)).take 3)

/-- A vector register in form U or A, and a mask register, of the shape that they have. -/
def vregSpot (r : Regs) (i : Nat) : Spot Regs :=
  { size := 3 * (vregWords (mget (.u 0) r.v i)).length
    get := fun r => (vregWords (mget (.u 0) r.v i)).flatMap (toNonets 3)
    put := fun l r => { r with v := mput (.u 0) r.v i (vregWith (wordsOf (l.length / 3) l) (mget (.u 0) r.v i)) } }
def kregSpot (r : Regs) (i : Nat) : Spot Regs :=
  { size := (kregNonets (mget (.u 0) r.k i)).length
    get := fun r => kregNonets (mget (.u 0) r.k i)
    put := fun l r => { r with k := mput (.u 0) r.k i (kregWith l (mget (.u 0) r.k i)) } }
/-- An address register (R44). -/
def aregSpots : List (Spot AReg) :=
  [numberAt 4 (·.ptr) fun v a => { a with ptr := v }, numberAt 4 (·.base) fun v a => { a with base := v },
    numberAt 4 (·.limit) fun v a => { a with limit := v },
    numberAt 1 permTrits fun v a =>
      { a with load := decide (trit v 0 = 1), store := decide (trit v 1 = 1), atomic := decide (trit v 2 = 1)
               engine := decide (trit v 3 = 1), scratch := decide (trit v 4 = 1) }]
/-- The register state of a context: U and A registers, masks, scalar, address and format registers, then registers 1 to 9 of R236. -/
def regSpots (r : Regs) : List (Spot Regs) :=
  (List.range 243).map (vregSpot r) ++ (List.range 8).map (fun i => kregSpot r (i + 1)) ++
  (List.range 81).map (fun i => numberAt 3 (fun r => mget 0 r.s i) fun v (r : Regs) => { r with s := mput 0 r.s i v }) ++
  (List.range 27).flatMap (fun i => aregSpots.map fun p =>
    spotInside p (fun (r : Regs) => mget {} r.a i) fun f r => { r with a := mput {} r.a i (f (mget {} r.a i)) }) ++
  (List.range 9).map (fun i => numberAt 3 (fun r => mget 0 r.fm i) fun v (r : Regs) => { r with fm := mput 0 r.fm i v }) ++
  (List.range 9).map (fun i => numberAt 3 (fun r => readContextReg r (i + 1)) fun v r => writeContextReg r (i + 1) v)

/-! ## Ranges, teams, groups -/

/-- The nine blocks of a range. -/
def rangeSpots (q : Range) : List (Spot Range) :=
  [numberAt 2 (·.box.x0) fun v q => { q with box := { q.box with x0 := v } },
    numberAt 2 (·.box.x1) fun v q => { q with box := { q.box with x1 := v } },
    numberAt 2 (·.box.y0) fun v q => { q with box := { q.box with y0 := v } },
    numberAt 2 (·.box.y1) fun v q => { q with box := { q.box with y1 := v } },
    numberAt 2 (·.box.z0) fun v q => { q with box := { q.box with z0 := v } },
    numberAt 2 (·.box.z1) fun v q => { q with box := { q.box with z1 := v } },
    numberAt 5 (·.p0) fun v q => { q with p0 := v }, numberAt 5 (·.p1) fun v q => { q with p1 := v },
    numberAt 4 (·.pc) fun v q => { q with pc := v }, countAt 3 (·.family) fun n q => { q with family := n },
    numberAt 1 (fun q => match q.st with | .running => 1 | .atJoin => 2 | .casting => 3) fun v q =>
      { q with st := if v = 1 then .running else if v = 2 then .atJoin else .casting }] ++
  (regSpots q.r).map fun p => spotInside p (·.r) fun f q => { q with r := f q.r }
/-- The three blocks of a team: its 27 named barriers. -/
def teamSpots : List (Spot Team) :=
  (List.range 27).map fun i => numberAt 3 (fun t => barrierWord (mget {} t.nb i)) fun v t =>
    { t with nb := mput {} t.nb i { mget {} t.nb i with phase := trits v 26 18, arrived := trits v 17 9, expected := trits v 8 0 } }
/-- One entry of a mask stack. -/
def entrySpots (e : MEntry) : List (Spot MEntry) :=
  [slotsAt (·.saved) fun l e => { e with saved := l }, numberAt 4 (·.reconv) fun v e => { e with reconv := v }] ++
  (List.range e.paths.length).flatMap fun j =>
    [numberAt 4 (fun e => (e.paths.getD j (0, [])).1) fun v e => { e with paths := e.paths.modify j fun p => (v, p.2) },
      slotsAt (fun e => (e.paths.getD j (0, [])).2) fun l e => { e with paths := e.paths.modify j fun p => (p.1, l) }]
/-- The 135 blocks of a group before its F registers. -/
def groupSpots (g : Group) : List (Spot Group) :=
  [numberAt 1 (fun g => match g.st with | .reserved => 1 | .ready => 2 | .stalled => 3 | .halted => 4 | .draining => 5) fun v g =>
      { g with st := if v = 2 then .ready else if v = 3 then .stalled else if v = 4 then .halted else g.st },
    countAt 1 (·.reason) fun n g => { g with reason := n }, countAt 1 (·.haltCause) fun n g => { g with haltCause := n },
    countAt 1 (·.age) fun n g => { g with age := n }, numberAt 4 (·.pc) fun v g => { g with pc := v },
    countAt 1 (·.width) fun _ g => g, countAt 1 (·.role) fun n g => { g with role := n },
    slotsAt occupied fun l g => { g with items := g.items.filter fun e => l.contains e.1 },
    slotsAt (·.active) fun l g => { g with active := l }] ++
  (List.range g.mstack.length).flatMap (fun j =>
    (entrySpots (g.mstack.getD j { saved := [], reconv := 0, paths := [] })).map fun p =>
      spotInside p (fun g => g.mstack.getD j { saved := [], reconv := 0, paths := [] }) fun f g => { g with mstack := g.mstack.modify j f }) ++
  countAt 1 (·.mstack.length) (fun _ g => g) ::
  bitAt (·.nospawn) (fun b g => { g with nospawn := b }) ::
  (regSpots g.r).map fun p => spotInside p (·.r) fun f g => { g with r := f g.r }

/-! ## Stored items and banks -/

/-- The nine nonets of a stored item: its index, role and target. -/
def itemSpots : List (Spot Stored) :=
  [numberAt 9 (fun i => i.item.x + i.item.y * 3 ^ 14 + i.item.z * 3 ^ 28 + (i.role : Int) * 3 ^ 42 + i.target * 3 ^ 44) fun v i =>
    { i with item := { x := trits v 13 0, y := trits v 27 14, z := trits v 41 28 }, role := (trits v 43 42).toNat
             target := trits v 79 44 }]
/-- Its F values, and its masks. -/
def valueSpots (i : Stored) : List (Spot Stored) :=
  i.v.map (fun e => numberAt 3 (fun i => (mfind i.v e.1).getD 0) fun x i => { i with v := mset i.v e.1 x }) ++
  (if i.k = [] then []
    else [numberAt 1 (fun i => ofTrits ((List.range 8).map fun j => (mfind i.k (j + 1)).getD 0)) fun x i =>
      { i with k := i.k.map fun e => (e.1, trit x (e.1 - 1)) }])
/-- The nonets of what an item's values take. -/
def valueSize (i : Stored) : Nat := ((valueSpots i).map (·.size)).sum
/-- Two nonets of a bank's header block, its number and mode; then the presence trits of a scratch bank or the length of a queue, which
stands in blocks from 0 on. -/
def bankSpots (b : Nat) (mode : Int) : List (Spot Bank) :=
  [numberAt 1 (fun _ => (b : Int)) fun _ k => k, numberAt 1 (fun _ => mode) fun _ k => k] ++
  if mode = 1 then
    (List.range 25).map fun j =>
      numberAt 1 (fun k => slotWord k.present (9 * j) 9) fun v k =>
        { k with present := (List.range 729).filter fun i =>
            if 9 * j ≤ i ∧ i < 9 * j + 9 then trit v (i - 9 * j) = 1 else k.present.contains i }
  else [countAt 1 (·.fifo.length) fun n k => { k with fifo := k.fifo.take n }]

/-! ## The image -/

/-- A block of the image: none where the spec does not give what stands in it. -/
abbrev ImgBlock := Option (List Int)
/-- A list of nonets in `n` blocks, with zeros after it. -/
def inBlocks : Nat → List Int → List ImgBlock
  | 0, _ => []
  | n + 1, l => some (l.take 27 ++ List.replicate (27 - l.length) 0) :: inBlocks n (l.drop 27)
/-- The registers in form F of a group, ascending, each lane by lane. -/
def fullLanes (g : Group) : List Int :=
  g.r.v.flatMap fun e => match e.2 with | .f l => (List.range g.width).map fun i => l.getD i 0 | _ => []
/-- The blocks of a group's lane-registers, three nonets each. -/
def laneBlocks (g : Group) : Nat := (g.nf * g.width + 8) / 9
/-- The groups of a launch on a core, reserved contexts included. -/
def launchGroups (c : Core) (lid : Nat) : SMap Group := c.groups.filter fun e => e.2.lid == lid
/-- The clusters that a share has used since it began or was restored (R285). -/
def shareClusters (s : State) (die lid : Nat) : List Nat :=
  match findShare s die lid with
  | some h => h.used
  | none => []
/-- The banks of a cluster that are settled in scratch or FIFO mode. -/
def heldBanks (s : State) (cl : Nat) : List Nat :=
  (List.range 108).filter fun b => bankMode s cl b == some 1 || bankMode s cl b == some (-1)
/-- The groups, ranges, teams, stored items and banks of a share, in the order of their cores. -/
def shareGroups (s : State) (die lid : Nat) : List (Nat × Nat × Group) :=
  (dieCores die).flatMap fun x => (launchGroups (getCore s x) lid).map fun e => (x, e.1, e.2)
def shareRanges (s : State) (die lid : Nat) : List (Nat × Range) :=
  (dieCores die).flatMap fun x => ((getCore s x).ranges.filter fun e => e.2.lid == lid).map fun e => (x, e.2)
def ofLaunch (s : State) (lid t : Nat) : Bool := match getTeam s t with | some t => t.lid == lid | none => false
def shareStores (s : State) (die lid : Nat) : List (Nat × Stored) :=
  (dieCores die).flatMap fun x => ((getCore s x).store.filter fun i => ofLaunch s lid i.team).map fun i => (x, i)
def shareBuilds (s : State) (die lid : Nat) : List (Nat × Build) :=
  (dieCores die).flatMap fun x => ((getCore s x).builds.filter fun b => ofLaunch s lid b.team).map fun b => (x, b)
def shareBanks (s : State) (die lid : Nat) : List (Nat × Nat × Bank) :=
  (shareClusters s die lid).flatMap fun cl => (heldBanks s cl).map fun b => (cl, b, { getBank s cl b with held := [] })
/-- The teams of a launch on a die. -/
def shareTeams (s : State) (die lid : Nat) : List (Nat × Team) := s.teams.filter fun e => dieOf e.2.core == die && e.2.lid == lid

/-- The image of a share: header, ranges, teams, groups, spawn store, banks. DESIGN CHOICE (log 21): of the header the numbers stand
in its order, three nonets each; groups and banks follow by core and number, stored items by what holds them: the store, builds, groups
whose items are in transit. -/
def shareImage (s : State) (die lid : Nat) : List ImgBlock :=
  let gs := (shareGroups s die lid).filter fun e => e.2.2.st != .reserved
  let ranges := shareRanges s die lid
  let teams := shareTeams s die lid
  let items := (shareStores s die lid).map (·.2) ++ (shareBuilds s die lid).flatMap (·.2.items) ++
    gs.flatMap fun e => e.2.2.transit.map (·.it)
  let banks := shareBanks s die lid
  let header := ([die, gs.length, ranges.length, items.length, teams.length, banks.length] : List Nat).flatMap fun (n : Nat) =>
    toNonets 3 (n : Int)
  let bank (e : Nat × Nat × Bank) : List ImgBlock :=
    let mode := (bankMode s e.1 e.2.1).getD 0
    inBlocks 1 (spotsOf (bankSpots e.2.1 mode) e.2.2) ++
      inBlocks 729 (if mode = 1 then (List.range 19683).map fun a => mget 0 e.2.2.data a else e.2.2.fifo.flatten)
  inBlocks 1 header ++ ranges.flatMap (fun e => inBlocks 9 (spotsOf (rangeSpots e.2) e.2)) ++
    teams.flatMap (fun e => inBlocks 3 (spotsOf teamSpots e.2)) ++
    gs.flatMap (fun e => inBlocks 135 (spotsOf (groupSpots e.2.2) e.2.2) ++
      inBlocks (laneBlocks e.2.2) ((fullLanes e.2.2).flatMap (toNonets 3))) ++
    inBlocks ((items.length + 2) / 3) (items.flatMap fun i => spotsOf itemSpots i) ++
    inBlocks (((items.map valueSize).sum + 26) / 27) (items.flatMap fun i => spotsOf (valueSpots i) i) ++
    banks.flatMap bank
/-- The image is written from its first block on. False where a block cannot take it. -/
def writeImage (b : Int) : List ImgBlock → State → Bool × State
  | [], s => (true, s)
  | x :: t, s =>
    if !backedMem s (blockFrame b) ∨ lineClash s b physAttr then (false, s)
    else
      let l := x.getD ((List.range 27).map fun j => wrap 9 (Config.word (s.fresh + j)))
      writeImage (b + 1) t (writeMemBlock { s with fresh := s.fresh + 27 } b physAttr false (blockPlaces l) [])
/-- The image is read; none where a block fails a check (R402). -/
def readImage (b : Int) : Nat → State → Option (List (List Int)) × State
  | 0, s => (some [], s)
  | n + 1, s =>
    match readMemBlock s b physAttr with
    | (.error _, s) => (none, s)
    | (.ok l, s) =>
      match readImage (b + 1) n s with
      | (some r, s) => (some (l :: r), s)
      | (none, s) => (none, s)
/-- Registers in form F take their lanes from the image. -/
def takeLanes (w : Nat) : SMap VReg → List Int → SMap VReg
  | [], _ => []
  | (i, .f _) :: t, l => (i, .f ((List.range w).map fun j => ofNonets ((l.drop (3 * j)).take 3))) :: takeLanes w t (l.drop (3 * w))
  | e :: t, l => e :: takeLanes w t l
/-- Each of a list takes what is its own of another list, in turn. -/
def takeEach {α γ : Type} (n : α → Nat) (put : List γ → α → α) : List α → List γ → List α × List γ
  | [], l => ([], l)
  | a :: t, l =>
    let r := takeEach n put t (l.drop (n a))
    (put (l.take (n a)) a :: r.1, r.2)
/-- A saved group with what its section of the image holds of it. -/
def takeGroup (l : List (List Int)) (e : Nat × Nat × Group) : Nat × Nat × Group :=
  if e.2.2.st = .reserved then e
  else
    let g := takeSpots (groupSpots e.2.2) (l.take 135).flatten e.2.2
    (e.1, e.2.1, { g with r := { g.r with v := takeLanes g.width g.r.v ((l.drop 135).take (laneBlocks e.2.2)).flatten } })
/-- The blocks of its section. -/
def groupBlocks (e : Nat × Nat × Group) : Nat := if e.2.2.st = .reserved then 0 else 135 + laneBlocks e.2.2
/-- A saved bank with what its section of the image holds of it. -/
def takeBank (s : State) (l : List (List Int)) (e : Nat × Nat × Bank) : Nat × Nat × Bank :=
  let mode := (bankMode s e.1 e.2.1).getD 0
  let k := if mode = 1 then
      { e.2.2 with data := ((l.drop 1).flatten.zipIdx.foldl (fun m p => mput 0 m p.2 p.1) []), parity := [] }
    else { e.2.2 with fifo := (l.drop 1).take e.2.2.fifo.length }
  (e.1, e.2.1, takeSpots (bankSpots e.2.1 mode) (l.take 1).flatten k)
/-- What is saved of a share, and its teams, with what the image holds of them. -/
def takeImage (s : State) (die lid : Nat) (h : Share) (img : List (List Int)) : Share × List (Nat × Team) :=
  let (ranges, l) := takeEach (fun _ => 9) (fun b (e : Nat × Range) => (e.1, takeSpots (rangeSpots e.2) b.flatten e.2)) h.ranges (img.drop 1)
  let (teams, l) := takeEach (fun _ => 3) (fun b (e : Nat × Team) => (e.1, takeSpots teamSpots b.flatten e.2)) (shareTeams s die lid) l
  let (groups, l) := takeEach groupBlocks takeGroup h.groups l
  let items := h.stores.map (·.2) ++ h.builds.flatMap (·.2.items) ++ groups.flatMap fun e => e.2.2.transit.map (·.it)
  let n := (items.length + 2) / 3
  let m := ((items.map valueSize).sum + 26) / 27
  let (items, _) := takeEach (fun _ => 9) (fun b i => takeSpots itemSpots b i) items (l.take n).flatten
  let (items, _) := takeEach valueSize (fun b i => takeSpots (valueSpots i) b i) items ((l.drop n).take m).flatten
  let (stores, r) := takeEach (fun _ => 1) (fun b (e : Nat × Stored) => (e.1, b.headD e.2)) h.stores items
  let (builds, r) := takeEach (fun (e : Nat × Build) => e.2.items.length) (fun b e => (e.1, { e.2 with items := b })) h.builds r
  let (groups, _) := takeEach (fun (e : Nat × Nat × Group) => e.2.2.transit.length) (fun b e =>
    (e.1, e.2.1, { e.2.2 with transit := (e.2.2.transit.zip b).map fun p => { p.1 with it := p.2 } })) groups r
  let (banks, _) := takeEach (fun _ => 730) (takeBank s) h.banks (l.drop (n + m))
  ({ h with ranges := ranges, groups := groups, stores := stores, builds := builds, banks := banks }, teams)

end Sys2Proof.Machine
end

