-- ==== Sys2Proof/Machine/Preempt.lean ====
section
/-! DEFINITION. Pre-emption: time slices, the save and the restore of a share, the shadow banks (07 R188 to R194). -/

namespace Sys2Proof.Machine

open Sys2Proof

/-! ## Time slices (R193) -/

/-- Has the time slice of a share run out? -/
def sliceOver (s : State) (die : Nat) (h : Share) : Bool :=
  let j := (launchTcb s h.lid).slice
  decide (j ≠ 0) && !(launchTcb s h.lid).serving && !h.saved && !h.requested &&
  decide (h.start + 3 ^ (12 + j) ≤ (getDie s die).cycle)

/-- TIME_SLICE_EXPIRY: a request where another launch waits for the die, else the slice restarts. -/
def execTimeSliceExpiry (die lid : Nat) (s : State) : Host.Outcome State Fault Refusal :=
  .next (match findShare s die lid with
    | none => s
    | some h =>
      if !sliceOver s die h then s
      else if dieWanted s die lid then requestShare s die lid
      else updShare s die lid fun h => { h with start := (getDie s die).cycle })

/-! ## Saving (R188 to R190, R194) -/

/-- Does a group count as stopped? (R188) -/
def groupStopped (g : Group) : Bool :=
  g.st == .reserved || g.stopped || g.st == .halted || match g.wait with
    | some (.barrier ..) => true
    | some .park => true
    | some .leave => true
    | _ => false
/-- Is every group and range of the share stopped, with nothing of it outstanding, and its cores' writes performed for the fence before
the save? Items of a halted group that have left their slots stay with it (R112, R188 to R190, R192, R351). -/
def shareStopped (s : State) (die lid : Nat) : Bool :=
  (dieCores die).all (fun x =>
    let c := getCore s x
    (launchGroups c lid).all (fun e =>
      groupStopped e.2 && !e.2.displaced && decide (e.2.pending = []) && (e.2.st == .halted || decide (e.2.transit = []))) &&
    (c.ranges.all fun e => e.2.lid != lid || e.2.st != .running) &&
    ((shadowGroups c).all fun e => e.2.lid != lid) &&
    (!writesWait s x || !((launchGroups c lid != []) || c.ranges.any fun e => e.2.lid == lid))) &&
  s.ops.all (fun e => e.2.lid != lid || dieOf e.2.core != die) &&
  s.qrys.all (fun e => e.2.lid != lid || dieOf e.2.core != die || e.2.st != .posted)

/-- The groups, ranges, stored items and builds of a share leave the die, with their storage. -/
def clearShare (s : State) (die lid : Nat) : State :=
  (dieCores die).foldl (fun s x =>
    let mine := launchGroups (getCore s x) lid
    if mine = [] ∧ (getCore s x).ranges.all (fun e => e.2.lid != lid) then s
    else updCore s x fun c =>
      { c with groups := c.groups.filter fun e => e.2.lid != lid
               ranges := c.ranges.filter fun e => e.2.lid != lid
               store := c.store.filter fun i => match mfind s.teams i.team with | some t => t.lid != lid | none => true
               builds := c.builds.filter fun b => match mfind s.teams b.team with | some t => t.lid != lid | none => true
               used := c.used - (mine.map fun e => e.2.storage).sum
               owner := none }) s

/-- What the groups of a share hold of the leave governor is released; one that waits for leave asks again when it executes its bundle
(R189). -/
def releaseShare (s : State) (die lid : Nat) : State :=
  (dieCores die).foldl (fun s x =>
    (launchGroups (getCore s x) lid).foldl (fun s e =>
      updGroup (freeLeave (dropHold s x e.1) die e.2.leave) x e.1 fun g =>
        { g with wait := if g.wait = some .leave then none else g.wait }) s) s

/-! ## The save -/

/-- Banks that a share's clusters held are cleared as though newly converted (R70, R189). -/
def clearBanks (s : State) (cl : Nat) : State :=
  (heldBanks s cl).foldl (fun s b =>
    let hs := (getBank s cl b).held
    wakeParked (hs.foldl expelHeld (setBank (endBank s cl b) cl b {})) cl) s

/-- A share is saved: after a fence the image is written, then everything that it holds is freed (R112, R189, R190, R194, R285, R294). -/
def saveShare (s : State) (die lid : Nat) : State :=
  let cs := dieCores die
  let s := impliedFence (drainBuffers s cs) 4 cs
  let img := shareImage s die lid
  let (ok, s) := writeImage ((launchTcb s lid).image / 27) img s
  if !ok then abortLaunch (updLaunch s lid fun l => { l with status := -10 }) lid
  else
    let s := releaseShare s die lid
    let cls := shareClusters s die lid
    let groups := shareGroups s die lid
    let ranges := shareRanges s die lid
    let saved (h : Share) : Share :=
      { h with requested := false, saved := true, order := s.nextId, size := img.length, groups := groups, ranges := ranges
               stores := shareStores s die lid, builds := shareBuilds s die lid, banks := shareBanks s die lid
               used := distinct ((groups.map (·.1) ++ ranges.map (·.1)).map clusterOf) }
    let s := updShare s die lid saved
    let s := clearShare s die lid
    let s := { s with
      nextId := s.nextId + 1
      teams := s.teams.map fun (e : Nat × Team) =>
        (e.1, if e.2.lid = lid ∧ dieOf e.2.core = die then { e.2 with saved := true } else e.2) }
    let s := cls.foldl (fun s cl => updCluster (clearBanks s cl) cl fun k => { k with tiles := [] }) s
    let s := dropPins s die lid
    push (pokeCoResident (cs.foldl (fun s x => offerCast (retryPool s x) x) s)) (.plinth die)

/-- The share of an aborted launch is dropped (R169, R188). -/
def dropShare (s : State) (die lid : Nat) : State :=
  let s := clearShare (releaseShare s die lid) die lid
  let s := (s.teams.filter fun e => dieOf e.2.core == die && e.2.lid == lid).foldl (fun s e =>
    offerRetire (updTeam s e.1 fun t => { t with saved := false, pool := [] }) e.1) s
  let s := updShare s die lid fun h =>
    { h with requested := false, saved := false, groups := [], ranges := [], stores := [], builds := [], banks := [] }
  push (checkPiece (pokeCoResident ((dieCores die).foldl (fun s x => offerCast (retryPool s x) x) s)) die lid) (.plinth die)

/-- SHARE_SAVE: once everything of a requested share is stopped, it is saved; that of an aborted launch is dropped. -/
def execShareSave (die lid : Nat) (s : State) : Host.Outcome State Fault Refusal :=
  .next (match findShare s die lid, getLaunch s lid with
    | some h, some l =>
      if !h.requested ∨ (!h.saved ∧ !shareStopped s die lid) then s
      else if l.aborting then dropShare s die lid
      else if h.saved then s
      else saveShare s die lid
    | _, _ => s)

/-! ## Restoring (R189, R193) -/

/-- Does a saved share come first on its die, ahead of every launch that waits for the die and was accepted later than the share was
saved? A launch in a packet waits for the die that the packet is sent to (log 69, R193). -/
def restoreFirst (s : State) (die : Nat) (h : Share) : Bool :=
  (getDie s die).shares.all (fun k => !k.saved || decide (h.order ≤ k.order)) &&
  (getDie s die).offers.all (fun o => o.lid == h.lid || decide (h.order < o.lid)) &&
  ((getDie s die).mail ++ (getDie s die).senders ++ (getDie s die).chain).all (fun p =>
    p.lid == h.lid || decide (3 < p.kind) || decide (h.order < p.lid)) &&
  !(castsWait s die fun l => l != h.lid && decide (l < h.order)) && !(coWaits s die fun l => l != h.lid && decide (l < h.order))
/-- The items that a share brings to a core's spawn store (R153). -/
def itemsFor (h : Share) (x : Nat) : Nat :=
  (h.stores.filter fun i => i.1 == x).length + ((h.builds.filter fun b => b.1 == x).map fun b => b.2.items.length).sum +
    ((h.groups.filter fun g => g.1 == x).map fun g => g.2.2.transit.length).sum
/-- Has each core room for what the share held there, and is none kept for a co-resident launch accepted before it? (R153, R180, R189) -/
def restoreFits (s : State) (h : Share) : Bool :=
  (distinct (h.groups.map (·.1) ++ h.ranges.map (·.1))).all fun x =>
    let c := getCore s x
    let gs := h.groups.filter fun g => g.1 == x
    let ts := distinct (gs.map fun g => g.2.2.team)
    decide (gs.length ≤ (freeCtxs c).length) && decide ((gs.map fun g => g.2.2.storage).sum ≤ fileFree c) &&
    decide ((teamsOn s x).length + ts.length ≤ 27) && decide (storeUsed c + itemsFor h x ≤ 729) &&
    decide ((h.ranges.filter fun r => r.1 == x).length ≤ (freeEntries c).length) && !coreHeld s x h.lid

/-- A group as it is restored: halted groups stay halted, the others execute their bundle again (R190). -/
def restoredGroup (g : Group) : Group :=
  if g.st = .reserved ∨ g.st = .halted then { g with stopped := false, leave := 0 }
  else { g with st := .ready, stopped := false, wait := none, leave := 0, reason := 0 }

/-- The contexts that the groups of a share take: core, old number, new number; on each core the free ones in their order. -/
def newCtxs (s : State) (h : Share) : List (Nat × Nat × Nat) :=
  (distinct (h.groups.map (·.1))).flatMap fun x =>
    ((h.groups.filter fun g => g.1 == x).zip (freeCtxs (getCore s x))).map fun p => (x, p.1.2.1, p.2)
/-- The new number of a context. -/
def newCtx (m : List (Nat × Nat × Nat)) (x old : Nat) : Nat :=
  match m.find? fun e => e.1 == x && e.2.1 == old with
  | some e => e.2.2
  | none => old
/-- A group takes a context of its core, and its explicit leave is asked for again before it issues (R189); a trial that runs pauses it
for what it has yet to pay from now on alone (R338). -/
def restoreGroup (die : Nat) (m : List (Nat × Nat × Nat)) (s : State) (e : Nat × Nat × Group) : State :=
  let (x, old, g) := e
  let c := newCtx m x old
  let s := holdGroup s x c { restoredGroup g with paid := (getDie s die).trialG }
  if g.leave = 0 then s
  else match askLeave s die g.leave x c g true with
    | (some s, _) => updGroup s x c fun k => { k with leave := g.leave }
    | (none, s) =>
      if g.st = .halted then s
      else updGroup s x c fun k => { k with st := .stalled, wait := some .leave }

/-- What a share held returns to its die: pools and builds follow their contexts, then comes a fence; merges, and the ends of teams whose
queries have ended meanwhile, are due (R112, R146, R162, R189). -/
def putBack (s : State) (die lid : Nat) (h : Share) : State :=
  let m := newCtxs s h
  let s := { s with teams := s.teams.map fun (e : Nat × Team) =>
    (e.1, if e.2.lid = lid ∧ dieOf e.2.core = die then
        { e.2 with saved := false, pool := e.2.pool.map (newCtx m e.2.core) }
      else e.2) }
  let s := h.builds.foldl (fun s b =>
    updCore s b.1 fun c => { c with builds := c.builds ++ [{ b.2 with ctx := newCtx m b.1 b.2.ctx }] }) s
  let s := h.stores.foldl (fun s i => updCore s i.1 fun c => { c with store := c.store ++ [i.2] }) s
  let s := h.groups.foldl (restoreGroup die m) s
  let s := h.ranges.foldl (fun s r =>
    match freeEntries (getCore s r.1) with
    | e :: _ => setRange s r.1 e { r.2 with paid := (getDie s die).trialG }
    | [] => s) s
  let s := h.banks.foldl (fun s b =>
    if (heldBanks s b.1).contains b.2.1 then setBank (endBank s b.1 b.2.1) b.1 b.2.1 b.2.2 else s) s
  let s := (dieCores die).foldl (fun s x => buildDue (offerCast s x) x) (impliedFence s 4 (dieCores die))
  let s := h.ranges.foldl (fun s r => offerMerge s r.1 r.2.family) s
  (s.teams.filter fun e => dieOf e.2.core == die && e.2.lid == lid).foldl (fun s e => offerRetire s e.1) s

/-- SHARE_RESTORE: a saved share returns to its die and its cores, from its image (R189, R193, R194). DESIGN CHOICE (log 73): where
a block of the image fails a check the launch is aborted with status -10. -/
def execShareRestore (die lid : Nat) (s : State) : Host.Outcome State Fault Refusal :=
  .next (match findShare s die lid with
    | none => s
    | some h =>
      if !h.saved ∨ h.requested ∨ !restoreFirst s die h ∨ !restoreFits s h then s
      else
        match readImage ((launchTcb s lid).image / 27) h.size s with
        | (none, s) => abortLaunch (updLaunch s lid fun l => { l with status := -10 }) lid
        | (some img, s) =>
          let (h', ts) := takeImage s die lid h img
          let s := ts.foldl (fun s t => setTeam s t.1 t.2) s
          let s := updShare s die lid fun k =>
            { k with saved := false, start := (getDie s die).cycle, size := 0, groups := [], ranges := [], stores := []
                     builds := [], banks := [] }
          putBack s die lid h')

/-! ## The shadow banks (R192) -/

/-- Is a group of a core displaced by an exchange: in one of the contexts, or with lane-registers, that are exchanged? (R192) -/
def exchanged (e : Nat × Group) : Bool := shadowCtx e.1 || decide (0 < e.2.low)
/-- SHADOW_SWAP: after 27 cycles in which the core has issued nothing it exchanges contexts 18 to 26 and lane-registers 0 to 19,682 with
the staged team, which starts; the displaced groups report pre-emption drain, and go on with their pending destinations (R112, R192).
DESIGN CHOICE (log 68): a group in another context that holds such lane-registers is displaced too, in its context. -/
def execShadowSwap (core : Nat) (s : State) : Host.Outcome State Fault Refusal :=
  .next (
    let c := getCore s core
    match c.shadow with
    | none => s
    | some (t, gs) =>
      if c.swapped || !c.swapping || c.swapWait != 0 then s
      else
        let marked := c.groups.map fun (e : Nat × Group) => (e.1, { e.2 with displaced := e.2.displaced || exchanged e })
        startOn (updCore s core fun c =>
          { c with groups := gs.foldl (fun m e => mset m e.1 e.2) (marked.filter fun e => !shadowCtx e.1)
                   shadow := some (t, marked.filter fun e => shadowCtx e.1), swapped := true, swapping := false, owner := none
                   used := c.used + (gs.map fun e => e.2.storage).sum }) core
          (match getTeam s t with | some tm => tm.lid | none => 0))

/-- A displaced group comes back: it still waits for its team at a join, for leave and for room for its push; what else it waited for is
checked again when it executes its bundle (R192). -/
def undisplace (g : Group) : Group :=
  let g := { g with displaced := false }
  match g.wait with
  | some (.join _) | some .leave | some .push | none => g
  | some _ => wokenGroup g
/-- What a displaced group that is back goes on with: landings that were bound meanwhile, its rollback, its drain. -/
def resumeDisplaced (core : Nat) (s : State) (e : Nat × Group) : State :=
  let s := (e.2.pending.filter fun p => p.land.isSome).foldl (fun s p => push s (.valueLanding core e.1 p.id)) s
  let s := rollDue (afterLanding s core e.1) core e.1
  let s := push s (.teamDissolve e.2.team)
  if e.2.st = .draining then push s (.drainingEnd core e.1) else s

/-- SHADOW_SWAP_BACK: when the serving team has retired and the core has issued nothing for another 27 cycles the displaced groups
return, and a fence follows (R112, R192). -/
def execShadowSwapBack (core : Nat) (s : State) : Host.Outcome State Fault Refusal :=
  .next (
    let c := getCore s core
    match c.shadow with
    | none => s
    | some (t, gs) =>
      if !c.swapped || !c.swapping || c.swapWait != 0 || (getTeam s t).isSome then s
      else
        let s := impliedFence (drainBuffer s core) 4 [core]
        let out := (c.groups.filter fun e => e.2.displaced) ++ gs
        let s := updCore s core fun c =>
          { c with groups := out.foldl (fun m e => mset m e.1 (undisplace e.2)) (c.groups.filter fun e => !shadowCtx e.1)
                   shadow := none, swapped := false, swapping := false, owner := none }
        push (offerCast (retryPool (offerBuilds (out.foldl (resumeDisplaced core) s) core) core) core) (.plinth (dieOf core)))

end Sys2Proof.Machine
end

