-- ==== Sys2Proof/Machine/Debug.lean ====
section
/-! DEFINITION. Debug control: the commands, breakpoints, steps, the frieze's samples, causal trials; entry of a raised trap,
register parity and rollback (12 R314 to R338). -/

namespace Sys2Proof.Machine

open Sys2Proof

/-! ## Commands (R325 to R329) -/

/-- The code of a context's state (R325); a ready group that the scoreboard or the collector holds is stalled (R163). -/
def stateCode (g : Group) : Int :=
  match g.st with
  | .reserved => 1
  | .ready => if g.reason = 8 ∨ g.reason = 9 then 3 else 2
  | .stalled => 3
  | .halted => 4
  | .draining => 5
/-- A context's stall reason: the first in the order of R185 that applies. DESIGN CHOICE (log 43): a group that rolls back reports trap
pending, and one that stands in no way of the table 0. -/
def reasonOf (g : Group) : Nat :=
  if g.st = .halted then 1
  else if g.stopped || g.displaced then 2
  else if g.raised.isSome || g.rolling then 3
  else match g.wait with
    | some (.barrier ..) | some (.join _) => 4
    | some .park => 5
    | some .leave => 6
    | some .engine | some .inval => 7
    | some .push | some .own => 8
    | none => if g.st = .ready then g.reason else 0
/-- The state word of a context; the writing group's own stall reason is 0 (R185, R325). -/
def stateWord (s : State) (core ctx : Nat) (own : Bool) : Int :=
  match getGroup s core ctx with
  | none => 0
  | some g =>
    (g.mstack.length : Int) * 3 ^ 10 + (if g.nospawn then 3 ^ 9 else 0) +
      (if g.st = .halted then (g.haltCause : Int) else 0) * 3 ^ 6 + (if own then 0 else (reasonOf g : Int)) * 3 ^ 3 + stateCode g

/-- A halted group goes on: at what it waited for, at the trap that is to be entered, or at its next bundle; one that
halted at a `bkpt` or a watchpoint is exempt for one bundle (R326, R328). -/
def resumeGroup (s : State) (core ctx : Nat) (g : Group) (step : Bool) : State :=
  let waits := g.wait.isSome || g.raised.isSome || g.stopped || g.rolling
  let g' := { g with
    st := if waits then .stalled else .ready, haltCause := 0, reason := 0, stepping := step
    exempt := if g.haltCause = 1 ∨ g.haltCause = 2 then some g.pc else none }
  let s := push (setGroup s core ctx g') (.teamDissolve g.team)
  let s := (g.transit.filter fun t => decide (t.waits = [])).foldl (fun s t => push s (.itemMove core ctx t.slot)) s
  if g.raised.isSome ∧ trapReady g then push s (.trapEntry core ctx) else s

/-- May a halted group be resumed or stepped? -/
def canResume (g : Group) : Bool := g.st == .halted && g.haltCause != 5

/-- What a command does with the selected context: none where it is refused, else the new state and the value of
`dbg.data` (R325). -/
def dbgPerform (s : State) (core ctx : Nat) (own : Bool) (v : Int) : Option (State × Option Int) :=
  let cmd := trits v 2 0
  if cmd = 6 then some (s, some (stateWord s core ctx own))
  else if own then none
  else match getGroup s core ctx with
    | none => none
    | some g =>
      if cmd = 1 then
        if g.st = .ready ∨ g.st = .stalled then
          if g.raised.isSome then some (setGroup s core ctx { g with haltPending := true, haltCause := 4 }, none)
          else some (haltGroup s core ctx 4 0 g.pc (activeLanes g) 1 [], none)
        else none
      else if cmd = 2 then if canResume g then some (resumeGroup s core ctx g false, none) else none
      else if cmd = 3 then if canResume g then some (resumeGroup s core ctx g true, none) else none
      else if cmd = 4 then
        let l := (trits v 16 12).toNat
        if g.st = .halted ∧ l < g.width then
          some (s, some (match mfind g.items l with
            | some _ => laneVal (mget (.u 0) g.r.v (trits v 11 6).toNat) g.items l
            | none => 0))
        else none
      else
        let n := (trits v 11 6).toNat
        if g.st = .halted ∧ n ≤ 80 then some (s, some (mget 0 g.r.s n)) else none

/-- A write of `dbg.cmd` by the group in a context: the command is performed on the selected context (R324, R325). -/
def dbgCommand (s : State) (core ctx : Nat) (v : Int) : State :=
  let die := dieOf core
  let sel := (getDie s die).dbgsel
  let c := 81 * die + (trits sel 8 4).toNat
  let x := (trits sel 3 0).toNat
  match dbgPerform s c x (c == core && x == ctx) v with
  | some (s, w) => updDie s die fun d => { d with dbgcmd := setTrits v 26 26 1, dbgdata := w.getD d.dbgdata }
  | none => updDie s die fun d => { d with dbgcmd := setTrits v 26 26 (-1) }

/-- HALT: command 1, written by the group in a context (R325, R326). -/
def execHalt (core ctx : Nat) (s : State) : Host.Outcome State Fault Refusal := .next (dbgCommand s core ctx 1)
/-- RESUME: command 2 (R328). -/
def execResume (core ctx : Nat) (s : State) : Host.Outcome State Fault Refusal := .next (dbgCommand s core ctx 2)
/-- STEP: command 3 (R329). -/
def execStep (core ctx : Nat) (s : State) : Host.Outcome State Fault Refusal := .next (dbgCommand s core ctx 3)
/-- READ_VECTOR_LANE: command 4 (R325). -/
def execReadVectorLane (core ctx lane reg : Nat) (s : State) : Host.Outcome State Fault Refusal :=
  .next (dbgCommand s core ctx (4 + 729 * (reg : Int) + 531441 * (lane : Int)))
/-- READ_SCALAR: command 5 (R325). -/
def execReadScalar (core ctx reg : Nat) (s : State) : Host.Outcome State Fault Refusal :=
  .next (dbgCommand s core ctx (5 + 729 * (reg : Int)))
/-- READ_STATE: command 6 (R325). -/
def execReadState (core ctx : Nat) (s : State) : Host.Outcome State Fault Refusal := .next (dbgCommand s core ctx 6)

/-! ## Trap entry (R314, R316) -/

/-- TRAP_ENTRY: a raised trap is entered once the landings it waits for have come; a halted group enters it when it is
resumed (R314, R326). -/
def execTrapEntry (core ctx : Nat) (s : State) : Host.Outcome State Fault Refusal :=
  .next (match getGroup s core ctx with
    | none => s
    | some g =>
      match g.raised with
      | some t => if trapReady g ∧ !g.displaced ∧ (g.st = .stalled ∨ g.st = .ready) then takeTrap s core ctx t else s
      | none => s)

/-! ## Register parity and rollback (R320 to R322) -/

/-- The state kept at the restart address is restored, and the group continues there (R321), once it is resumed where it has been
halted meanwhile (R326). -/
def rollBack (s : State) (core ctx : Nat) (g : Group) : State :=
  let n := min 9841 (g.r.tr.rollbacks + 1)
  let g' := { g with
    rolling := false, st := if g.st = .halted then .halted else .ready, reason := 0, pc := g.restart
    active := g.restartActive.filter fun l => (occupied g).contains l
    mstack := g.restartStack, restartCount := g.restartCount + 1
    r := { g.r with tr := { g.r.tr with rollbacks := n } } }
  friezePost (clearLatches (setGroup s core ctx g') core) (dieOf core) 5 (coreInDie core) ctx g.restart n 0

/-- ROLLBACK: a read of a register, or of a kept copy where `reg` is none, fails its check. The group waits for its pending
destinations, whose values are discarded, and goes back; where it cannot, class 13 is raised, or in a handler the failure
is a double fault (R321, R322). -/
def execRollback (core ctx : Nat) (reg : Option Reg) (s : State) : Host.Outcome State Fault Refusal :=
  .next (match getGroup s core ctx with
    | none => s
    | some g =>
      if g.displaced then s
      else if g.rolling then (if g.pending = [] then rollBack s core ctx g else s)
      else if g.st ≠ .ready ∨ s.issue.isSome then s
      else if g.r.tr.inHandler then doubleFault s core ctx 13 g.pc
      else
        let back : Bool := match reg with | some r => g.region.contains r && decide (g.restartCount < 3) | none => false
        if !back then
          raiseTrap s core ctx { cls := 13, lanes := plainLanes (activeLanes g), pc := g.pc, ret := g.pc }
        else if g.pending = [] then rollBack s core ctx g
        else setGroup s core ctx { g with rolling := true, st := .stalled })

/-- A check failure in the state of a range: its launch is aborted with status -6, and the host is told (R322). -/
def rangeParity (core entry : Nat) (s : State) : State :=
  match getRange s core entry with
  | none => s
  | some q =>
    sendEvent (abortLaunch (updLaunch (delRange s core entry) q.lid fun l => { l with doubleFault := true }) q.lid) 3 0

/-! ## The frieze's samples (R335, R336) -/

/-- The first context from `n` on, in turn, that is not free. -/
def sampleCtx (c : Core) (n : Nat) : Option Nat :=
  ((List.range 27).map fun j => (n + j) % 27).find? fun x => (mfind c.groups x).isSome
/-- FRIEZE_SAMPLE: a record of kind 7 of the core's next context. -/
def execFriezeSample (core : Nat) (s : State) : Host.Outcome State Fault Refusal :=
  .next (match sampleCtx (getCore s core) (getCore s core).sampleNext with
    | none => s
    | some x =>
      match getGroup s core x with
      | none => s
      | some g =>
        friezePost (updCore s core fun c => { c with sampleNext := (x + 1) % 27 }) (dieOf core) 7 (coreInDie core) x g.pc
          (stateCode g) (reasonOf g))
/-- Cores sample in this cycle (R335). -/
def sampleNow (d : Die) : Bool :=
  let j := trits d.fzsmp 1 0
  decide (trit d.fzsmp 2 = 1) && decide (0 < j) && friezeOn d && decide (d.cycle % 3 ^ (6 + j.toNat) = 0)

/-! ## Causal trials (R337, R338) -/

/-- Is a trial running on a die? -/
def trialOn (d : Die) : Bool := decide (trit d.ctctl 0 = 1)
/-- The counter that a trial measures. -/
def trialCounter (d : Die) : Int := mget 0 d.pg (trits d.ctctl 3 1).toNat
/-- The counts that groups, displaced ones too, and ranges of a core have paid change. -/
def payCore (f : Nat → Nat) (c : Core) : Core :=
  let pay (l : SMap Group) : SMap Group := l.map fun (g : Nat × Group) => (g.1, { g.2 with paid := f g.2.paid })
  { c with groups := pay c.groups, shadow := c.shadow.map fun h => (h.1, pay h.2)
           ranges := c.ranges.map fun (r : Nat × Range) => (r.1, { r.2 with paid := f r.2.paid }) }
/-- The counts that the groups and ranges of a die have paid are set. -/
def setPaid (s : State) (die : Nat) (n : Nat) : State :=
  { s with cores := s.cores.map fun (e : Nat × Core) => if dieOf e.1 = die then (e.1, payCore (fun _ => n) e.2) else e }
/-- A write of `ct.ctl`: writing + to the state starts a trial, 0 ends one without results (R337, R338). -/
def writeCtCtl (s : State) (die : Nat) (w : Int) : State :=
  let v := setTrits w 7 4 0
  if trit v 0 = 1 then
    let s := updDie s die fun d =>
      let d := { d with ctctl := v }
      { d with trialG := 0, trialS := trialCounter d, trialLeft := 3 ^ (13 + (trits v 10 8).toNat), ctpaid := 0, cthits := 0 }
    setPaid s die 0
  else setPaid (updDie s die fun d => { d with ctctl := v, trialG := 0, trialLeft := 0 }) die 0
/-- The values that `ct.ctl` may take; the reserved trits 7 to 4 are ignored (R8, R337). -/
def ctCtlOk (v : Int) : Bool :=
  inRng v 17 11 0 729 && inRng v 10 8 1 6 && inRng v 3 1 0 8 && decide (trit v 0 ≠ -1)
/-- CAUSAL_TRIAL_START. -/
def execCausalTrialStart (die : Nat) (v : Int) (s : State) : Host.Outcome State Fault Refusal :=
  .next (if ctCtlOk v ∧ trit v 0 = 1 then writeCtCtl s die v else s)
/-- CAUSAL_TRIAL_END: the results are stored, and pauses end. -/
def execCausalTrialEnd (die : Nat) (s : State) : Host.Outcome State Fault Refusal :=
  .next (
    let d := getDie s die
    if trialOn d ∧ d.trialLeft = 0 then
      setPaid (updDie s die fun d =>
        { d with ctpaid := min (half 27) d.trialG, ctcount := wrap 27 (trialCounter d - d.trialS)
                 ctctl := setTrits d.ctctl 0 0 (-1), trialG := 0 }) die 0
    else s)
/-- A target bundle issues: the die's count and the context's grow by the delay, and the hits by 1 (R338). -/
def trialIssue (s : State) (core : Nat) (w : Who) (super : Bool) (pc : Int) : State :=
  let die := dieOf core
  let d := getDie s die
  let top := trits d.ctctl 26 18
  if trialOn d ∧ d.trialLeft > 0 ∧ !super ∧ join36 d.ctlo top ≤ pc ∧ pc ≤ join36 d.cthi top then
    let n := (trits d.ctctl 17 11).toNat
    let s := setDie s die { d with trialG := d.trialG + n, cthits := min (half 27) (d.cthits + 1) }
    match w with
    | .group c => updGroup s core c fun g => { g with paid := g.paid + n }
    | .range e => updRange s core e fun r => { r with paid := r.paid + n }
  else s
/-- Is a context paused? -/
def pausedBy (d : Die) (r : Regs) (paid : Nat) : Bool :=
  trialOn d && decide (d.trialLeft > 0) && !r.super && decide (paid < d.trialG)

end Sys2Proof.Machine
end

