-- ==== Sys2Proof/Machine/System.lean ====
section
/-! DEFINITION. The system registers, traps and breakpoints, invalidation, device-side launches, the mailbox, shares, task
control blocks and the progress counters (09 R236 to R248; 02 R53, R63; 03 R68, R74; 12 R315, R324 to R337). -/

namespace Sys2Proof.Machine

open Sys2Proof

/-! ## Reads (R236) -/

/-- Is the number assigned? (R236, R315, R324) -/
def sysAssigned (n : Int) : Bool :=
  (decide (1 ≤ n) && decide (n ≤ 24)) || (decide (27 ≤ n) && decide (n ≤ 37)) ||
  (decide (40 ≤ n) && decide (n ≤ 65) && decide (n ≠ 59))
/-- The trits that say which banks of a core convert (R68). -/
def busyWord (c : Core) (lo n : Nat) : Int :=
  ofTrits ((List.range n).map fun i => if c.busy.contains (lo + i) then 1 else 0)
/-- The registers that a core holds (R68). -/
def readCoreReg (c : Core) (n : Nat) : Int :=
  match n with
  | 10 => c.modelo
  | 11 => c.modehi
  | 12 => busyWord c 0 27
  | _ => busyWord c 27 9
/-- The registers that a die holds (R238, R248, R324 to R337). -/
def readDieReg (d : Die) (n : Nat) : Int :=
  match n with
  | 14 => trits d.cycle 26 0
  | 40 => d.dbgctl
  | 41 => d.dbgsel
  | 42 => d.dbgcmd
  | 43 => d.dbgdata
  | 44 => d.w0ctl
  | 45 => d.w0lo
  | 46 => d.w0len
  | 47 => d.w1ctl
  | 48 => d.w1lo
  | 49 => d.w1len
  | 50 => d.mbox
  | 51 => d.tsq
  | 52 => mget 0 d.tr 0
  | 53 => mget 0 d.tr 1
  | 54 => mget 0 d.tr 2
  | 55 => mget 0 d.tr 3
  | 56 => d.fzctl
  | 57 => d.fzseq
  | 58 => d.fzsmp
  | 60 => d.ctctl
  | 61 => d.ctlo
  | 62 => d.cthi
  | 63 => d.ctpaid
  | 64 => d.cthits
  | 65 => d.ctcount
  | _ => if 16 ≤ n ∧ n ≤ 24 then mget 0 d.pg (n - 16) else 0
/-- A system register as a context of a core reads it (R236). -/
def sysRead (s : State) (core : Nat) (r : Regs) (n : Nat) : Int :=
  if n ≤ 9 ∨ n = 15 ∨ (27 ≤ n ∧ n ≤ 37) then readContextReg r n
  else if n ≤ 13 then readCoreReg (getCore s core) n
  else readDieReg (getDie s (dieOf core)) n

/-- A read of `ck.lo` latches the upper trits of the count into the context's `ck.hi` (R238). -/
def latchClock (s : State) (core : Nat) (w : Who) : State :=
  updRegs s core w fun r => { r with ckhi := trits (getDie s (dieOf core)).cycle 53 27 }

/-- `srd` (R237, R238). A range casts at a number from 10 on (R215). -/
def execSrd (d : Dst) (a : Opd) (s : State) : Host.Outcome State Fault Refusal :=
  scalarOp s fun i s =>
    let n := ssrc s i a
    if inRange i && (sCasts a || decide (10 ≤ n)) then groupOnly s i fun _ _ => s
    else if !sysAssigned n then illegalOpcode s i
    else
      let v := sysRead s i.core (srcRegs s i) n.toNat
      swrite (if n = 14 then latchClock s i.core i.who else s) i d v

/-- CK_LO_READ: the latch of a read of `ck.lo` by the group in a context (R238). -/
def execCkLoRead (core ctx : Nat) (s : State) : Host.Outcome State Fault Refusal :=
  .next (latchClock s core (.group ctx))

/-! ## Writes (R237) -/

/-- The class of trap that refuses a write to a register of a context (R53, R74, R315). -/
def contextRegTrap (r : Regs) (n : Nat) (v : Int) : Option Nat :=
  match n with
  | 2 => if trits v 26 1 ≠ 0 ∨ trit v 0 = -1 then some 3 else none
  | 6 => if !r.super ∨ trits v 26 2 ≠ 0 ∨ trit v 1 = -1 ∨ trit v 0 = -1 then some 4 else none
  | 7 | 8 => if !r.super ∨ trits v 26 24 ≠ 0 then some 4 else none
  | 9 => if !r.super ∨ trits v 26 9 ≠ 0 then some 4 else none
  | 28 | 30 | 33 => if trits v 26 9 ≠ 0 then some 3 else none
  | _ => none
/-- A trit that a debug register may hold: not -. -/
def onOff (v : Int) (i : Nat) : Bool := decide (trit v i ≠ -1)
/-- A value of a debug register as it is kept: the reserved trits of those of R330 to R337 are ignored (R8). -/
def dbgKept (n : Nat) (v : Int) : Int :=
  match n with
  | 44 | 47 => setTrits v 12 3 0
  | 50 => setTrits v 26 25 0
  | 51 | 58 => setTrits v 26 3 0
  | 52 | 53 | 54 | 55 => setTrits v 9 0 0
  | 56 => setTrits v 25 24 0
  | _ => v
/-- Is the value one that the debug register may take? DESIGN CHOICE (log 66): an invalid value of a register of R330 to R337 is refused
as R324 refuses one of its own, with class 3 (R324, R330, R331, R333, R335, R337). -/
def dbgValid (s : State) (d : Die) (n : Nat) (v : Int) : Bool :=
  match n with
  | 40 => isZero v 26 3 && isZero v 0 0 && onOff v 2 && onOff v 1
  | 41 => isZero v 26 9 && inRng v 8 4 0 80 && inRng v 3 0 0 26
  | 42 => isZero v 25 17 && isZero v 5 3 && inRng v 16 12 0 80 && inRng v 11 6 0 242 && inRng v 2 0 1 6
  | 44 | 47 => inRng v 17 13 (-1) 26 && onOff v 2 && onOff v 1
  | 46 | 49 => decide (1 ≤ v)
  | 50 => onOff v 24 && (decide (trit v 24 = 0) || backedMem s (trits v 23 0))
  | 51 => onOff v 2 && inRng v 1 0 0 3
  | 52 | 53 | 54 | 55 => inRng v 17 15 0 6 && inRng v 14 12 0 5 && inRng v 11 10 0 3
  | 56 => onOff v 26 && backedMem s (trits v 23 0)
  | 58 => onOff v 2 && inRng v 1 0 0 4
  | 60 => ctCtlOk v
  | 61 => decide (v ≤ d.cthi)
  | 62 => decide (d.ctlo ≤ v)
  | _ => true
/-- The debug registers that a write leaves as they are. -/
def dbgReadOnly (n : Nat) : Bool := [43, 57, 63, 64, 65].contains n
/-- The class of trap that a write raises, privilege before format: none where it is performed or ignored (R237). -/
def sysWriteTrap (s : State) (core : Nat) (w : Who) (n : Nat) (v : Int) : Option Nat :=
  let r := whoRegs s core w
  if n ≤ 9 ∨ (27 ≤ n ∧ n ≤ 37) then contextRegTrap r n v
  else if n = 10 ∨ n = 11 then
    if !(r.super || (launchTcb s (whoLid s core w)).bankControl) ∨ (n = 11 ∧ trits v 26 9 ≠ 0) then some 4 else none
  else if n ≤ 15 then none
  else if !r.super then some 4
  else if n ≤ 24 ∨ dbgReadOnly n ∨ dbgValid s (getDie s (dieOf core)) n v then none
  else some 3

/-- A write to a debug register with no action of its own. -/
def writeDieReg (d : Die) (n : Nat) (v : Int) : Die :=
  match n with
  | 40 => { d with dbgctl := v }
  | 41 => { d with dbgsel := v }
  | 44 => { d with w0ctl := v }
  | 45 => { d with w0lo := v }
  | 46 => { d with w0len := v }
  | 47 => { d with w1ctl := v }
  | 48 => { d with w1lo := v }
  | 49 => { d with w1len := v }
  | 50 => { d with mbox := v }
  | 51 => { d with tsq := v }
  | 52 => { d with tr := mput 0 d.tr 0 v }
  | 53 => { d with tr := mput 0 d.tr 1 v }
  | 54 => { d with tr := mput 0 d.tr 2 v }
  | 55 => { d with tr := mput 0 d.tr 3 v }
  | 56 => { d with fzctl := v }
  | 58 => { d with fzsmp := v }
  | 61 => { d with ctlo := v }
  | 62 => { d with cthi := v }
  | _ => if 16 ≤ n ∧ n ≤ 24 then { d with pg := mput 0 d.pg (n - 16) v } else d
/-- A write that no rule refuses, by the context of a core (R237). -/
def sysWrite (s : State) (core : Nat) (w : Who) (n : Nat) (v : Int) : State :=
  if n ≤ 9 ∨ (27 ≤ n ∧ n ≤ 37) then updRegs s core w fun r => writeContextReg r n v
  else if n = 10 ∨ n = 11 then writeBankMode s core (n == 11) v
  else if n = 42 then match w with | .group c => dbgCommand s core c v | .range _ => s
  else if n = 60 then writeCtCtl s (dieOf core) v
  else if n ≤ 15 then s
  else updDie s (dieOf core) fun d => writeDieReg d n (dbgKept n v)

/-- `swr` (R237). A range casts at a number from 10 on (R215). -/
def execSwr (a b : Opd) (s : State) : Host.Outcome State Fault Refusal :=
  scalarOp s fun i s =>
    let n := ssrc s i a
    let v := ssrc s i b
    if inRange i && (sCasts a || sCasts b || decide (10 ≤ n)) then groupOnly s i fun _ _ => s
    else if !sysAssigned n then illegalOpcode s i
    else match sysWriteTrap s i.core i.who n.toNat v with
      | some c => raiseAll s i c
      | none => noteRestart (sysWrite s i.core i.who n.toNat v)

/-- SYSTEM_REGISTER_WRITE: the write of a register by the group in a context, where no rule refuses it (R236). -/
def execSystemRegisterWrite (core ctx : Nat) (n v : Int) (s : State) : Host.Outcome State Fault Refusal :=
  .next (if sysAssigned n ∧ (getGroup s core ctx).isSome ∧ sysWriteTrap s core (.group ctx) n.toNat v = none then
      sysWrite s core (.group ctx) n.toNat v
    else s)

/-! ## Traps and breakpoints (R239 to R241) -/

/-- `trap` (R239): class 14 after the bundle; the lanes where the guard holds trap. -/
def execTrap (a : Opd) (s : State) : Host.Outcome State Fault Refusal :=
  engineOp s fun i _ _ s =>
    let v := ssrc s i a
    if v < 0 ∨ 121 < v then illegalOpcode s i else raiseAfter s i 14 v (plainLanes i.guard)

/-- `rft` (R240, R318). A return address that is no multiple of 6 is refused as any control target is (R195). -/
def execRft (s : State) : Host.Outcome State Fault Refusal :=
  inIssue s fun i s => groupOnly s i fun c g =>
    if i.gtest ≠ 0 ∨ !g.r.tr.inHandler ∨ g.r.tr.ret % 6 ≠ 0 then illegalOpcode s i
    else noteRestart (returnFromTrap s i.core c)

/-- `bkpt` (R241, R323, R327, R328); the one that a resumed group executes acts as a no-operation. -/
def execBkpt (a : Int) (s : State) : Host.Outcome State Fault Refusal :=
  scalarGroupOp s fun i c g s =>
    if g.r.super || g.exempt == some i.pc then s
    else if trit (getDie s (dieOf i.core)).dbgctl 1 = 1 then
      trigger (haltGroup (breakIssue s i) i.core c 1 a i.pc i.guard 1 []) i.core c 1 a i.pc
    else trigger s i.core c 1 a i.pc

/-! ## Invalidation (R242, R63 to R66) -/

/-- The agents that a request reaches: live compute dies with their copy units and engines (0 to 8), stack base dies
(9 to 17), the host port (18) (R64). -/
def invalAgents (s : State) : List Nat :=
  (List.range 9).filter (fun d => (getDie s d).life != .out) ++
  ((List.range 9).filter fun h => (getStack s h).live).map (9 + ·) ++ [18]

/-- `inval` (R242): the stores of the group before it are performed at package scope, and a release goes before it (R64). -/
def execInval (d a : Nat) (b : Int) (s : State) : Host.Outcome State Fault Refusal :=
  engineOp s fun i c g s =>
    let r := srcRegs s i
    let q := mget 0 r.s a
    let n := mget 0 r.s (a + 1)
    let x := mget 0 r.s (a + 2)
    if !g.r.super then privilegeTrap s i
    else if n < 0 ∨ trits x 26 9 ≠ 0 then illegalOpcode s i
    else if g.inval.isSome then stallIssue s i .inval
    else releaseWork s i fun s =>
      let (p, s) := addPending s i.core c .other [.s d] [] none
      let (id, s) := newId s
      let v : Inval :=
        { core := i.core, ctx := c, team := g.team, pend := some p, asid := trits x 8 0, page := q, count := n
          glob := decide (b = 1), waiting := invalAgents s }
      let s := updGroup { s with invals := mset s.invals id v } i.core c fun g => { g with inval := some id }
      (invalAgents s).foldl (fun s e => push s (.invalidationByRange e id)) s

/-- Does a translation of a waiting `mbox` cover a page of the range, its span's pages among them? (R58, R64) -/
def invalCoversMbox (v : Inval) (w : MboxWait) : Bool :=
  (v.glob || decide (w.asid = v.asid)) &&
  w.pages.any fun p => decide (v.count = 0) || (decide (v.page ≤ p.2) && decide (p.1 ≤ v.page + v.count - 1))
/-- INVALIDATION_BY_RANGE: the request arrives at an agent (R64 steps 1 and 2); an `mbox` that waits with a translation of the range
is an access to be performed before the agent has drained (R66). -/
def execInvalidationByRange (agent req : Nat) (s : State) : Host.Outcome State Fault Refusal :=
  .next (match mfind s.invals req with
    | none => s
    | some v =>
      if !v.waiting.contains agent ∨ v.arrived.contains agent then s
      else
        let s := if agent < 9 then
            updDie (invalAtDie s agent v) agent fun d =>
              { d with mboxWait := d.mboxWait.map fun w =>
                  if invalCoversMbox v w ∧ !w.inv.contains req then { w with inv := w.inv ++ [req] } else w }
          else s
        push { s with invals := mset s.invals req { v with arrived := v.arrived ++ [agent] } } (.drainedReport agent req))

/-- The acknowledgement reaches the issuing group; its landing is an acquire (R65, R242). -/
def invalAck (s : State) (req : Nat) (v : Inval) : State :=
  let mine (g : Group) : Bool := g.inval == some req
  let s := bindStatus { s with invals := mdel s.invals req } v.core v.ctx v.pend 1 (some { scope := 4, mask := allPaths })
  let s := updHolder s v.core v.ctx mine fun g => { g with inval := none }
  match getGroup s v.core v.ctx with
  | some g => if g.wait = some .inval ∧ g.inval = none then wakeGroup s v.core v.ctx else s
  | none => s

/-- Are a die's accesses under translations that a request drops performed at package scope: those of waiting mailbox instructions, and
the writes that its caches have accepted? (R64 step 3, R351) -/
def invalDrained (s : State) (die req : Nat) : Bool :=
  dieSettled s die && (getDie s die).mboxWait.all fun w => !w.inv.contains req
/-- Agents of a die report drained again, when what they waited for has come. -/
def drainAgain (s : State) (die : Nat) : State :=
  s.invals.foldl (fun s e =>
    if e.2.waiting.contains die && e.2.arrived.contains die && !s.agenda.contains (.drainedReport die e.1) then
      push s (.drainedReport die e.1)
    else s) s
/-- DRAINED_REPORT: an agent's accesses under dropped translations are performed, so that what follows the acknowledgement follows them;
the last report acknowledges the request (R64 step 3, R65). -/
def execDrainedReport (agent req : Nat) (s : State) : Host.Outcome State Fault Refusal :=
  .next (match mfind s.invals req with
    | none => s
    | some v =>
      if !v.waiting.contains agent ∨ !v.arrived.contains agent then s
      else
        let s := if agent < 9 then drainBuffers s (dieCores agent) else s
        if agent < 9 ∧ !invalDrained s agent req then s
        else
        let s := if agent < 9 then releaseDie s agent 4 else if agent < 18 then releaseSearch s else s
        let v := { v with waiting := v.waiting.filter (· ≠ agent) }
        if v.waiting = [] then invalAck s req v else { s with invals := mset s.invals req v })

/-! ## Launches from the device (R244, R179, R247) -/

/-- The checks of R244 steps 1 and 2: the physical address of block 0, or the fault. -/
def tcbCheck (s : State) (i : Issue) (a : AReg) : Except XFault Int × State :=
  let x := xlOf i.core (srcRegs s i)
  let one (s : State) (va : Int) : Except XFault Int × State :=
    match translate s x .eread false va 1 with
    | (.error f, s) => (.error f, s)
    | (.ok (u :: _), s) =>
      let r := frameRegion (frameOf u.pa)
      if r < 1 ∨ 3 < r ∨ u.attr.key ≠ 0 then (.error ⟨6, 0⟩, s) else (.ok (27 * (u.pa / 27)), s)
    | (.ok [], s) => (.error ⟨1, 3⟩, s)
  if a.scratch ∨ !regCheck { a with load := a.load && a.store } .load a.ptr 54 then (.error ⟨1, 3⟩, s)
  else match one s a.ptr with
    | (.error f, s) => (.error f, s)
    | (.ok pa, s) =>
      match one s (a.ptr + 27) with
      | (.error f, s) => (.error f, s)
      | (.ok _, s) => (.ok pa, s)
/-- A translation fault of an access made once for the group. -/
def xlTrapAll (s : State) (i : Issue) (va : Int) (f : XFault) : State :=
  raise s i 5 0 ((whoActive s i.core i.who).map fun l => { slot := l, addr := va, cause := f.cause, level := f.level })

/-- A packet of a device-side launch takes a mailbox slot, or goes to the overflow chain, through the next field of the
chain's last block (R177, R179). -/
def postLaunch (s : State) (die : Nat) (p : Packet) : Int × State :=
  let d := getDie s die
  if d.mail.length < 27 then (1, mailArrived (setDie s die { d with mail := d.mail ++ [p] }) die)
  else (0, appendChain s die p)

/-- `launch` (R244). The positions of a packet of kind 3 are not stated. -/
def execLaunch (d a : Nat) (s : State) : Host.Outcome State Fault Refusal :=
  engineOp s fun i _ g s =>
    match tcbCheck s i (getA s i a) with
    | (.error f, s) => xlTrapAll s i (getA s i a).ptr f
    | (.ok pa, s) => releaseWork s i fun s =>
      let die := dieOf i.core
      let (n, s) := newId s
      let p : Packet :=
        { first := wrap 54 (Config.word s.fresh), last := wrap 54 (Config.word (s.fresh + 1)), addr := pa, lid := n
          kind := 3, source := 2 + die, user := !g.r.super }
      let (v, s) := postLaunch { s with fresh := s.fresh + 2 } die p
      setS s i d v

/-- `tcbsig` (R247). -/
def execTcbsig (a : Nat) (s : State) : Host.Outcome State Fault Refusal :=
  engineOp s fun i _ _ s =>
    match tcbCheck s i (getA s i a) with
    | (.error f, s) => xlTrapAll s i (getA s i a).ptr f
    | (.ok pa, s) => releaseWork s i fun s => decWait s pa

/-! ## Packets in memory (R176, R245) -/

/-- The block of a packet. -/
def packetBlock (p : Packet) : List Int :=
  blockOf (p.first * 3 ^ 189 + p.last * 3 ^ 135 + p.addr * 3 ^ 102 + (p.kind : Int) * 3 ^ 93 + (p.source : Int) * 3 ^ 88 +
    (if p.kind = 4 ∨ p.kind = 5 then p.status else 0))
/-- The packet in a block that software hands back; none where it is malformed (R176). -/
def packetOf (l : List Int) : Option Packet :=
  let x := ofNonets l
  if inRng x 101 93 1 3 && inRng x 92 88 1 10 && isZero x 87 0 && memAddr (trits x 134 102) &&
      decide (0 ≤ trits x 242 189) && decide (trits x 242 189 ≤ trits x 188 135) then
    some { first := trits x 242 189, last := trits x 188 135, addr := trits x 134 102, lid := 0
           kind := (trits x 101 93).toNat, source := (trits x 92 88).toNat }
  else none

/-- The launch of a task control block that is not complete (R176). -/
def launchAt (s : State) (addr : Int) : Option Nat :=
  (s.launches.find? fun e => decide (e.2.addr = addr) && e.2.st != .complete).map (·.1)
/-- The launch that software works on by its block alone: the block and the header are read and checked; none where they
are refused (R171, R213). -/
def adoptLaunch (s : State) (die : Nat) (addr : Int) : Option Nat × State :=
  match launchAt s addr with
  | some l => (some l, s)
  | none =>
    match readPhys s addr with
    | (.error _, s) => (none, s)
    | (.ok b0, s) =>
      match readPhys s (addr + 27) with
      | (.error _, s) => (none, s)
      | (.ok b1, s) =>
        let x := ofNonets b0
        if !tcb0Ok x ∨ !tcb1Ok (trits x 32 30) (ofNonets b1) then (none, s)
        else
          let l : Launch := { addr := addr, holder := 2 + die, source := .die die, tcb := tcbOf x (ofNonets b1), st := .running }
          let (st, h, s) := launchCheck s l
          if st ≠ 1 then (none, s)
          else
            let (lid, s) := newId s
            (some lid, setLaunch (newStart s) lid { l with hdr := h, start := s.starts + 1 })

/-- An access of 27 nonets made once for the group at the pointer of a register, with the checks of R265 and R270. -/
def blockAccess (s : State) (i : Issue) (c : Nat) (g : Group) (a : AReg) (kind : AccKind) (k : Checked → State → State) :
    State :=
  access s i c g a kind false anyAddr true false true [{ slot := 0, e := a.ptr, n := 27 }] fun ok s =>
    match ok with
    | o :: _ => k o s
    | [] => s
/-- A core-path load of 27 nonets; where it meets a memory error nothing else is done, and class 12 is raised (R313). -/
def blockLoad (s : State) (i : Issue) (c : Nat) (g : Group) (a : AReg) (regs : List Reg) (k : List Int → State → State) :
    State :=
  blockAccess s i c g a .load fun o s =>
    match readChecked s i.core 0 false o with
    | (.ok l, s) => k l s
    | (.error x, s) =>
      let bad : List LaneEntry := (activeLanes g).map fun l => { slot := l, addr := a.ptr, cause := x }
      (addPending s i.core c .load regs [] (some { fails := bad })).2

/-! ## The mailbox instruction (R245) -/

/-- The first and the last page that the translations of an address cover: its own page, and the span of each cached translation that
serves it (R58). -/
def coveredPages (s : State) (x : XlCtx) (va : Int) : List (Int × Int) :=
  let q := va / 19683
  (q, q) :: ((getDie s x.die).tlb.filter fun e => e.leaf.span && tlbServes x va e).map fun _ => (q - q % 81, q - q % 81 + 80)
/-- Where a packet's block goes, as checked. -/
def mboxWaitOf (s : State) (x : XlCtx) (core ctx id : Nat) (o : Checked) : MboxWait :=
  let w : MboxWait := { core := core, ctx := ctx, id := id, asid := x.asid }
  match o.place with
  | .mem us => { w with units := us, pages := coveredPages s x o.lane.e ++ coveredPages s x (o.lane.e + 26) }
  | .sp => { w with scratch := some o.lane.e }
  | .out => w
/-- A packet is delivered: its block is stored, then the kind lands, which is an acquire (R245). -/
def deliverPacket (s : State) (w : MboxWait) (p : Packet) : State :=
  let l := packetBlock p
  let s := match w.scratch with
    | some a => wakeParked (spPut s (onPath w.core .core) 0 (clusterOf w.core) true a l) (clusterOf w.core)
    | none => storeWrites s w.core 0 false (gatherAll (w.units.zip l))
  bindStatus (drainAgain s (dieOf w.core)) w.core w.ctx (some w.id) p.kind (some { scope := 4, mask := allPaths })
/-- `mbox` (R245). -/
def execMbox (d a : Nat) (s : State) : Host.Outcome State Fault Refusal :=
  engineOp s fun i c g s =>
    if !g.r.super then privilegeTrap s i
    else blockAccess s i c g (getA s i a) .store fun o s =>
      let die := dieOf i.core
      let (id, s) := addPending s i.core c .other [.s d] [] none
      let w := mboxWaitOf s (xlOf i.core g.r) i.core c id o
      if (getDie s die).mboxWait ≠ [] then updDie s die fun k => { k with mboxWait := k.mboxWait ++ [w] }
      else match takePacket s die with
        | (some p, s) => deliverPacket s w p
        | (none, s) => updDie s die fun k => { k with mboxWait := [w] }
/-- MBOX_PACKET_ARRIVAL: the oldest waiting `mbox` takes the oldest packet (R245). -/
def execMboxPacketArrival (die : Nat) (s : State) : Host.Outcome State Fault Refusal :=
  .next (match (getDie s die).mboxWait with
    | [] => s
    | w :: t =>
      match takePacket s die with
      | (none, s) => s
      | (some p, s) =>
        let s := deliverPacket (updDie s die fun k => { k with mboxWait := t }) w p
        let d := getDie s die
        if d.mail ≠ [] ∨ d.chain ≠ [] then mailArrived s die else s)

/-! ## Shares and reports (R246, R247) -/

/-- A range of a share on a core, which starts after an acquire: +1, 0 where no entry is free (R246). -/
def placeShare (s : State) (core lid : Nat) (p : Packet) : Int × State :=
  let die := dieOf core
  let (f, t) := newFamily (newShare (acquireWork s core 4 allPaths) die lid true) die
  match createRange t core lid p.first p.last f with
  | none => (0, s)
  | some t =>
    (1, updDie t die fun d =>
      { d with softShares := d.softShares ++ [{ core := core, family := f, desc := { p with lid := lid } }] })
/-- `share` (R246). -/
def execShare (d a : Nat) (b : Opd) (s : State) : Host.Outcome State Fault Refusal :=
  engineOp s fun i c g s =>
    let n := ssrc s i b
    if !g.r.super then privilegeTrap s i
    else if n < 0 ∨ 80 < n then illegalOpcode s i
    else blockLoad s i c g (getA s i a) [.s d] fun l s =>
      let die := dieOf i.core
      if !(liveCores (getDie s die)).contains n.toNat then setS s i d (-1)
      else match packetOf l with
        | none => setS s i d (-1)
        | some p =>
          match adoptLaunch s die p.addr with
          | (none, s) => setS s i d (-1)
          | (some lid, s) =>
            if launchSize (launchTcb s lid) ≤ p.last then setS s i d (-1)
            else
              let (v, s) := placeShare s (81 * die + n.toNat) lid p
              setS s i d v

/-- A piece is reported complete with a status, by its packet's kind (R247). -/
def pieceReport (s : State) (die : Nat) (p : Packet) (status : Int) : State :=
  if p.kind = 2 then
    if 2 ≤ p.source then
      sendPacket s (p.source - 2)
        { p with kind := 5, source := 2 + die, status := status, lid := (launchAt s p.addr).getD 0 }
    else s
  else match if p.kind = 1 then (launchAt s p.addr, s) else adoptLaunch s die p.addr with
    | (none, s) => s
    | (some lid, s) => if p.kind = 1 then reportPiece s lid die status else endLaunch s lid status
/-- `pcomp` (R247). A packet that is malformed reports nothing. -/
def execPcomp (a : Nat) (b : Opd) (s : State) : Host.Outcome State Fault Refusal :=
  engineOp s fun i c g s =>
    let v := ssrc s i b
    if !g.r.super then privilegeTrap s i
    else if !(v = 1 ∨ (-10 ≤ v ∧ v ≤ -1)) then illegalOpcode s i
    else blockLoad s i c g (getA s i a) [] fun l s =>
      match packetOf l with
      | none => s
      | some p => releaseWork s i fun s => pieceReport s (dieOf i.core) p v

/-! ## Progress counters (R248) -/

/-- `prog` (R248); an event of the trigger sequencer (R333). -/
def execProg (a : Opd) (s : State) : Host.Outcome State Fault Refusal :=
  engineOp s fun i c _ s =>
    let v := ssrc s i a
    if v < 0 ∨ 8 < v then illegalOpcode s i
    else
      let s := updDie s (dieOf i.core) fun d => { d with pg := mput 0 d.pg v.toNat (wrap 27 (mget 0 d.pg v.toNat + 1)) }
      trigger s i.core c 3 v i.pc

end Sys2Proof.Machine
end

