-- ==== Sys2Proof/Machine/Link.lean ====
section
/-! DEFINITION. Die-to-die links: arriving flits and messages, replay, training, link managers with their quiesce windows
(13 R341 to R348). -/

namespace Sys2Proof.Machine

open Sys2Proof

/-! ## Receiving (R343, R344) -/

/-- What the arrival of a message makes due at its destination. -/
def msgEvent (cls op : Nat) (m : Msg) : Option Event :=
  match cls, op with
  | 0, 1 => some (.readShared m)
  | 0, 2 => some (.readOwned m)
  | 0, 3 => some (.upgrade m)
  | 0, 4 => some (.writeBack m)
  | 0, 5 => some (.partialWrite m)
  | 0, 6 => some (.atomicRequest m)
  | 0, 7 => some (.evictionNotice m)
  | 1, 1 => some (.invalidate m)
  | 1, 2 => some (.downgrade m)
  | 1, 3 => some (.fetchAndInvalidate m)
  | 2, 1 => some (.data m)
  | 2, 2 => some (.acknowledge m)
  | 2, 3 => some (.dataDirty m)
  | 2, 4 => some (.acknowledgeAlreadyWrittenBack m)
  | 2, 5 => some (.errorResponse m)
  | 3, 1 => some (.mailboxPacket m)
  | 3, 2 => some (.invalMessage m)
  | 3, 3 => some (.drainedMessage m)
  | 3, 4 => some (.probeMessage m)
  | 3, 5 => some (.mailboxPacket m)
  | 3, 6 => some (.linkManagement m)
  | _, _ => none
/-- A message of a slot: rejected and counted, delivered, or sent on (R344, R345). Its buffer is free again. -/
def takeMsg (e : Nat) (flit : List Nat) (s : State) (i : Nat) : State :=
  let k := getLink s e
  match msgOf (decide (i < 3)) (slotBytes flit i) with
  | none => setLink s e { k with errors := k.errors + 1 }
  | some (cls, op, m) =>
    let s := setLink s e { k with freed := k.freed.modify cls (· + 1) }
    if m.dst = endDie e then match msgEvent cls op m with | some v => push s v | none => s
    else sendMsg s (endDie e) cls op m
/-- Flits acknowledged are no longer kept, and returned credits are held (R341, R343). -/
def takeAck (k : LinkEnd) (h : FlitHead) : LinkEnd :=
  { k with
    unacked := match k.unacked.findIdx? fun f => decide (f.1 = h.ack) with
      | some j => k.unacked.drop (j + 1)
      | none => k.unacked
    credits := (k.credits.zip h.credit).map fun p => p.1 + p.2 }
/-- A flit is dropped; at the first one a control flit that asks for a replay is owed (R343). -/
def dropFlit (s : State) (e : Nat) : State :=
  let k := getLink s e
  if k.dropping then s else pumpAll (setLink s e { k with dropping := true, owes := true }) e

/-! ## Link managers (R347, R348) -/

def isWidth : LinkReq → Bool
  | .width .. => true
  | .frequency .. => false
/-- The links that a change of a die's link manager concerns. -/
def concerned (die : Nat) : LinkReq → List Nat
  | .width l _ => [l]
  | .frequency .. => linksOf die
/-- Has a link no flit that is not acknowledged? -/
def linkDrained (s : State) (l : Nat) : Bool :=
  decide ((getLink s (2 * l)).unacked = []) && decide ((getLink s (2 * l + 1)).unacked = [])
/-- Are the links of the window of a die's link manager drained? -/
def windowDrained (s : State) (die : Nat) : Bool :=
  match (getManager s die).window with
  | some r => (concerned die r.2).all (linkDrained s)
  | none => false
/-- Does a window of some link manager concern a link? -/
def quiesced (s : State) (l : Nat) : Bool :=
  (List.range 20).any fun d => match (getManager s d).window with | some r => (concerned d r.2).contains l | none => false
/-- The ends of links accept messages, or do not: those that no window concerns, and the others (R347). -/
def setQuiesce (s : State) (ls : List Nat) : State :=
  ls.foldl (fun s l => [2 * l, 2 * l + 1].foldl (fun s e =>
    pumpAll (setLink s e { getLink s e with quiesce := quiesced s l }) e) s) s
/-- The request that is applied next: a width reduction before any frequency change, else in their order (R348). -/
def nextReq (q : List (Nat × LinkReq)) : Option (Nat × LinkReq) :=
  match q.find? fun r => isWidth r.2 with
  | some r => some r
  | none => q.head?
/-- The application of a request. -/
def reqEvent (die : Nat) (r : LinkReq) : Event := if isWidth r then .widthReduction die else .frequencyChange die
/-- The window of a link manager whose links are drained is to be used. -/
def windowDue (s : State) (die : Nat) : State :=
  match (getManager s die).window with
  | some r => if windowDrained s die ∧ !s.agenda.contains (reqEvent die r.2) then push s (reqEvent die r.2) else s
  | none => s
/-- A link manager that applies nothing opens the quiesce window of its next request (R347, R348). -/
def offerLink (s : State) (die : Nat) : State :=
  let m := getManager s die
  match m.window, nextReq m.reqs with
  | none, some r =>
    let s := setManager s die
      { m with reqs := m.reqs.filter fun q => q.1 != r.1, window := some r, opened := (getDie s die).cycle }
    windowDue (setQuiesce s (concerned die r.2)) die
  | _, _ => windowDue s die
/-- A quiesce window lasts at most 2,187 cycles of the die: none passes beyond them while it is open (R347). -/
def windowHolds (s : State) (die : Nat) : Bool :=
  let m := getManager s die
  m.window.isSome && decide (m.opened + 2187 ≤ (getDie s die).cycle)
/-- A window has been used: its links resume, and the next may open. -/
def closeWindow (s : State) (die : Nat) : State :=
  match (getManager s die).window with
  | none => s
  | some r => setQuiesce (setManager s die { getManager s die with window := none }) (concerned die r.2)
/-- A module is reduced by one step. -/
def narrower : Width → Width
  | .full => .half
  | _ => .off
/-- Is a link of a die below half of its modules at full width? (R348) -/
def lowLinks (s : State) (die : Nat) : Bool :=
  (linksOf die).any fun l => decide (2 * ((linkWidths s l).filter (· == .full)).length < linkModules l)
/-- A request enters a link manager under its next number (R347). -/
def linkRequest (s : State) (die : Nat) (r : LinkReq) : State :=
  let m := getManager s die
  offerLink (setManager s die { m with reqs := m.reqs ++ [(m.next, r)], next := m.next + 1 }) die
/-- The lane errors of a module exceed what its spares repair (R347). -/
def linkFault (die link m : Nat) (s : State) : State :=
  if die < 20 ∧ (linksOf die).contains link ∧ (linkWidths s link).getD m .off ≠ .off then linkRequest s die (.width link m)
  else s
/-- The index of a die among those of its kind (R170, R339). -/
def dieIndex (n : Nat) : Nat := if n < 9 then n else if n < 18 then n - 9 else n - 18
/-- The waiting frequency changes of a die at either end of a link are checked again after a reduction: a change to point 0 is refused
while a link of the die is low (R348). -/
def recheckPoints (s : State) (die : Nat) : State :=
  if lowLinks s die then
    let bad (r : LinkReq) : Bool := match r with | .frequency p _ => p == 0 | _ => false
    let m := getManager s die
    (m.reqs.filter fun r => bad r.2).foldl (fun s r => match r.2 with
        | .frequency _ c => linkRecord s die { cmd := c, status := -2 }
        | _ => s)
      (setManager s die { m with reqs := m.reqs.filter fun r => !bad r.2 })
  else s
/-- WIDTH_REDUCTION: in the quiesce window of a reduction, once its link is drained, the module is narrowed, and the host is told
(R347, R348). -/
def execWidthReduction (die : Nat) (s : State) : Host.Outcome State Fault Refusal :=
  .next (match (getManager s die).window with
    | some (_, .width l m) =>
      if !windowDrained s die then s
      else
        let s := { s with widths := mset s.widths l ((linkWidths s l).modify m narrower) }
        let s := linkRecord (closeWindow s die) die { kind := 2, code := 4, addr := (dieIndex die : Int) }
        offerLink (((List.range 20).filter fun d => (linksOf d).contains l).foldl recheckPoints s) die
    | _ => s)
/-- FREQUENCY_CHANGE: in the quiesce window of a change, once the die's links are drained, the die moves to the point, and the command
is answered (R347, R348). -/
def execFrequencyChange (die : Nat) (s : State) : Host.Outcome State Fault Refusal :=
  .next (match (getManager s die).window with
    | some (_, .frequency p c) =>
      if !windowDrained s die then s
      else
        let s := updDie s die fun d => { d with point := p }
        offerLink (linkRecord (closeWindow s die) die { cmd := c, status := 1 }) die
    | _ => s)
/-- LINK_MANAGEMENT: a message of the link managers; its contents are not stated. The manager that it reaches looks at its
waiting requests. -/
def execLinkManagement (m : Msg) (s : State) : Host.Outcome State Fault Refusal :=
  .next (if m.dst < 20 then offerLink s m.dst else s)

/-! ## Flits that arrive (R343) -/

/-- An end has taken a flit in order: what it may send leaves, and else an idle flit that acknowledges. -/
def answerFlit (s : State) (e n : Nat) : State :=
  let s := pumpAll s e
  if (getLink s e).sent = n then sendIdle s e else s
/-- FLIT_RECEIVE: a flit arrives at an end; `ok` is the outcome of the adapter's CRC (R341, R343). -/
def execFlitReceive (tail : Nat) (l : List Nat) (ok : Bool) (s : State) : Host.Outcome State Fault Refusal :=
  .next (
    let k := getLink s tail
    if !k.up then s
    else match flitHead k.gen l with
      | none => dropFlit s tail
      | some h =>
        if !ok then dropFlit s tail
        else
          let done (s : State) : State := windowDue (windowDue s (endDie tail)) (endDie (farEnd tail))
          if h.kind = 2 then done (pumpAll (setLink s tail (takeAck k h)) tail)
          else if h.seq ≠ (k.lastGood + 1) % 2 ^ 24 then dropFlit s tail
          else
            let s := setLink s tail { takeAck k h with lastGood := h.seq, dropping := false }
            let s := if h.kind = 0 then h.valid.foldl (takeMsg tail l) s else push s (.replay tail h.ack)
            done (answerFlit s tail k.sent))
/-- REPLAY: every flit after a number is sent again, in order (R343). -/
def execReplay (tail good : Nat) (s : State) : Host.Outcome State Fault Refusal :=
  .next (
    let k := getLink s tail
    let l := match k.unacked.findIdx? fun f => decide (f.1 = good) with
      | some j => k.unacked.drop (j + 1)
      | none => k.unacked
    if k.up then l.foldl (fun s f => push s (.flitReceive (farEnd tail) f.2 true)) s else s)
/-- A flit on its way to an end is damaged: it will fail the adapter's CRC (R343). -/
def flitError (tail : Nat) (s : State) : State :=
  { s with agenda := damage s.agenda }
where
  /-- The next flit on its way. -/
  damage : List Event → List Event
    | [] => []
    | .flitReceive e l ok :: t => if e = tail then .flitReceive e l false :: t else .flitReceive e l ok :: damage t
    | e :: t => e :: damage t

/-! ## Training (R346) -/

/-- The control flit that an end sends when its link trains: its generation field holds the highest that the end supports, which is
1 at most (R11, R346). -/
def trainFlit (g : Nat) : List Nat := flitBytes { gen := min g 1, credit := [], valid := [], kind := 1, ack := 0, seq := 0 } none
/-- The generation that an end uses: the lower of its own and the one that the other end's flit holds. -/
def agreedGen (own : Nat) (l : List Nat) : Nat := min (min own 1) (bits (leNat (l.take 12)) 87 80)
/-- An end after training; its messages wait on. -/
def trainEnd (k : LinkEnd) (g : Nat) : LinkEnd :=
  if 1 ≤ g then { up := true, gen := g, credits := List.replicate 4 Config.linkBuffers, waitq := k.waitq, quiesce := k.quiesce }
  else { waitq := k.waitq, quiesce := k.quiesce }
/-- A link trains: its ends exchange the generations that they support (R346). -/
def trainLink (s : State) (link ga gb : Nat) : State :=
  setLink (setLink s (2 * link) (trainEnd (getLink s (2 * link)) (agreedGen ga (trainFlit gb))))
    (2 * link + 1) (trainEnd (getLink s (2 * link + 1)) (agreedGen gb (trainFlit ga)))
/-- LINK_TRAINING: the route tables follow (R346). -/
def execLinkTraining (link ga gb : Nat) (s : State) : Host.Outcome State Fault Refusal :=
  .next (if link < 27 then pumpAll (pumpAll (computeRoutes (trainLink s link ga gb)) (2 * link)) (2 * link + 1) else s)

/-! ## Messages of class 3 (R344) -/

/-- The request or query that a tag names (R342). DESIGN CHOICE (log 76): its number modulo 4,096. -/
def byTag {α : Type} (m : SMap α) (tag : Nat) : Option Nat := (m.find? fun e => e.1 % 4096 == tag).map (·.1)
/-- An invalidation by range that reaches a die as a message (R63). -/
def invalMessage (m : Msg) (s : State) : Host.Outcome State Fault Refusal :=
  match byTag s.invals m.tag with
  | some r => execInvalidationByRange m.dst r s
  | none => .next s
/-- A drained report that comes as a message (R64). -/
def drainedMessage (m : Msg) (s : State) : Host.Outcome State Fault Refusal :=
  match byTag s.invals m.tag with
  | some r => execDrainedReport m.src r s
  | none => .next s
/-- A search probe that reaches a base die as a message: of the node asked for whose record begins in the message's line (R124). -/
def probeMessage (m : Msg) (s : State) : Host.Outcome State Fault Refusal :=
  match byTag s.qrys m.tag with
  | none => .next s
  | some id =>
    match mfind s.qrys id with
    | none => .next s
    | some q =>
      let at_ (n : Int) : Bool := match translate s (qXl q) .eread false (recordAt q n) 3 with
        | (.ok (u :: _), _) => lineOf (u.pa / 27) == m.line
        | _ => false
      match q.asked.find? fun a => a.2.isNone && at_ a.1 with
      | some a => execSearchProbe id a.1.toNat s
      | none => .next s
/-- MAILBOX_PACKET: a packet that another die sent reaches the plinth's mailbox (R177, R344). -/
def execMailboxPacket (m : Msg) (s : State) : Host.Outcome State Fault Refusal :=
  .next (match m.block with
    | none => s
    | some l =>
      match packetAny l with
      | none => s
      | some p => if m.dst < 9 then sendPacket s m.dst { p with lid := (launchAt s p.addr).getD 0 } else s)
where
  /-- The packet of a block, of any kind (R176, R245). -/
  packetAny (l : List Int) : Option Packet :=
    let x := ofNonets l
    let k := trits x 101 93
    match packetOf (blockOf (setTrits (setTrits x 8 0 0) 101 93 1)) with
    | none => none
    | some p =>
      if 1 ≤ k ∧ k ≤ 5 ∧ (4 ≤ k ∨ trits x 8 0 = 0) then some { p with kind := k.toNat, status := trits x 8 0 } else none

end Sys2Proof.Machine
end

