-- ==== Sys2Proof/Machine/Coherence.lean ====
section
/-! DEFINITION. Coherence across dies: the requests, snoops and responses of a line, at its home slice and at the dies
(13 R344, R349 to R351). The contents of memory stand in one place; home slices and die caches hold the standing of lines. -/

namespace Sys2Proof.Machine

open Sys2Proof

/-! ## Answers -/

/-- The line of a message of regions +1 to +3. -/
def msgLine (m : Msg) : Nat := m.line.toNat
/-- The home slice that a message reaches; none where its destination is no stack base die, or its address has no home slice (R77). -/
def homeAt (m : Msg) : Option Nat := if 9 ≤ m.dst ∧ m.dst < 18 ∧ 0 ≤ m.line then some (m.dst - 9) else none
/-- The compute die that a message about a line reaches. -/
def dieAt (m : Msg) : Option Nat := if m.dst < 9 ∧ 0 ≤ m.line then some m.dst else none
/-- The dies that hold a line, a die excepted. -/
def holders (e : DirEntry) (but : Option Nat) : List Nat :=
  match e with
  | .uncached => []
  | .shared ds => ds.filter fun d => some d != but
  | .owned d => if some d = but then [] else [d]
def isOwned : DirEntry → Bool
  | .owned _ => true
  | _ => false

/-- An answer to a message: it carries the tag of its request (R342). -/
def reply (m : Msg) (blocks : List Nat) : Msg :=
  { src := m.dst, dst := m.src, tag := m.tag, blocks := blocks, key := m.key, line := m.line }
/-- How a home slice reads a block for a request: with the key index of its message, in the view in which the die has asked. -/
def homeAttr (s : State) (m : Msg) : Attr :=
  { key := m.key, policy := 1, binary := decide (m.src < 9) && (getLine s m.src (msgLine m)).binary }
/-- The data of one block; a poisoned one's are marked so (R40, R88, R344). -/
def dataMsg (s : State) (m : Msg) (b : Nat) (bad : Bool) : Msg :=
  let d := blockData s (lineBlock (msgLine m) b) bad
  { reply m [b] with block := some d.1, poison := d.2 }
/-- The data of one block, or the error of its read (R40, R88, R344). -/
def sendData (h : Nat) (m : Msg) (s : State) (b : Nat) : State :=
  match readMemBlock s (lineBlock (msgLine m) b) (homeAttr s m) with
  | (.ok _, s) => sendMsg s (9 + h) 2 1 (dataMsg s m b false)
  | (.error c, s) =>
    if c ≤ 2 then sendMsg s (9 + h) 2 1 (dataMsg s m b true)
    else sendMsg s (9 + h) 2 5 { reply m [b] with errCode := 5, errCause := c }
/-- The error for which no data of a block can be sent. -/
def dataError (s : State) (m : Msg) (b : Nat) : Option Nat :=
  match (readMemBlock s (lineBlock (msgLine m) b) (homeAttr s m)).1 with
  | .error c => if c ≤ 2 then none else some c
  | .ok _ => none
def sendAck (s : State) (die : Nat) (m : Msg) : State := sendMsg s die 2 2 (reply m [])
/-- A block that a die returns stands in the home slice, which is to write it back, with its poison mark (R88, R350). Its contents stand
in one place, and are the latest already. -/
def storeBack (s : State) (m : Msg) : State :=
  match m.block, m.blocks with
  | some _, b :: _ => sliceFill s (lineBlock (msgLine m) b) (homeAttr s m) m.poison true
  | _, _ => s

/-! ## Transactions of a home slice (R350) -/

/-- The snoop that a request needs first, and the dies it goes to: for a partial write or an atomic every die that holds the line. -/
def snoopFor (op : Nat) (e : DirEntry) (src : Nat) : Nat × List Nat :=
  let hs := holders e (some src)
  if op = 1 then (2, if isOwned e then hs else [])
  else if op = 4 ∨ op = 7 then (3, if isOwned e then hs else [])
  else (if isOwned e then 3 else 1, if op = 5 ∨ op = 6 then holders e none else hs)
/-- The write of a die that a request of opcode 5 or 6 stands for (R342, R344). -/
def flightOf (s : State) (m : Msg) : Option Flight :=
  s.flights.find? fun f => f.die == m.src && f.tag == m.tag && lineOf f.block == msgLine m
/-- A partial write or an atomic is performed at the home slice, and answered: the one with an acknowledgement, the other with its
block (R344, R351). A whole block that no die of the package has sent is written as it comes. -/
def performWrite (s : State) (h op : Nat) (m : Msg) : State :=
  match flightOf s m with
  | some f =>
    let s := if f.landed then s else landFlight s f
    if op = 6 then sendMsg s (9 + h) 2 1 (dataMsg s m (blockIn f.block) f.bad) else sendAck s (9 + h) m
  | none =>
    match m.block, m.blocks with
    | some l, b :: _ =>
      sendAck (writeMemBlock s (lineBlock (msgLine m) b) { key := m.key } true (blockPlaces l) []) (9 + h) m
    | _, _ => sendAck s (9 + h) m
/-- The directory after a read of a die; host dies and base dies hold no lines (R349). -/
def sharedBy (e : DirEntry) (src : Nat) : DirEntry :=
  let others := holders e (some src)
  if src < 9 then (if e = .owned src then e else .shared (others ++ [src]))
  else if others = [] then .uncached else .shared others
/-- A die is given ownership of a line: an upgrade of a die that holds it is acknowledged, else the blocks are sent; where one of them
cannot be, the request fails (R344, R349, R350). -/
def grantOwned (s : State) (h op : Nat) (m : Msg) : State :=
  let e := getDir s h (msgLine m)
  let held : Bool := match e with | .shared ds => ds.contains m.src | .owned d => d == m.src | .uncached => false
  let own (s : State) : State := if m.src < 9 then setDir s h (msgLine m) (.owned m.src) else s
  if op = 3 ∧ held then sendAck (own s) (9 + h) m
  else
    let bs := if m.blocks = [] then List.range 3 else m.blocks
    match bs.findSome? (dataError s m) with
    | some c => sendMsg s (9 + h) 2 5 { reply m bs with errCode := 5, errCause := c }
    | none => bs.foldl (sendData h m) (own s)
/-- A request is performed: the directory, memory, and the answer (R349, R350). -/
def homeFinish (s : State) (h op : Nat) (m : Msg) : State :=
  let e := getDir s h (msgLine m)
  let left (s : State) : State := if e = .owned m.src then setDir s h (msgLine m) .uncached else s
  if op = 1 then m.blocks.foldl (sendData h m) (setDir s h (msgLine m) (sharedBy e m.src))
  else if op = 2 ∨ op = 3 then grantOwned s h op m
  else if op = 4 then sendAck (left (storeBack s m)) (9 + h) m
  else if op = 5 ∨ op = 6 then performWrite s h op m
  else sendAck (left s) (9 + h) m
/-- A request begins at a line that is not busy: it is performed, or the snoops that it needs are sent. -/
def homeStart (s : State) (h op : Nat) (m : Msg) (waiting : List (Nat × Msg)) : State :=
  let (k, ds) := snoopFor op (getDir s h (msgLine m)) m.src
  if ds = [] then homeFinish s h op m
  else
    let s := updStack s h fun q =>
      { q with busy := mset q.busy (msgLine m) { req := m, op := op, snoops := ds, waiting := waiting } }
    ds.foldl (fun s d => sendMsg s (9 + h) 1 k
      { src := 9 + h, dst := d, tag := m.tag, blocks := m.blocks, key := m.key, line := m.line }) s
/-- The requests that waited for a line begin in turn, until one needs snoops. -/
def homeDrain (h line : Nat) : List (Nat × Msg) → State → State
  | [], s => s
  | (op, m) :: t, s =>
    let s := homeStart s h op m t
    if (mfind (getStack s h).busy line).isSome then s else homeDrain h line t s
/-- With the last answer to its snoops a request is performed, and the next begins. A die that has answered holds the line shared after
a downgrade, else no longer; `gone` says that it has written the line back. -/
def homeAnswered (s : State) (h line src : Nat) (gone : Bool) : State :=
  match mfind (getStack s h).busy line with
  | none => s
  | some b =>
    let left := b.snoops.filter (· ≠ src)
    let e := getDir s h line
    let e' : DirEntry := match e with
      | .shared ds => if ds.filter (· ≠ src) = [] then .uncached else .shared (ds.filter (· ≠ src))
      | .owned d => if d ≠ src then e else if b.op = 1 && !gone then .shared [src] else .uncached
      | .uncached => e
    let s := setDir s h line e'
    if left ≠ [] then updStack s h fun k => { k with busy := mset k.busy line { b with snoops := left } }
    else
      let s := updStack s h fun k => { k with busy := mdel k.busy line }
      homeDrain h line b.waiting (homeFinish s h b.op b.req)
/-- A request reaches its home slice. A write-back from a die that is being snooped gives the line's value at once, and ends the
snoop where the die has said that it is on its way; every other request of a busy line waits (R350). -/
def homeRequest (op : Nat) (m : Msg) (s : State) : State :=
  match homeAt m with
  | none => s
  | some h =>
    match mfind (getStack s h).busy (msgLine m) with
    | none => homeStart s h op m []
    | some b =>
      if op = 4 ∧ b.snoops.contains m.src then
        let s := sendAck (storeBack s m) (9 + h) m
        if b.early.contains m.src then homeAnswered s h (msgLine m) m.src true
        else updStack s h fun k => { k with busy := mset k.busy (msgLine m) { b with came := b.came ++ [m.src] } }
      else updStack s h fun k => { k with busy := mset k.busy (msgLine m) { b with waiting := b.waiting ++ [(op, m)] } }
/-- A die's last answer to a snoop: `wrote` says that a write-back of its takes the place of the line's value; where that has not
reached the home slice, the snoop goes on until it has (R350). -/
def homeAnswer (s : State) (h : Nat) (m : Msg) (wrote : Bool) : State :=
  match mfind (getStack s h).busy (msgLine m) with
  | none => s
  | some b =>
    if !b.snoops.contains m.src then s
    else if wrote && !b.came.contains m.src then
      updStack s h fun k => { k with busy := mset k.busy (msgLine m) { b with early := b.early ++ [m.src] } }
    else homeAnswered s h (msgLine m) m.src wrote

/-- READ_SHARED (R344, R350). -/
def execReadShared (m : Msg) (s : State) : Host.Outcome State Fault Refusal := .next (homeRequest 1 m s)
/-- READ_OWNED (R344, R350). -/
def execReadOwned (m : Msg) (s : State) : Host.Outcome State Fault Refusal := .next (homeRequest 2 m s)
/-- UPGRADE (R344, R350): served as read owned where the die no longer holds the line. -/
def execUpgrade (m : Msg) (s : State) : Host.Outcome State Fault Refusal := .next (homeRequest 3 m s)
/-- WRITE_BACK (R344, R350). -/
def execWriteBack (m : Msg) (s : State) : Host.Outcome State Fault Refusal := .next (homeRequest 4 m s)
/-- PARTIAL_WRITE (R344, R350, R400). -/
def execPartialWrite (m : Msg) (s : State) : Host.Outcome State Fault Refusal := .next (homeRequest 5 m s)
/-- ATOMIC_REQUEST (R105, R344). -/
def execAtomicRequest (m : Msg) (s : State) : Host.Outcome State Fault Refusal := .next (homeRequest 6 m s)
/-- EVICTION_NOTICE (R344, R350). -/
def execEvictionNotice (m : Msg) (s : State) : Host.Outcome State Fault Refusal := .next (homeRequest 7 m s)

/-! ## Snoops at a die (R350, R351) -/

/-- The dirty blocks of a line are returned one by one. -/
def returnDirty (m : Msg) (c : CLine) (s : State) : State :=
  c.dirty.foldl (fun s b => sendMsg s m.dst 2 3 { dataMsg s m b (c.poison.contains b) with key := c.key }) s
/-- A snoop: a line whose write-back is under way is answered so; else dirty blocks are returned, the line is kept shared, or
dropped with every L1 copy, and the snoop is acknowledged. A request of the die for the line stays, and so do the writes that wait
for it (R350, R351). -/
def dieSnoop (keep : Bool) (m : Msg) (s : State) : State :=
  match dieAt m with
  | none => s
  | some d =>
    let c := getLine s d (msgLine m)
    let s := if keep then s else l1DropDie s d (msgLine m)
    if c.backs ≠ [] then sendMsg s d 2 4 (reply m [])
    else
      let s := returnDirty m c s
      let c' : CLine := if keep then { c with owned := false, dirty := [] }
        else { c with owned := false, dirty := [], blocks := []
                      poison := c.poison.filter fun i => c.pend.any fun p => p.2 == i }
      sendAck (setLine s d (msgLine m) (tidyLine c')) d m
/-- INVALIDATE (R344). -/
def execInvalidate (m : Msg) (s : State) : Host.Outcome State Fault Refusal := .next (dieSnoop false m s)
/-- DOWNGRADE (R344). -/
def execDowngrade (m : Msg) (s : State) : Host.Outcome State Fault Refusal := .next (dieSnoop true m s)
/-- FETCH_AND_INVALIDATE (R344). -/
def execFetchAndInvalidate (m : Msg) (s : State) : Host.Outcome State Fault Refusal := .next (dieSnoop false m s)

/-! ## Responses (R344) -/

/-- Groups of a core that wait for its writes to be performed try again. -/
def wakeOwn (s : State) (core : Nat) : State :=
  (getCore s core).groups.foldl (fun s e => if e.2.wait = some .own then wakeGroup s core e.1 else s) s
/-- Writes of a die have been performed at package scope: what has waited for them goes on: releases and fences (R351), exchanges with
shadow banks (R192), reports of drained agents (R64), the ends of pieces (R111). -/
def writesPerformed (s : State) (die : Nat) : State :=
  let s := ((dieCores die).filter fun c => (mfind s.cores c).isSome).foldl (fun s c => trySwap (wakeOwn s c) c) s
  (getDie s die).shares.foldl (fun s h => checkPiece s die h.lid) (drainAgain s die)
/-- A line of a die goes on: it asks for ownership where writes wait in it; one that it owns for nothing leaves (R350, R351). -/
def lineNext (s : State) (die line : Nat) : State :=
  let c := getLine s die line
  if c.pend ≠ [] then askOwned s die line
  else
    let s := if c.owned && c.blocks.isEmpty && c.asks.isEmpty && c.backs.isEmpty then evictLine s die line else s
    writesPerformed s die
/-- The write or atomic of a die that a response ends is no longer on its way. -/
def flightDone (s : State) (die : Nat) (m : Msg) : State :=
  match s.flights.find? fun f => f.die == die && f.tag == m.tag && lineOf f.block == msgLine m with
  | some f => writesPerformed { s with flights := s.flights.erase f } die
  | none => s
/-- A line no longer waits for the answer to a request: what makes the die its owner merges the writes that waited (R350). -/
def answered (c : CLine) (a : Ask) : CLine :=
  let asks := c.asks.erase a
  let c := { c with asks := asks, stale := c.stale && !asks.isEmpty }
  if a.op = 2 ∨ a.op = 3 then takeOwned c else c
/-- Blocks that a die has asked for come: they are held, with the mark of their message, unless the line has left meanwhile; what
writes that wait have written keeps its own. -/
def takeBlocks (c : CLine) (a : Ask) (m : Msg) : CLine :=
  let bs := m.blocks.filter a.blocks.contains
  let fresh := bs.filter fun i => !c.pend.any fun p => p.2 == i
  let c := if c.stale then c
    else { c with blocks := (List.range 3).filter fun i => c.blocks.contains i || bs.contains i
                  poison := fresh.foldl (fun l i => withMark l i m.poison) c.poison }
  let left := a.blocks.filter fun i => !bs.contains i
  if left = [] then answered c a else { c with asks := c.asks.map fun o => if o = a then { a with blocks := left } else o }
/-- The request of a die's line that a response is paired with by its tag (R342). -/
def askOf (c : CLine) (m : Msg) : Option Ask := c.asks.find? fun a => a.tag == m.tag

/-- DATA: blocks fill the line of the die that asked for them, which owns the line where it asked to, or end its atomic; at a home slice
it ends a snoop. -/
def execData (m : Msg) (s : State) : Host.Outcome State Fault Refusal :=
  .next (match homeAt m, dieAt m with
    | some h, _ => homeAnswer s h m false
    | none, none => s
    | none, some d =>
      let c := getLine s d (msgLine m)
      match askOf c m with
      | some a => lineNext (setLine s d (msgLine m) (tidyLine (takeBlocks c a m))) d (msgLine m)
      | none => flightDone s d m)
/-- ACKNOWLEDGE: at a home slice the end of a snoop; at a die an upgrade is granted, a write-back or eviction is over, or a write has
been performed. -/
def execAcknowledge (m : Msg) (s : State) : Host.Outcome State Fault Refusal :=
  .next (match homeAt m, dieAt m with
    | some h, _ => homeAnswer s h m false
    | none, none => s
    | none, some d =>
      let c := getLine s d (msgLine m)
      match askOf c m with
      | some a => lineNext (setLine s d (msgLine m) (tidyLine (answered c a))) d (msgLine m)
      | none =>
        if c.backs.contains m.tag then
          lineNext (setLine s d (msgLine m) (tidyLine { c with backs := c.backs.erase m.tag })) d (msgLine m)
        else flightDone s d m)
/-- DATA_DIRTY: a dirty block that a snooped die returns is the line's value; its acknowledgement follows. -/
def execDataDirty (m : Msg) (s : State) : Host.Outcome State Fault Refusal :=
  .next (match homeAt m with
    | none => s
    | some h =>
      match mfind (getStack s h).busy (msgLine m) with
      | some b => if b.snoops.contains m.src then storeBack s m else s
      | none => s)
/-- ACKNOWLEDGE_ALREADY_WRITTEN_BACK: the snoop crossed the die's write-back (R350). -/
def execAcknowledgeAlreadyWrittenBack (m : Msg) (s : State) : Host.Outcome State Fault Refusal :=
  .next (match homeAt m with
    | some h => homeAnswer s h m true
    | none => s)
/-- ERROR_RESPONSE: the request of a die has failed; nothing is held for it, and no write waits for ownership that it asked for
(R344). -/
def execErrorResponse (m : Msg) (s : State) : Host.Outcome State Fault Refusal :=
  .next (match dieAt m with
    | none => s
    | some d =>
      let c := getLine s d (msgLine m)
      match askOf c m with
      | none => flightDone s d m
      | some a =>
        let left := a.blocks.filter fun i => !m.blocks.contains i
        let asks := if left = [] ∨ m.blocks = [] then c.asks.erase a
          else c.asks.map fun o => if o = a then { a with blocks := left } else o
        let c := { c with asks := asks, stale := c.stale && !asks.isEmpty, pend := if a.op = 1 then c.pend else [] }
        lineNext (setLine (l1DropDie s d (msgLine m)) d (msgLine m) (tidyLine c)) d (msgLine m))

end Sys2Proof.Machine
end

