-- ==== Sys2Proof/Machine/Cross.lean ====
section
/-! DEFINITION. Cross-lane operations: permutations, reductions and scans over the slots of a group (10 R261 to R263). -/

namespace Sys2Proof.Machine

open Sys2Proof

/-- A cross-lane instruction of a group; a range casts at it (R250). -/
def crossOp (s : State) (f : Issue → Group → State) : Host.Outcome State Fault Refusal :=
  inIssue s fun i s => if i.guard = [] then s else groupOnly s i fun _ g => f i g

/-- Is an operand of class Vu a register that is not uniform? (R249) -/
def notUniform (v : VReg) : Opd → Bool
  | .reg _ => !isU v
  | _ => false

/-- The items that a permutation sees: every one of the group, and in a trap handler those of the lanes that were active at the trap.
DEDUCED (log 64): the other slots read there as empty ones (R261, R317). -/
def seenItems (g : Group) : SMap Item :=
  match if g.r.tr.inHandler then g.kept else none with
  | some k => g.items.filter fun e => k.active.contains e.1
  | none => g.items

/-- A permutation by a uniform operand: `f` gives the result of its source and the operand's value (R262). -/
def permOp (s : State) (d : Dst) (a b : Opd) (f : Issue → Group → VReg → Int → VReg) :
    Host.Outcome State Fault Refusal :=
  crossOp s fun i g =>
    let vb := vsrc s i g.width b
    if notUniform vb b then illegalForm s i
    else vwrite s i d (f i g (vsrc s i g.width a) (uVal vb)) Flags.none

/-- Residue of a slot number (R262). -/
def slotMod (g : Group) (x : Int) : Nat := (x % g.width).toNat
/-- `rot` (R262): a uniform source stays uniform. -/
def execRot (d : Dst) (a b : Opd) (s : State) : Host.Outcome State Fault Refusal :=
  permOp s d a b fun i g v k =>
    if isU v then v else lanesOf g.width i.guard fun l => laneVal v (seenItems g) (slotMod g (l - k))
/-- `slide` (R262). -/
def execSlide (d : Dst) (a b : Opd) (s : State) : Host.Outcome State Fault Refusal :=
  permOp s d a b fun i g v k =>
    if isU v && (decide (k = 0) || decide (uVal v = 0)) then v
    else lanesOf g.width i.guard fun l =>
      if 0 ≤ (l : Int) - k ∧ (l : Int) - k < g.width then laneVal v (seenItems g) ((l : Int) - k).toNat else 0
/-- `bcast` (R262). -/
def execBcast (d : Dst) (a b : Opd) (s : State) : Host.Outcome State Fault Refusal :=
  permOp s d a b fun _ g v k => .u (laneVal v (seenItems g) (slotMod g k))
/-- `shfl` (R262): each lane names its slot. -/
def execShfl (d : Dst) (a b : Opd) (s : State) : Host.Outcome State Fault Refusal :=
  crossOp s fun i g =>
    let v := vsrc s i g.width a
    let vb := vsrc s i g.width b
    vwrite s i d (if isU v then v else
      lanesOf g.width i.guard fun l => laneVal v (seenItems g) (slotMod g (laneVal vb g.items l))) Flags.none

/-! ## Reductions and scans (R263) -/

/-- A reduction of the participating lanes' values: one result for all of them. -/
def reduceOp (s : State) (d : Dst) (a : Opd) (f : List Int → Int × Flags) : Host.Outcome State Fault Refusal :=
  crossOp s fun i g =>
    let v := vsrc s i g.width a
    let r := f (i.guard.map fun l => laneVal v g.items l)
    vwrite s i d (.u r.1) r.2
/-- A scan: each participating lane takes the combination of those at its slot and below. -/
def scanOp (s : State) (d : Dst) (a : Opd) (f : List Int → Int × Flags) : Host.Outcome State Fault Refusal :=
  crossOp s fun i g =>
    let v := vsrc s i g.width a
    let at_ (l : Nat) := f ((i.guard.filter (· ≤ l)).map fun k => laneVal v g.items k)
    vwrite s i d (lanesOf g.width i.guard fun l => (at_ l).1) (allFlags (i.guard.map fun l => (at_ l).2))

/-- Combinations without flags. -/
def plainRes (f : List Int → Int) (l : List Int) : Int × Flags := (f l, Flags.none)
def listMin : List Int → Int
  | [] => 0
  | [a] => a
  | a :: t => min a (listMin t)
def listMax : List Int → Int
  | [] => 0
  | [a] => a
  | a :: t => max a (listMax t)
/-- The exact sum of T27 values, rounded once. -/
def fsum (l : List FVal) : FRes :=
  let pos := l.contains (.inf false)
  let neg := l.contains (.inf true)
  if l.contains .nan then { enc := fNaN fmtT27 }
  else if pos && neg then finvalid fmtT27
  else if pos || neg then { enc := fInf fmtT27 neg }
  else fround fmtT27 (l.foldl addFin { num := 0 })
/-- Floating minimum and maximum of a list. -/
def listF (f : FVal → FVal → FVal) : List FVal → FVal
  | [] => .nan
  | [a] => a
  | a :: t => f a (listF f t)

/-- `radd`: wrapping sum (R263). -/
def execRadd (d : Dst) (a : Opd) (s : State) : Host.Outcome State Fault Refusal :=
  reduceOp s d a (plainRes fun l => wrap 27 l.sum)
/-- `radds`: saturating sum (R263). -/
def execRadds (d : Dst) (a : Opd) (s : State) : Host.Outcome State Fault Refusal :=
  reduceOp s d a (plainRes fun l => sat 27 l.sum)
/-- `rmin`: least value (R263). -/
def execRmin (d : Dst) (a : Opd) (s : State) : Host.Outcome State Fault Refusal :=
  reduceOp s d a (plainRes listMin)
/-- `rmax`: greatest value (R263). -/
def execRmax (d : Dst) (a : Opd) (s : State) : Host.Outcome State Fault Refusal :=
  reduceOp s d a (plainRes listMax)
/-- `rfadd`: exact T27 sum, rounded once (R263). -/
def execRfadd (d : Dst) (a : Opd) (s : State) : Host.Outcome State Fault Refusal :=
  reduceOp s d a (fun l => fres (fsum (l.map t27)))
/-- `rfmin`: T27 minimum (R263). -/
def execRfmin (d : Dst) (a : Opd) (s : State) : Host.Outcome State Fault Refusal :=
  reduceOp s d a (fun l => fres (fput fmtT27 (listF fminV (l.map t27))))
/-- `rfmax`: T27 maximum (R263). -/
def execRfmax (d : Dst) (a : Opd) (s : State) : Host.Outcome State Fault Refusal :=
  reduceOp s d a (fun l => fres (fput fmtT27 (listF fmaxV (l.map t27))))
/-- `kcnt` (R263): how many participating lanes hold the trit. -/
def execKcnt (d : Dst) (a : Nat) (b : Int) (s : State) : Host.Outcome State Fault Refusal :=
  crossOp s fun i _ =>
    vwrite s i d (.u ((i.guard.filter fun l => decide (maskTrit (srcRegs s i) a l = b)).length : Int)) Flags.none
/-- `kfirst` (R263): the lowest participating slot whose trit is +, or -1. -/
def execKfirst (d : Dst) (a : Nat) (s : State) : Host.Outcome State Fault Refusal :=
  crossOp s fun i _ =>
    vwrite s i d (.u (match i.guard.find? fun l => decide (maskTrit (srcRegs s i) a l = 1) with
      | some l => (l : Int)
      | none => -1)) Flags.none
/-- `sadd`: scan of wrapping sums (R263). -/
def execSadd (d : Dst) (a : Opd) (s : State) : Host.Outcome State Fault Refusal :=
  scanOp s d a (plainRes fun l => wrap 27 l.sum)
/-- `sadds`: scan of saturating sums (R263). -/
def execSadds (d : Dst) (a : Opd) (s : State) : Host.Outcome State Fault Refusal :=
  scanOp s d a (plainRes fun l => sat 27 l.sum)
/-- `smin`: scan of least values (R263). -/
def execSmin (d : Dst) (a : Opd) (s : State) : Host.Outcome State Fault Refusal :=
  scanOp s d a (plainRes listMin)
/-- `smax`: scan of greatest values (R263). -/
def execSmax (d : Dst) (a : Opd) (s : State) : Host.Outcome State Fault Refusal :=
  scanOp s d a (plainRes listMax)
/-- `sfadd`: scan of exact T27 sums, each rounded once (R263). -/
def execSfadd (d : Dst) (a : Opd) (s : State) : Host.Outcome State Fault Refusal :=
  scanOp s d a (fun l => fres (fsum (l.map t27)))

end Sys2Proof.Machine
end

