-- ==== Sys2Proof/Machine/Aes.lean ====
section
/-! DEFINITION. AES-256 decryption as FIPS 197 defines it, and the key unwrap of RFC 3394, which key slots are loaded by (13 R361).
Bytes are numbers below 256; a block is 16 bytes, column by column. -/

namespace Sys2Proof.Machine

open Sys2Proof

/-! ## The field of 256 elements -/

/-- The double of an element, and the product of two. -/
def xtime (a : Nat) : Nat := if a < 128 then 2 * a else Nat.xor (2 * a - 256) 27
def gmulGo : Nat → Nat → Nat → Nat
  | 0, _, _ => 0
  | n + 1, a, b => Nat.xor (if b % 2 = 1 then a else 0) (gmulGo n (xtime a) (b / 2))
def gmul (a b : Nat) : Nat := gmulGo 8 a b
/-- The inverse of an element, 0 of 0: its power 254. -/
def ginv (a : Nat) : Nat :=
  let a2 := gmul a a
  let a4 := gmul a2 a2
  let a8 := gmul a4 a4
  let a16 := gmul a8 a8
  let a32 := gmul a16 a16
  let a64 := gmul a32 a32
  let a128 := gmul a64 a64
  gmul a128 (gmul a64 (gmul a32 (gmul a16 (gmul a8 (gmul a4 a2)))))
/-- The substitution of a byte, and its inverse. -/
def subByte (a : Nat) : Nat :=
  let b := ginv a
  let bit (n i : Nat) : Nat := n / 2 ^ (i % 8) % 2
  ((List.range 8).map fun i =>
    (bit b i + bit b (i + 4) + bit b (i + 5) + bit b (i + 6) + bit b (i + 7) + bit 99 i) % 2 * 2 ^ i).sum
def invSubByte (y : Nat) : Nat := ((List.range 256).find? fun a => subByte a == y).getD 0

/-! ## The inverse cipher -/

def xorBytes (a b : List Nat) : List Nat := (a.zip b).map fun p => Nat.xor p.1 p.2
/-- The next word of the key schedule: word `i`, after the words that stand before it, the last first. -/
def nextKeyWord (ws : List (List Nat)) (i : Nat) : List Nat :=
  let t := ws.headD []
  let t :=
    if i % 8 = 0 then
      xorBytes ((t.drop 1 ++ t.take 1).map subByte) [(List.range (i / 8 - 1)).foldl (fun a _ => xtime a) 1, 0, 0, 0]
    else if i % 8 = 4 then t.map subByte else t
  xorBytes (ws.getD 7 []) t
/-- The fifteen round keys of a key of 32 bytes. -/
def roundKeys (key : List Nat) : List (List Nat) :=
  let first := ((List.range 8).map fun i => (key.drop (4 * i)).take 4).reverse
  let ws := ((List.range 52).foldl (fun ws i => nextKeyWord ws (i + 8) :: ws) first).reverse
  (List.range 15).map fun r => ((ws.drop (4 * r)).take 4).flatten
def invShiftRows (b : List Nat) : List Nat := (List.range 16).map fun i => b.getD ((i + 16 - 4 * (i % 4)) % 16) 0
def invMixColumns (b : List Nat) : List Nat :=
  (List.range 16).map fun i =>
    let c := i / 4 * 4
    let at_ (k : Nat) : Nat := b.getD (c + (i + k) % 4) 0
    Nat.xor (Nat.xor (gmul (at_ 0) 14) (gmul (at_ 1) 11)) (Nat.xor (gmul (at_ 2) 13) (gmul (at_ 3) 9))
/-- A block deciphered under round keys. -/
def aesDecrypt (ks : List (List Nat)) (b : List Nat) : List Nat :=
  let sub (b : List Nat) : List Nat := (invShiftRows b).map invSubByte
  let b := xorBytes b (ks.getD 14 [])
  let b := ((List.range 13).map fun r => 13 - r).foldl (fun b r => invMixColumns (xorBytes (sub b) (ks.getD r []))) b
  xorBytes (sub b) (ks.getD 0 [])

/-! ## The key unwrap -/

/-- The bytes of a number of 64 bits, the most significant first. -/
def beBytes (x : Nat) : List Nat := (List.range 8).map fun i => x / 256 ^ (7 - i) % 256
/-- One step of the unwrap: step `t`, of the register `i`. -/
def unwrapStep (ks : List (List Nat)) (a : List Nat) (r : List (List Nat)) (t i : Nat) : List Nat × List (List Nat) :=
  let b := aesDecrypt ks (xorBytes a (beBytes t) ++ r.getD i [])
  (b.take 8, r.set i (b.drop 8))
/-- The data that a wrapped blob holds under a key of 32 bytes; none where its check fails. -/
def aesUnwrap (key blob : List Nat) : Option (List Nat) :=
  let n := blob.length / 8 - 1
  let ks := roundKeys key
  let out := ((List.range (6 * n)).map fun j => 6 * n - j).foldl (fun (p : List Nat × List (List Nat)) t =>
      unwrapStep ks p.1 p.2 t ((t - 1) % n))
    (blob.take 8, (List.range n).map fun i => (blob.drop (8 * i + 8)).take 8)
  if out.1 = List.replicate 8 166 then some out.2.flatten else none

end Sys2Proof.Machine
end

