-- ==== Sys2Proof/Machine/Hash.lean ====
section
/-! DEFINITION. The Keccak permutation, which FIPS 202 defines, its hashes and extendable outputs, and KMAC256 of SP 800-185, which the transport key
is formed with (13 R362). Bytes are numbers below 256. -/

namespace Sys2Proof.Machine

open Sys2Proof

/-! ## The permutation -/

/-- The state: 25 lanes of 64 bits, the one in column `x` of plane `y` at place x + 5 y. -/
abbrev KState := List (BitVec 64)
def laneAt (a : KState) (x y : Nat) : BitVec 64 := a.getD (x % 5 + 5 * (y % 5)) 0
/-- The state whose lanes a function of column and plane gives. -/
def byPlace (f : Nat → Nat → BitVec 64) : KState := (List.range 25).map fun i => f (i % 5) (i / 5)
/-- Theta: each lane takes up the parities of the columns beside its own, the one on the right turned by one place. -/
def theta (a : KState) : KState :=
  let parity (x : Nat) : BitVec 64 := (List.range 5).foldl (fun v y => v ^^^ laneAt a x y) 0
  byPlace fun x y => laneAt a x y ^^^ parity (x + 4) ^^^ (parity (x + 1)).rotateLeft 1
/-- Rho and pi in one walk: from column 1 of plane 0 on, the lane at (x, y) goes to (y, 2x + 3y), where the walk goes too, turned by the
next triangular number. The lane at (0, 0) stays. -/
def rhoPi (a : KState) : KState := walk 24 1 0 1 a
where
  walk : Nat → Nat → Nat → Nat → KState → KState
    | 0, _, _, _, b => b
    | n + 1, x, y, t, b =>
      let z := (2 * x + 3 * y) % 5
      walk n y z (t + 1) (b.set (y + 5 * z) ((laneAt a x y).rotateLeft (t * (t + 1) / 2 % 64)))
/-- Chi. -/
def chi (a : KState) : KState := byPlace fun x y => laneAt a x y ^^^ (laneAt a (x + 2) y &&& ~~~laneAt a (x + 1) y)
/-- A step of the register of eight bits that the constants are drawn from: x^8 is x^6 + x^5 + x^4 + 1. -/
def lfsr (r : Nat) : Nat := if r < 128 then 2 * r else Nat.xor (2 * r - 256) 113
/-- Iota: seven bits of the register are added to lane (0, 0), the `j`th at place 2^j - 1. The register follows. -/
def iota (a : KState) (r : Nat) : KState × Nat :=
  (List.range 7).foldl (fun p j =>
    (if p.2 % 2 = 1 then p.1.set 0 (laneAt p.1 0 0 ^^^ BitVec.ofNat 64 (2 ^ (2 ^ j - 1))) else p.1, lfsr p.2)) (a, r)
/-- The permutation of 24 rounds. -/
def keccakF (a : KState) : KState := ((List.range 24).foldl (fun p _ => iota (chi (rhoPi (theta p.1))) p.2) (a, 1)).1

/-! ## The sponge -/

/-- The number that bytes hold, the least significant first; the bytes of a number. -/
def ofBytes : List Nat → Nat
  | [] => 0
  | b :: t => b + 256 * ofBytes t
def toBytes : Nat → Nat → List Nat
  | 0, _ => []
  | n + 1, x => x % 256 :: toBytes n (x / 256)
/-- Lists of `n` elements, one after another; the last may be shorter. -/
def chunks {α : Type} (n : Nat) : Nat → List α → List (List α)
  | 0, _ => []
  | k + 1, l => if l.isEmpty then [] else l.take n :: chunks n k (l.drop n)
/-- A block is absorbed. -/
def absorb (a : KState) (block : List Nat) : KState :=
  keccakF ((List.range 25).map fun i => a.getD i 0 ^^^ BitVec.ofNat 64 (ofBytes ((block.drop (8 * i)).take 8)))
/-- The message with its suffix and padding. -/
def padded (rate suffix : Nat) (m : List Nat) : List Nat :=
  let z := rate - 1 - m.length % rate
  if z = 0 then m ++ [suffix + 128] else m ++ suffix :: List.replicate (z - 1) 0 ++ [128]
/-- Blocks of output. -/
def squeeze (rate : Nat) : Nat → KState → List Nat
  | 0, _ => []
  | n + 1, a => (a.flatMap fun v => toBytes 8 v.toNat).take rate ++ squeeze rate n (keccakF a)
/-- The first `n` bytes of a sponge's output. -/
def sponge (rate suffix : Nat) (m : List Nat) (n : Nat) : List Nat :=
  let p := padded rate suffix m
  (squeeze rate ((n + rate - 1) / rate) ((chunks rate p.length p).foldl absorb (List.replicate 25 0))).take n

/-! ## Hashes -/

def sha3_256 (m : List Nat) : List Nat := sponge 136 6 m 32
def sha3_512 (m : List Nat) : List Nat := sponge 72 6 m 64
def shake128 (m : List Nat) (n : Nat) : List Nat := sponge 168 31 m n
def shake256 (m : List Nat) (n : Nat) : List Nat := sponge 136 31 m n

/-- The least number of bytes, at least one, that hold a number below 2^64. -/
def byteCount (x : Nat) : Nat := ((List.range 8).find? fun n => decide (x < 256 ^ (n + 1))).getD 7 + 1
def leftEncode (x : Nat) : List Nat := byteCount x :: (toBytes (byteCount x) x).reverse
def rightEncode (x : Nat) : List Nat := (toBytes (byteCount x) x).reverse ++ [byteCount x]
def encodeString (l : List Nat) : List Nat := leftEncode (8 * l.length) ++ l
def bytepad (l : List Nat) (w : Nat) : List Nat :=
  let x := leftEncode w ++ l
  x ++ List.replicate ((w - x.length % w) % w) 0
/-- The bytes of a text of ASCII characters. -/
def ascii (t : String) : List Nat := t.toList.map fun c => c.toNat
/-- KMAC256 of a message under a key, `n` bytes, with a customisation string. -/
def kmac256 (key m : List Nat) (n : Nat) (custom : String) : List Nat :=
  sponge 136 4 (bytepad (encodeString (ascii "KMAC") ++ encodeString (ascii custom)) 136 ++ bytepad (encodeString key) 136 ++ m ++
    rightEncode (8 * n)) n

end Sys2Proof.Machine
end

