-- ==== Sys2Proof/Machine/Kem.lean ====
section
/-! DEFINITION. ML-KEM-1024 as FIPS 203 defines it: key generation and decapsulation, by which the transport key is agreed (13 R362).
A polynomial is the list of its 256 coefficients, numbers below 3,329. -/

namespace Sys2Proof.Machine

open Sys2Proof

/-! ## Polynomials -/

/-- The modulus. -/
def kq : Nat := 3329
def polyAdd (a b : List Nat) : List Nat := (a.zip b).map fun p => (p.1 + p.2) % kq
def polySub (a b : List Nat) : List Nat := (a.zip b).map fun p => (p.1 + kq - p.2) % kq
/-- The seven bits of a number, reversed. -/
def bitRev7 (i : Nat) : Nat := ((List.range 7).map fun j => i / 2 ^ j % 2 * 2 ^ (6 - j)).sum
/-- A power modulo 3,329. -/
def powMod (a n : Nat) : Nat := (List.range n).foldl (fun x _ => x * a % kq) 1
/-- The powers of 17 that the transform uses. -/
def zeta (i : Nat) : Nat := powMod 17 (bitRev7 i)
/-- One layer of the transform: butterflies over pairs `len` apart, the `j`th block of `2 len` with root number `128 / len + j`. -/
def nttLayer (f : List Nat) (len : Nat) : List Nat :=
  (List.range (128 / len)).flatMap fun j =>
    let b := (f.drop (2 * len * j)).take (2 * len)
    let z := zeta (128 / len + j)
    let t := (b.drop len).map fun x => z * x % kq
    polyAdd (b.take len) t ++ polySub (b.take len) t
/-- The transform. -/
def ntt (f : List Nat) : List Nat := [128, 64, 32, 16, 8, 4, 2].foldl nttLayer f
/-- One layer of the inverse transform. -/
def nttLayerInv (f : List Nat) (len : Nat) : List Nat :=
  (List.range (128 / len)).flatMap fun j =>
    let b := (f.drop (2 * len * j)).take (2 * len)
    let z := zeta (256 / len - 1 - j)
    polyAdd (b.take len) (b.drop len) ++ (polySub (b.drop len) (b.take len)).map fun x => z * x % kq
/-- The inverse transform. -/
def nttInv (f : List Nat) : List Nat := ([2, 4, 8, 16, 32, 64, 128].foldl nttLayerInv f).map fun x => x * 3303 % kq
/-- The product of two transforms. -/
def nttMul (f g : List Nat) : List Nat :=
  (List.range 128).flatMap fun i =>
    let a0 := f.getD (2 * i) 0
    let a1 := f.getD (2 * i + 1) 0
    let b0 := g.getD (2 * i) 0
    let b1 := g.getD (2 * i + 1) 0
    [(a0 * b0 + a1 * b1 % kq * powMod 17 (2 * bitRev7 i + 1)) % kq, (a0 * b1 + a1 * b0) % kq]
/-- The product of two vectors of transforms. -/
def nttDot (u v : List (List Nat)) : List Nat := (u.zip v).foldl (fun s p => polyAdd s (nttMul p.1 p.2)) (List.replicate 256 0)

/-! ## Sampling and encoding -/

/-- The coefficients below 3,329 among the pairs of 12-bit numbers that triples of bytes hold. -/
def rejectSample : List Nat → List Nat
  | a :: b :: c :: t =>
    let d := a + 256 * (b % 16)
    let e := b / 16 + 16 * c
    (if d < kq then [d] else []) ++ (if e < kq then [e] else []) ++ rejectSample t
  | _ => []
/-- A transform sampled from a seed and two indices; the bound on the bytes drawn is that of FIPS 203, appendix B. -/
def sampleNtt (seed : List Nat) (j i : Nat) : List Nat := (rejectSample (shake128 (seed ++ [j, i]) 840)).take 256
/-- A polynomial of small coefficients, from 128 bytes. -/
def sampleCbd (l : List Nat) : List Nat :=
  l.flatMap fun b =>
    let bit (i : Nat) : Nat := b / 2 ^ i % 2
    [(bit 0 + bit 1 + kq - bit 2 - bit 3) % kq, (bit 4 + bit 5 + kq - bit 6 - bit 7) % kq]
/-- The `n`th small polynomial of a seed. -/
def smallPoly (seed : List Nat) (n : Nat) : List Nat := sampleCbd (shake256 (seed ++ [n]) 128)
/-- Coefficients of `d` bits as bytes, and back. -/
def byteEncode (d : Nat) (f : List Nat) : List Nat := toBytes (32 * d) (f.foldr (fun c x => c + 2 ^ d * x) 0)
def byteDecode (d : Nat) (l : List Nat) : List Nat :=
  let x := ofBytes l
  (List.range 256).map fun i => let c := x / 2 ^ (d * i) % 2 ^ d; if d = 12 then c % kq else c
def compress (d x : Nat) : Nat := (2 ^ d * x * 2 + kq) / (2 * kq) % 2 ^ d
def decompress (d y : Nat) : Nat := (2 * kq * y + 2 ^ d) / (2 * 2 ^ d)
/-- Four parts of a list, `n` long each. -/
def fourOf (n : Nat) (l : List Nat) : List (List Nat) := (List.range 4).map fun i => (l.drop (n * i)).take n
/-- The matrix of a seed: row `i` of 4. -/
def kemRow (seed : List Nat) (i : Nat) : List (List Nat) := (List.range 4).map fun j => sampleNtt seed j i
/-- Column `j`. -/
def kemCol (seed : List Nat) (j : Nat) : List (List Nat) := (List.range 4).map fun i => sampleNtt seed j i

/-! ## The scheme -/

/-- The encapsulation key and the decapsulation key of two random seeds of 32 bytes. -/
def kemKeyGen (d z : List Nat) : List Nat × List Nat :=
  let g := sha3_512 (d ++ [4])
  let rho := g.take 32
  let s := (List.range 4).map fun i => ntt (smallPoly (g.drop 32) i)
  let t := (List.range 4).map fun i => polyAdd (nttDot (kemRow rho i) s) (ntt (smallPoly (g.drop 32) (4 + i)))
  let ek := (t.flatMap fun f => byteEncode 12 f) ++ rho
  (ek, (s.flatMap fun f => byteEncode 12 f) ++ ek ++ sha3_256 ek ++ z)
/-- The ciphertext of a message of 32 bytes with the randomness `r`. -/
def kemEncrypt (ek m r : List Nat) : List Nat :=
  let t := (fourOf 384 ek).map (byteDecode 12)
  let rho := ek.drop 1536
  let y := (List.range 4).map fun i => ntt (smallPoly r i)
  let u := (List.range 4).map fun i => polyAdd (nttInv (nttDot (kemCol rho i) y)) (smallPoly r (4 + i))
  let mu := (byteDecode 1 m).map (decompress 1)
  let v := polyAdd (polyAdd (nttInv (nttDot t y)) (smallPoly r 8)) mu
  (u.flatMap fun f => byteEncode 11 (f.map (compress 11))) ++ byteEncode 5 (v.map (compress 5))
/-- The message of a ciphertext under the first 1,536 bytes of a decapsulation key. -/
def kemDecrypt (dk c : List Nat) : List Nat :=
  let u := (fourOf 352 c).map fun l => (byteDecode 11 l).map (decompress 11)
  let v := (byteDecode 5 (c.drop 1408)).map (decompress 5)
  let s := (fourOf 384 dk).map (byteDecode 12)
  byteEncode 1 ((polySub v (nttInv (nttDot s (u.map ntt)))).map (compress 1))
/-- The shared secret of a ciphertext of 1,568 bytes; of a wrong one the secret of the implicit rejection. -/
def kemDecaps (dk c : List Nat) : List Nat :=
  let ek := (dk.drop 1536).take 1568
  let m := kemDecrypt dk c
  let g := sha3_512 (m ++ (dk.drop 3104).take 32)
  if kemEncrypt ek m (g.drop 32) = c then g.take 32 else shake256 (dk.drop 3136 ++ c) 32

end Sys2Proof.Machine
end

