-- ==== Sys2Proof/Machine/Xmss.lean ====
section
/-! DEFINITION. XMSS-SHAKE256_20_256 as RFC 8391 and SP 800-208 define it: the signature of a report (13 R362). Its hashes give 32
bytes, its chains have 16 values, its tree 2^20 leaves. -/

namespace Sys2Proof.Machine

open Sys2Proof

/-! ## Keyed hashes and addresses -/

/-- The bytes of a number, the most significant first. -/
def bigBytes (n x : Nat) : List Nat := (toBytes n x).reverse
/-- The function of a kind under a key: 0 F, 1 H, 2 that of messages, 3 and 4 the pseudorandom ones of addresses and of secrets. -/
def xHash (kind : Nat) (key m : List Nat) : List Nat := shake256 (bigBytes 32 kind ++ key ++ m) 32
/-- An address, of the kind of a chain 0, of the tree above a one-time key 1, of the hash tree 2, with three words and the word for
key or mask. -/
def xAddr (kind a b c d : Nat) : List Nat := bigBytes 12 0 ++ [kind, a, b, c, d].flatMap (bigBytes 4)
def xMask (a b : List Nat) : List Nat := (a.zip b).map fun p => Nat.xor p.1 p.2

/-- The seed of the public key, those of the secret keys, and that of the messages' randomness: the identity key. -/
structure XKey where
  pub : List Nat
  secret : List Nat
  prf : List Nat
  deriving DecidableEq, Repr

/-- Two nodes are hashed to one, under their address without its last word. -/
def xJoin (k : XKey) (at_ : Nat → List Nat) (l r : List Nat) : List Nat :=
  xHash 1 (xHash 3 k.pub (at_ 0)) (xMask l (xHash 3 k.pub (at_ 1)) ++ xMask r (xHash 3 k.pub (at_ 2)))

/-! ## One-time keys -/

/-- `n` steps of chain `i` of one-time key `leaf`, from step `j` on. -/
def xChain (k : XKey) (leaf i : Nat) : Nat → Nat → List Nat → List Nat
  | 0, _, x => x
  | n + 1, j, x =>
    let at_ := xAddr 0 leaf i j
    xChain k leaf i n (j + 1) (xHash 0 (xHash 3 k.pub (at_ 0)) (xMask x (xHash 3 k.pub (at_ 1))))
/-- The secret beginning of a chain. -/
def xSecret (k : XKey) (leaf i : Nat) : List Nat := xHash 4 k.secret (k.pub ++ xAddr 0 leaf i 0 0)
/-- The digits of 32 bytes to the base 16, the most significant first, and the three of what they lack. -/
def xDigits (m : List Nat) : List Nat :=
  let l := m.flatMap fun b => [b / 16, b % 16]
  let lack := (l.map fun d => 15 - d).sum
  l ++ [lack / 256, lack / 16 % 16, lack % 16]
/-- The signature under a one-time key: of each chain as many steps as its digit says. -/
def xOneTime (k : XKey) (leaf : Nat) (m : List Nat) : List Nat :=
  (xDigits m).zipIdx.flatMap fun d => xChain k leaf d.2 d.1 0 (xSecret k leaf d.2)

/-! ## Trees -/

/-- One level of the tree above the ends of a one-time key's chains; an end without a partner goes up as it is. -/
def xLevel (k : XKey) (leaf height : Nat) : Nat → List (List Nat) → List (List Nat)
  | i, l :: r :: t => xJoin k (xAddr 1 leaf height i) l r :: xLevel k leaf height (i + 1) t
  | _, l => l
/-- A leaf of the hash tree: the root over the 67 ends of its one-time key's chains. -/
def xLeaf (k : XKey) (leaf : Nat) : List Nat :=
  ((List.range 7).foldl (fun l h => xLevel k leaf h 0 l)
    ((List.range 67).map fun i => xChain k leaf i 15 0 (xSecret k leaf i))).headD []
/-- A node of the hash tree. -/
def xNode (k : XKey) : Nat → Nat → List Nat
  | 0, i => xLeaf k i
  | h + 1, i => xJoin k (xAddr 2 0 h i) (xNode k h (2 * i)) (xNode k h (2 * i + 1))
/-- The nodes beside the way from a leaf to the root of a tree. -/
def xPath (k : XKey) (height leaf : Nat) : List Nat :=
  (List.range height).flatMap fun h => xNode k h (Nat.xor (leaf / 2 ^ h) 1)

/-- The signature of a message under leaf `leaf` of a tree: the leaf's number, the randomness, the one-time signature, the way (SP 800-208
with 20 levels). -/
def xmssSign (k : XKey) (height leaf : Nat) (m : List Nat) : List Nat :=
  let r := xHash 3 k.prf (bigBytes 32 leaf)
  let digest := xHash 2 (r ++ xNode k height 0 ++ bigBytes 32 leaf) m
  bigBytes 4 leaf ++ r ++ xOneTime k leaf digest ++ xPath k height leaf

end Sys2Proof.Machine
end

