-- ==== Sys2Proof/Machine/Firmware.lean ====
section
/-! DEFINITION. The firmware API: its commands and responses, key slots, quotes and the transport key (13 R360 to R362;
03 R84). -/

namespace Sys2Proof.Machine

open Sys2Proof

/-! ## Taking a command (R360) -/

/-- The command at the head of the ring: its number, kind and fields; none where its block is rejected. -/
def fwHead (s : State) : Option (Int × Int × Int) :=
  match readHostBlock s (729 * s.fw.q.cbase + (s.fw.q.chead : Int)) with
  | .error _ => none
  | .ok l => let x := ofNonets l; some (trits x 242 216, trits x 215 207, trits x 206 0)
/-- May a command be taken? -/
def fwMayTake (s : State) : Bool :=
  let k := s.fw.q
  k.enable && k.chead != k.ctail && k.records.isEmpty && slotFree k && s.phase != .off
/-- The command at the head is taken, where it is of a kind; `f` is what it does with its number and arguments. A command whose
number is not the expected one is malformed; in recovery only the kinds 1 and 7 are allowed (R352, R361). -/
def fwTake (s : State) (kind : Int) (f : State → Int → Int → State) : State :=
  if !fwMayTake s then s
  else match fwHead s with
    | none => s
    | some (n, k, x) =>
      if k ≠ kind then s
      else
        let q := s.fw.q
        let s := { s with fw := { s.fw with q :=
          { q with chead := (q.chead + 1) % 3 ^ q.jc, lastcmd := n, expect := nextSeq n } } }
        if n ≠ q.expect then answer s 81 n (-1) 0
        else if s.phase = .recovery ∧ kind ≠ 1 ∧ kind ≠ 7 then answer s 81 n (-3) 0
        else f s n x
/-- A command slot of the firmware ring that is rejected, or whose kind is none of the eight (R361). -/
def fwBad (s : State) : State :=
  if !fwMayTake s then s
  else
    let q := s.fw.q
    let go (s : State) : State := { s with fw := { s.fw with q := { q with chead := (q.chead + 1) % 3 ^ q.jc } } }
    match fwHead s with
    | none => answer (go s) 81 0 (-1) 0
    | some (n, k, _) =>
      if 1 ≤ k ∧ k ≤ 8 then s
      else
        let s := go s
        answer { s with fw := { s.fw with q := { s.fw.q with lastcmd := n, expect := nextSeq n } } } 81 n (-1) 0

/-- MALFORMED_COMMAND: of a host queue (R167, R169), or of the firmware ring, number 81 (R361). -/
def execMalformedCommand (q : Nat) (s : State) : Host.Outcome State Fault Refusal :=
  .next (if q = 81 then fwBad s else takeCmd s q .bad fun s n a => answer s q n (-8) a)

/-! ## Arguments -/

/-- The frame of region -2 that an argument of 33 trits names, as a host bus address; none where it is not backed. -/
def byteFrame (s : State) (f : Int) : Option Nat :=
  if fits 24 f && decide (frameRegion f = -2) && backed s f then some (hostByteAddr s (frameBase f)) else none
/-- A response with a status. -/
def fwAnswer (s : State) (n status : Int) : State := answer s 81 n status 0

/-- GENERATION (R361). -/
def execGeneration (s : State) : Host.Outcome State Fault Refusal :=
  .next (fwTake s 1 fun s n x =>
    let g := trits x 206 198
    if g < 1 ∨ trits x 197 0 ≠ 0 then fwAnswer s n (-1)
    else answer { s with fw := { s.fw with gen := min g 1 } } 81 n 1 (min g 1 * 3 ^ 24))

/-! ## Key slots (R84, R361) -/

/-- A slot is loaded with keys, or cleared; lines on chip that carry its key index are written back and dropped first (R84), and what
has waited for writes in them goes on. -/
def setKey (s : State) (k : Nat) (v : KeySlot) : State :=
  let s := (List.range 9).foldl writesPerformed (dropKey s k)
  { s with keys := mput {} s.keys k v }
/-- Is a slot in use by a running launch? Which slots a launch uses is not stated. -/
def slotBusy (s : State) : Bool × State :=
  ((s.launches.any fun e => e.2.st == .running) && Config.choice s.fresh, tick s)
/-- LOAD_KEY_SLOT (R84, R361). -/
def execLoadKeySlot (s : State) : Host.Outcome State Fault Refusal :=
  .next (fwTake s 2 fun s n x =>
    let k := trits x 206 198
    let off := trits x 164 150
    if k < 1 ∨ 81 < k ∨ trits x 149 0 ≠ 0 ∨ off < 0 ∨ 19683 - 104 < off then fwAnswer s n (-1)
    else match byteFrame s (trits x 197 165) with
      | none => fwAnswer s n (-1)
      | some a =>
        match s.fw.transport with
        | none => fwAnswer s n (-3)
        | some key =>
          let blob := hostBytes s (a + off.toNat) 104
          match slotBusy s with
          | (true, s) => fwAnswer s n (-2)
          | (false, s) =>
            match aesUnwrap key blob with
            | none => fwAnswer s n (-2)
            | some ks => fwAnswer (setKey s k.toNat { loaded := true, epoch := ofBytes ks + 1 }) n 1)
/-- CLEAR_KEY_SLOT (R84, R361). -/
def execClearKeySlot (s : State) : Host.Outcome State Fault Refusal :=
  .next (fwTake s 3 fun s n x =>
    let k := trits x 206 198
    if k < 1 ∨ 81 < k ∨ trits x 197 0 ≠ 0 then fwAnswer s n (-1)
    else match slotBusy s with
      | (true, s) => fwAnswer s n (-2)
      | (false, s) => fwAnswer (setKey s k.toNat {}) n 1)

/-- OPERATING_POINT: a request to the die's link manager, answered when it is applied or refused (R347, R348, R361). -/
def execOperatingPoint (s : State) : Host.Outcome State Fault Refusal :=
  .next (fwTake s 4 fun s n x =>
    let d := trits x 206 198
    let p := trits x 197 189
    if d < 0 ∨ 8 < d ∨ p < 0 ∨ 2 < p ∨ trits x 188 0 ≠ 0 then fwAnswer s n (-1)
    else if (getDie s d.toNat).life = .out ∨ (p = 0 ∧ lowLinks s d.toNat) then fwAnswer s n (-2)
    else linkRequest s d.toNat (.frequency p.toNat n))

/-! ## Quotes and the transport key (R362) -/

/-- The state of a die by its number of R339: 0 live, 1 compute-out, 2 left out. -/
def dieState (s : State) (n : Nat) : Nat :=
  if n < 9 then match (getDie s n).life with | .live => 0 | .computeOut => 1 | .out => 2
  else if n < 18 then (if (getStack s (n - 9)).live then 0 else 2)
  else if n = 18 ∨ s.hdB then 0 else 2
/-- Bytes `lo` to `lo + 31` of the identity key, which is fused at manufacture. -/
def identityPart (lo : Nat) : List Nat := (List.range 32).map fun i => Config.identityKey.getD (lo + i) 0 % 256
/-- The root of trust's identity key (R362). -/
def identityKey : XKey := { pub := identityPart 0, secret := identityPart 32, prf := identityPart 64 }
/-- The signed part of the report, bytes 64 to 1,723 of the frame, with an encapsulation key (R362). -/
def quoteBody (s : State) (nonce ek : List Nat) : List Nat :=
  leBytes 4 4480 ++ leBytes 2 s.fw.gen.toNat ++ [0, 0] ++
  ((List.range 4).flatMap fun i => leBytes 8 (s.fw.versions.getD i 0)) ++ (List.range 20).map (dieState s) ++ nonce ++ ek
/-- The report from byte 64 on: the identity key signs each with its next one-time key (R362). -/
def quoteReport (s : State) (nonce ek : List Nat) : List Nat :=
  quoteBody s nonce ek ++ xmssSign identityKey 20 s.fw.quotes (quoteBody s nonce ek)
/-- A fresh key pair: the encapsulation key and the decapsulation key (R362). -/
def quoteKeys (s : State) : List Nat × List Nat :=
  let r := (List.range 64).map fun i => (Config.keySeed s.fresh).getD i 0 % 256
  kemKeyGen (r.take 32) (r.drop 32)
/-- QUOTE (R361, R362). -/
def execQuote (s : State) : Host.Outcome State Fault Refusal :=
  .next (fwTake s 5 fun s n x =>
    if trits x 173 0 ≠ 0 then fwAnswer s n (-1)
    else match byteFrame s (trits x 206 174) with
      | none => fwAnswer s n (-1)
      | some a =>
        if 2 ^ 20 ≤ s.fw.quotes then fwAnswer s n (-2)
        else
          let nonce := hostBytes s a 32
          let ks := quoteKeys s
          let s := putHostBytes s (a + 64) (quoteReport s nonce ks.1)
          fwAnswer { tick s with fw := { s.fw with decaps := some ks.2, nonce := nonce, quotes := s.fw.quotes + 1 } } n 1)
/-- DIE_MAP: the identities of the live dies (R1) and the modules' states; how they are laid out is not stated (R361). -/
def execDieMap (s : State) : Host.Outcome State Fault Refusal :=
  .next (fwTake s 6 fun s n x =>
    if trits x 173 0 ≠ 0 then fwAnswer s n (-1)
    else match byteFrame s (trits x 206 174) with
      | none => fwAnswer s n (-1)
      | some a =>
        let l := Config.dieMapBytes (((List.range 20).filter (dieLive s)).map (readIdent s)) ((List.range 27).map (linkWidths s))
        fwAnswer (putHostBytes s a ((l.take 19683).map (· % 256))) n 1)
/-- IMAGE_UPLOAD: in recovery alone; the image is verified at the next power-on (R352, R361). -/
def execImageUpload (s : State) : Host.Outcome State Fault Refusal :=
  .next (fwTake s 7 fun s n _ => fwAnswer s n (if s.phase = .recovery then 1 else -3))
/-- TRANSPORT_KEY (R361, R362). -/
def execTransportKey (s : State) : Host.Outcome State Fault Refusal :=
  .next (fwTake s 8 fun s n x =>
    if trits x 173 0 ≠ 0 then fwAnswer s n (-1)
    else match byteFrame s (trits x 206 174) with
      | none => fwAnswer s n (-1)
      | some a =>
        match s.fw.decaps with
        | none => fwAnswer s n (-3)
        | some dk =>
          let k := kmac256 (kemDecaps dk (hostBytes s a 1568)) s.fw.nonce 32 "UNLOSKEK"
          fwAnswer { s with fw := { s.fw with transport := some k, decaps := none } } n 1)

end Sys2Proof.Machine
end

