-- ==== Sys2Proof/Machine/Shell.lean ====
section
/-! DEFINITION. The memory shell on its own: errors of atoms and of cluster SRAM, the combining buffer's own sends, the
scrubber and its escalator, retraining, the registers of the interleave table (03 R77, R80, R86 to R92). -/

namespace Sys2Proof.Machine

open Sys2Proof

/-! ## Errors and sends that come by themselves -/

/-- A symbol of an atom of regions +1 to +3 changes in its memory device; the poison bit is none of the code's (R86). -/
def memError (block : Int) (sym change : Nat) (s : State) : State :=
  if backedMem s (blockFrame block) ∧ sym < 64 then
    let a := atomAt s block
    let c := change % 256
    if sym = 63 then setAtom s block { a with errs := addError a.errs sym (c % 128), poison := a.poison != decide (128 ≤ c) }
    else setAtom s block { a with errs := addError a.errs sym c }
  else s
/-- An expander reports an error of an atom: its next read is the uncorrectable outcome (R83). -/
def deviceReport (block : Int) (s : State) : State :=
  if backedMem s (blockFrame block) ∧ frameRegion (blockFrame block) = 3 then
    setAtom s block { atomAt s block with reported := true }
  else s
/-- A nonet of a bank in scratch or FIFO mode fails its check; in cache mode the line that lies there is dropped (R87). -/
def bankError (cluster bank nonet : Nat) (s : State) : State :=
  if bank < 108 ∧ nonet < 19683 ∧ (bankMode s cluster bank = some 1 ∨ bankMode s cluster bank = some (-1)) then
    updBank s cluster bank fun k =>
      { k with parity := if k.parity.contains nonet then k.parity else nonet :: k.parity }
  else if bank < 108 ∧ nonet < 19683 ∧ bankMode s cluster bank = some 0 then
    updCore s (3 * cluster + bank / 36) fun c =>
      { c with l1 := c.l1.filter fun e => e.2.way != bank % 36 || e.1 % 243 != nonet / 81 }
  else s
/-- A core's combining buffer sends an entry for its own reasons (R77, R110). -/
def combSend (core i : Nat) (s : State) : State := sendAt s core i

/-! ## The scrubber (R89 to R91) -/

/-- The atoms of a stack of 64 GiB (R82, R89). -/
def stackAtoms : Nat := 2 ^ 30
/-- The block of atom `n` of a stack: the inverse of R81. None where no line of region +1 lies there, as in what bring-up reserves. -/
def stackBlock (s : State) (st n : Nat) : Option Int :=
  let is := (List.range 81).filter fun i => itabEntry s i == st
  if is = [] then none
  else
    let line := 81 * (n / 3 / is.length) + is.getD (n / 3 % is.length) 0
    if (line : Int) < 243 * s.count1 then some (729 * 3 ^ 19 + 3 * (line : Int) + (n % 3 : Nat)) else none
/-- A count of `sc.status` grows by 1, saturating. -/
def scrubCount (n : Nat) : Nat := min 265720 (n + 1)
/-- One atom is read, checked, and corrected or poisoned (R86, R88, R89). -/
def scrubBlock (s : State) (st : Nat) (b : Int) : State :=
  let a := atomAt s b
  let n := a.errs.length
  if n = 0 then s
  else if n ≤ 3 then updStack (setAtom s b { a with errs := [] }) st fun k => { k with corrected := scrubCount k.corrected }
  else if n > 5 ∧ Config.miscorrects a.errs then
    updStack (setAtom s b { a with errs := [], badTag := true }) st fun k => { k with corrected := scrubCount k.corrected }
  else updStack (poisonAtom s b) st fun k => { k with uncorrectable := scrubCount k.uncorrectable }
/-- The next pass begins with a new period; after a late pass the deadline is met again (R91). -/
def newPass (k : Stack) : Stack := { k with next := 0, elapsed := 0, late := false }
/-- SCRUB_ATOM: the next atom of the pass. A line that the slice holds dirty is skipped (R89). -/
def execScrubAtom (st : Nat) (s : State) : Host.Outcome State Fault Refusal :=
  .next (
    let k := getStack s st
    if !k.live ∨ !k.enable ∨ stackAtoms ≤ k.next then s
    else
      let s := match stackBlock s st k.next with
        | some b =>
          match getSlice s st (lineOf b) with
          | some l => if l.dirty = [] then scrubBlock s st b else s
          | none => scrubBlock s st b
        | none => s
      updStack s st fun k =>
        let k := { k with next := k.next + 1 }
        if k.late ∧ stackAtoms ≤ k.next then newPass k else k)
/-- The cycles of a scrub period (R90). -/
def scrubPeriod (k : Stack) : Int := k.period * 3 ^ 27
/-- Does the lag exceed, or fall below, one `n`th of the atoms? (R91) -/
def lagAbove (k : Stack) (n : Int) : Bool :=
  decide ((stackAtoms : Int) * scrubPeriod k < n * (k.elapsed * stackAtoms - k.next * scrubPeriod k))
def lagBelow (k : Stack) (n : Int) : Bool :=
  decide (n * (k.elapsed * stackAtoms - k.next * scrubPeriod k) < (stackAtoms : Int) * scrubPeriod k)
/-- SCRUB_LEVEL_CHANGE: one step up or down; a late pass stays at level 3 (R91). -/
def execScrubLevelChange (st : Nat) (s : State) : Host.Outcome State Fault Refusal :=
  .next (updStack s st fun k =>
    if !k.live ∨ k.late then k
    else if k.level < 3 ∧ lagAbove k (81 / 3 ^ k.level) then { k with level := k.level + 1 }
    else if 0 < k.level ∧ lagBelow k (162 / 3 ^ (k.level - 1)) then { k with level := k.level - 1 }
    else k)
/-- SCRUB_PERIOD_END: a pass that has not finished is late, and the host is told (R91). -/
def execScrubPeriodEnd (st : Nat) (s : State) : Host.Outcome State Fault Refusal :=
  .next (
    let k := getStack s st
    if !k.live ∨ !k.enable ∨ k.late ∨ (k.elapsed : Int) < scrubPeriod k then s
    else if stackAtoms ≤ k.next then setStack s st (newPass k)
    else sendEvent (setStack s st { k with missed := true, late := true, level := 3 }) 2 st)
/-- SC_CTL_WRITE: a write of `sc.ctl` by an agent in supervisor mode (R90). -/
def execScCtlWrite (st : Nat) (v : Int) (s : State) : Host.Outcome State Fault Refusal := .next (writeScCtl s st v)
/-- SC_STATUS_WRITE: any write of `sc.status` (R90). -/
def execScStatusWrite (st : Nat) (_v : Int) (s : State) : Host.Outcome State Fault Refusal := .next (writeScStatus s st)

/-! ## Retraining (R92) -/

/-- RETRAINING: inside a refresh window, seen by no program (R92). -/
def execRetraining (_st _ch : Nat) (s : State) : Host.Outcome State Fault Refusal := .next s
/-- FORCED_RETRAINING: recorded in the frieze of each die whose access waited; which dies' accesses do is not stated (R92,
R336 kind 1). -/
def execForcedRetraining (st _ch : Nat) (s : State) : Host.Outcome State Fault Refusal :=
  .next ((List.range 9).foldl (fun s d =>
    if (getDie s d).life != .out && Config.choice s.fresh then friezePost (tick s) d 1 (-1) (-1) 0 st 0 else tick s) s)

/-! ## The interleave table (R80) -/

/-- MI_ITAB_WRITE (R80). -/
def execMiItabWrite (j : Nat) (v : Int) (s : State) : Host.Outcome State Fault Refusal := .next (writeItab s j v)
/-- MI_CTL_LOCK (R80). -/
def execMiCtlLock (v : Int) (s : State) : Host.Outcome State Fault Refusal := .next (writeMiCtl s v)

end Sys2Proof.Machine
end

