-- ==== Sys2Proof/Machine/Package.lean ====
section
/-! DEFINITION. Power-on and bring-up, package reset, the host port, peers and the host's windows (13 R352 to R358, R363, R364;
04 R109; 07 R166). -/

namespace Sys2Proof.Machine

open Sys2Proof

/-! ## Bring-up (R352 to R358) -/

/-- The links train with what their ends support; those of a failed HD-B stay down (R346, R358). -/
def trainAll (b : BringUp) (s : State) : State :=
  (List.range 27).foldl (fun s l =>
    let g := b.gens.getD l (0, 0)
    trainLink s l g.1 (if 24 ≤ l ∧ !b.hdB then 0 else g.2)) s
/-- The moves between compute dies whose routers work. -/
def bringUpMoves (b : BringUp) (s : State) : Nat → List Nat := liveMoves (fun d => b.routers.getD d false) (linkUp s)
/-- The compute dies that HD-A reaches (R353 step 2, R358). -/
def reached (b : BringUp) (s : State) (d : Nat) : Bool :=
  let doors := ([(0, 21), (3, 22), (6, 23)].filter fun p => b.routers.getD p.1 false && linkUp s p.2).map (·.1)
  ((meshDist (bringUpMoves b s) doors).getD d none).isSome
/-- The clusters of a die that pass, ascending. -/
def goodClusters (b : BringUp) (d : Nat) : List Nat := (List.range 27).filter fun c => (b.clusters.getD d []).contains c
/-- The standing of a die and its routes (R345, R353 steps 2 and 3, R358). -/
def classify (b : BringUp) (s : State) (d : Nat) : State :=
  if reached b s d then
    let cs := goodClusters b d
    updDie s d fun k =>
      { k with life := if cs = [] then .computeOut else .live, liveClusters := cs
               routes := routeTable (bringUpMoves b s) (linkUp s) d }
  else s
/-- The lines of a stack; 0 where it is left out (R355, R358). -/
def bringUpLines (b : BringUp) (s : State) (h : Nat) : Int :=
  if (getDie s h).life ≠ .out ∧ linkUp s h then max 0 (min 357913941 (b.sbs.getD h 0)) else 0
/-- The stacks, and the interleave table over the live ones, locked (R353 step 4, R357). -/
def bringUpStacks (b : BringUp) (s : State) : State :=
  let s := (List.range 9).foldl (fun s h =>
    let n := bringUpLines b s h
    if 0 < n then updStack s h fun k => { k with live := true, lines := n } else s) s
  let hs := (List.range 9).filter fun h => (getStack s h).live
  let s := if hs = [] then s
    else (List.range 81).foldl (fun s i => { s with itab := mput 0 s.itab i (hs.getD (i % hs.length) 0) }) s
  { s with locked := true }
/-- The rounds of 81 lines that the live stacks hold (R82). -/
def stackRounds (s : State) : Int :=
  match (List.range 9).filter fun h => (getStack s h).live with
  | [] => 0
  | h :: t => t.foldl (fun m k => min m ((getStack s k).lines / (itabCount s k 81 : Nat)))
      ((getStack s h).lines / (itabCount s h 81 : Nat))
/-- The bytes of LPDDR6 of the host dies that work, at most 2 TiB, and of the expanders on their ports, at most 14 TiB (R2, R356,
R358). -/
def tierBytes (b : BringUp) : Nat :=
  min (2 * 2 ^ 40) (b.lpddr.getD 0 0 + if b.hdB then b.lpddr.getD 1 0 else 0)
def expanderBytes (b : BringUp) : Nat :=
  min (14 * 2 ^ 40) ((b.expanders.getD 0 []).sum + if b.hdB then (b.expanders.getD 1 []).sum else 0)
/-- The frame counts and the budgets of the leave governors (R82, R186, R353 step 5, R356). -/
def bringUpCounts (b : BringUp) (s : State) : State :=
  let n := ((List.range 9).filter fun d => (getDie s d).life == .live).length
  let s := { s with count0 := 27, count1 := stackRounds s / 3, count2 := ((tierBytes b / 46656 : Nat) : Int)
                    count3 := ((expanderBytes b / 46656 : Nat) : Int), countHost := 0, countByte := 0, countPeer := 0 }
  (List.range 9).foldl (fun s d =>
    match (getDie s d).life with
    | .live => updDie s d fun k => { k with budget := 2187 / n }
    | .computeOut => updDie s d fun k => { k with budget := 81 }
    | .out => s) s
/-- The plinth image is loaded into the plinth core of each live die, which HD-A writes into `die.ident`, and begins (R353 step 6). -/
def loadPlinths (s : State) : State :=
  (List.range 9).foldl (fun s d =>
    if (getDie s d).life = .live then updDie s d fun k => { k with plinth := k.liveClusters.headD 0, plinthUp := true } else s) s
/-- Do the four images verify: is the signature of each valid, and its version at least the fused minimum of its slot? (R352) -/
def imagesOk (b : BringUp) : Bool :=
  decide (b.images.length = 4) && b.images.all id && (List.range 4).all fun i => decide (Config.fusedVersion i ≤ b.versions.getD i 0)
/-- POWER_ON: the images are verified, and bring-up proceeds in its order; a failing image leaves the module in recovery, and with a
failing HD-A it does not start (R352, R353, R358). -/
def execPowerOn (b : BringUp) (s : State) : Host.Outcome State Fault Refusal :=
  .next (if s.phase = .ready ∨ !b.hdA then s
    else
      let s := { s with fw := { s.fw with versions := b.versions.take 4 } }
      if !imagesOk b then { s with phase := .recovery }
      else
        let s := trainAll b { s with hdB := b.hdB }
        let s := (List.range 9).foldl (classify b) s
        { loadPlinths (bringUpCounts b (bringUpStacks b s)) with phase := .ready })
/-- PACKAGE_RESET: every register, bank, tile and counter is as at reset; what stands in memory and at the host, and how often
the identity key has signed, stay (R67). -/
def execPackageReset (s : State) : Host.Outcome State Fault Refusal :=
  .next { State.reset with mem := s.mem, host := s.host, fresh := s.fresh, fw := { quotes := s.fw.quotes } }

/-! ## The host port (R109, R166, R363) -/

/-- An access to one block of device memory that arrives at a port: nothing written is a read, whose bytes are returned, none where it
fails; each write follows every write of the agent before it (R109). -/
def portAccess (s : State) (ag : Agent) (block : Int) (at_ : Attr) (w : List (Nat × Int)) : State :=
  if w = [] then
    match readAs s ag 5 false false ((List.range 27).map fun (i : Nat) => { pa := 27 * block + i, attr := at_ }) with
    | (.ok l, s) => acquireBy { s with portData := if at_.binary then l.map Int.toNat else packBlock l } ag
        ((List.range 27).map fun (i : Nat) => memKey (27 * block + i))
    | (.error _, s) => { s with portData := [] }
  else
    let v (x : Int) : Int := if at_.binary then x % 256 else wrap 9 x
    (publish s ag 5 fun s => ((), writeBlockAs s ag 5
      { block := block, attr := at_
        places := (w.filter fun p => decide (p.1 < 27)).foldl (fun m p => mset m p.1 (v p.2)) [] })).2

/-- The block of the queue page at an offset of BAR0. -/
def barBlock (addr : Nat) : Int := 729 * queueFrame + (addr / 49 : Nat)
/-- Is a block of the queue page offered? In recovery those of the firmware API alone (R352, R360). -/
def barOffered (s : State) (addr : Nat) : Bool :=
  match s.phase with
  | .off => false
  | .recovery => addr / 49 == 162 || addr / 49 == 163
  | .ready => decide (addr / 49 < 729)
/-- HOST_WRITE: bytes written to BAR0, the queue page as T-image blocks; a write of less than a whole block is discarded
(R166, R363). -/
def execHostWrite (addr : Nat) (l : List Nat) (s : State) : Host.Outcome State Fault Refusal :=
  .next (if addr % 49 ≠ 0 ∨ l.length ≠ 49 ∨ !barOffered s addr then s
    else match unpackBlock l with
      | none => s
      | some v => writeControlBlock s (barBlock addr) true (blockPlaces v))
/-- HOST_READ: the bytes of a block of the queue page are returned. -/
def execHostRead (addr : Nat) (s : State) : Host.Outcome State Fault Refusal :=
  .next (if !barOffered s addr then s
    else { s with portData := packBlock ((List.range 27).map fun (i : Nat) => readControlNonet s (27 * barBlock addr + (i : Int))) })
/-- The host reads or writes a block of device memory through its port, uncached (R109). DESIGN CHOICE (log 78): by which addresses of the
bus it reaches it, and how it names key index and view, is not stated; the access carries them. -/
def hostDevice (block : Int) (key : Nat) (binary : Bool) (w : List (Nat × Int)) (s : State) : State :=
  if s.phase = .ready ∧ backedMem s (blockFrame block) ∧ key ≤ 81 then
    portAccess s hostAgent block { key := key, policy := -1, binary := binary } w
  else s
/-- The host changes a byte of its own memory. -/
def hostMemory (addr : Nat) (b : Byte) (s : State) : State := putHostBytes s addr [b.toNat]
/-- The most frame indices that a region can hold (R363). -/
def maxFrames : Int := 581130734
/-- WINDOW_REGISTER_WRITE: the bases H_T and H_B (0, 1) and the sizes S_T and S_B (2, 3), while every host queue is off
(R363). -/
def execWindowRegisterWrite (r v : Nat) (s : State) : Host.Outcome State Fault Refusal :=
  .next (if s.queues.any fun e => e.2.enable then s
    else
      let x := v % 2 ^ 64
      if r = 0 then { s with hT := x }
      else if r = 1 then { s with hB := x }
      else if r = 2 then { s with sT := x, countHost := min maxFrames x }
      else if r = 3 then { s with sB := x, countByte := min maxFrames x }
      else s)

/-- The host reads a window register: its eight bytes (R363). -/
def windowRegisterRead (r : Nat) (s : State) : State :=
  let v : Option Nat := if r = 0 then some s.hT else if r = 1 then some s.hB else if r = 2 then some s.sT
    else if r = 3 then some s.sB else none
  match v with
  | some x => { s with portData := leBytes 8 x }
  | none => s
/-- The host takes a signalled vector (R363). -/
def vectorTaken (v : Nat) (s : State) : State := { s with signals := s.signals.filter (· ≠ v) }

/-! ## Peers (R364) -/

/-- Does a window lie within one of the regions +1 to +3? -/
def windowOk (base count : Int) : Bool :=
  decide (0 ≤ count) && (decide (count = 0) ||
    (fits 24 base && decide (1 ≤ frameRegion base) && decide (frameRegion base ≤ 3) && decide (0 ≤ frameIndex base) &&
      decide (frameIndex base + count - 1 ≤ half 19)))
/-- Does a frame lie in the window exported to a peer? -/
def exported (s : State) (p : Port) (f : Int) : Bool :=
  p.up && p.negotiated && decide (p.outBase ≤ f) && decide (f < p.outBase + p.outCount) && backedMem s f
/-- PEER_ACCESS: a peer reads a block, or writes nonets of it, within its window; beyond it the access is refused (R109,
R364). -/
def execPeerAccess (port : Nat) (block : Int) (w : List (Nat × Int)) (s : State) : Host.Outcome State Fault Refusal :=
  .next (if !exported s (getPort s port) (blockFrame block) then { s with portData := [] }
    else portAccess s (peerAgent port) block { policy := -1 } w)
/-- PEER_NEGOTIATION: the generation is agreed, the lower of 1 and the peer's, and the windows are exchanged; `pm.countpeer` is the
largest export among the negotiated ports. Below generation 1, or with a window outside the regions +1 to +3, the port stays down
(R11, R346, R364). -/
def execPeerNegotiation (port gen : Nat) (base count outBase outCount : Int) (s : State) : Host.Outcome State Fault Refusal :=
  .next (if 8 ≤ port ∨ (4 ≤ port ∧ !s.hdB) then s
    else if gen < 1 ∨ !windowOk base count ∨ !windowOk outBase outCount then
      setPort s port { getPort s port with up := false, gen := 0 }
    else
      let s := setPort s port
        { getPort s port with up := true, negotiated := true, gen := min gen 1, base := base, count := count, outBase := outBase
                              outCount := outCount }
      { s with countPeer := ((List.range 8).map fun p =>
          let k := getPort s p
          if k.negotiated then k.count else 0).foldl max 0 })
/-- PEER_PORT_DOWN: the count does not fall (R364). -/
def execPeerPortDown (port : Nat) (s : State) : Host.Outcome State Fault Refusal :=
  .next (setPort s port { getPort s port with up := false, gen := 0 })

end Sys2Proof.Machine
end

