-- ==== Sys2Proof/Machine/Scalar.lean ====
section
/-! DEFINITION. Scalar integer and tritwise operations, shifts, moves, compares, index reads and long immediates
(09 R217 to R221). -/

namespace Sys2Proof.Machine

open Sys2Proof

/-- A binary scalar operation. -/
def sbin (s : State) (d : Dst) (a b : Opd) (f : Int → Int → Int) : Host.Outcome State Fault Refusal :=
  scalarAlu s d [a, b] fun | [x, y] => f x y | _ => 0
/-- A unary scalar operation. -/
def sun (s : State) (d : Dst) (a : Opd) (f : Int → Int) : Host.Outcome State Fault Refusal :=
  scalarAlu s d [a] fun | [x] => f x | _ => 0

/-- `nop` of the scalar map (R217). -/
def execNopScalar (s : State) : Host.Outcome State Fault Refusal := inIssue s fun _ s => s
/-- Scalar `add`: wrapping sum. -/
def execAddScalar (d : Dst) (a b : Opd) (s : State) : Host.Outcome State Fault Refusal :=
  sbin s d a b fun a b => wrap 27 (a + b)
/-- Scalar `sub`: wrapping difference. -/
def execSubScalar (d : Dst) (a b : Opd) (s : State) : Host.Outcome State Fault Refusal :=
  sbin s d a b fun a b => wrap 27 (a - b)
/-- Scalar `mul`: wrapping product. -/
def execMulScalar (d : Dst) (a b : Opd) (s : State) : Host.Outcome State Fault Refusal :=
  sbin s d a b fun a b => wrap 27 (a * b)
/-- Scalar `mulh`: high product. -/
def execMulhScalar (d : Dst) (a b : Opd) (s : State) : Host.Outcome State Fault Refusal :=
  sbin s d a b fun a b => mulh a b
/-- Scalar `div`: nearest quotient (R16). -/
def execDivScalar (d : Dst) (a b : Opd) (s : State) : Host.Outcome State Fault Refusal :=
  sbin s d a b fun a b => divq a b
/-- Scalar `rem`: remainder (R16). -/
def execRemScalar (d : Dst) (a b : Opd) (s : State) : Host.Outcome State Fault Refusal :=
  sbin s d a b fun a b => remq a b
/-- Scalar `adds`: saturating sum. -/
def execAddsScalar (d : Dst) (a b : Opd) (s : State) : Host.Outcome State Fault Refusal :=
  sbin s d a b fun a b => sat 27 (a + b)
/-- Scalar `subs`: saturating difference. -/
def execSubsScalar (d : Dst) (a b : Opd) (s : State) : Host.Outcome State Fault Refusal :=
  sbin s d a b fun a b => sat 27 (a - b)
/-- Scalar `muls`: saturating product. -/
def execMulsScalar (d : Dst) (a b : Opd) (s : State) : Host.Outcome State Fault Refusal :=
  sbin s d a b fun a b => sat 27 (a * b)
/-- Scalar `min`: smaller value. -/
def execMinScalar (d : Dst) (a b : Opd) (s : State) : Host.Outcome State Fault Refusal :=
  sbin s d a b fun a b => min a b
/-- Scalar `max`: larger value. -/
def execMaxScalar (d : Dst) (a b : Opd) (s : State) : Host.Outcome State Fault Refusal :=
  sbin s d a b fun a b => max a b
/-- Scalar `satn`: saturation to `b` trits. -/
def execSatnScalar (d : Dst) (a b : Opd) (s : State) : Host.Outcome State Fault Refusal :=
  sbin s d a b fun a b => satn a b
/-- Scalar `wrapn`: wrap to `b` trits. -/
def execWrapnScalar (d : Dst) (a b : Opd) (s : State) : Host.Outcome State Fault Refusal :=
  sbin s d a b fun a b => wrapn a b
/-- Scalar `tmin`: tritwise minimum. -/
def execTminScalar (d : Dst) (a b : Opd) (s : State) : Host.Outcome State Fault Refusal :=
  sbin s d a b fun a b => tmin a b
/-- Scalar `tmax`: tritwise maximum. -/
def execTmaxScalar (d : Dst) (a b : Opd) (s : State) : Host.Outcome State Fault Refusal :=
  sbin s d a b fun a b => tmax a b
/-- Scalar `neg`: negation, every trit inverted (R217). -/
def execNegScalar (d : Dst) (a : Opd) (s : State) : Host.Outcome State Fault Refusal := sun s d a fun a => -a
/-- Scalar `tsum`: tritwise sum. -/
def execTsumScalar (d : Dst) (a b : Opd) (s : State) : Host.Outcome State Fault Refusal :=
  sbin s d a b fun a b => tsum a b
/-- Scalar `tmul`: tritwise product. -/
def execTmulScalar (d : Dst) (a b : Opd) (s : State) : Host.Outcome State Fault Refusal :=
  sbin s d a b fun a b => tmul a b
/-- Scalar `abs`: magnitude (R217). -/
def execAbsScalar (d : Dst) (a : Opd) (s : State) : Host.Outcome State Fault Refusal := sun s d a fun a => (a.natAbs : Int)
/-- Scalar `sh`: trit shift (R15, R218). -/
def execShScalar (d : Dst) (a b : Opd) (s : State) : Host.Outcome State Fault Refusal :=
  sbin s d a b fun a b => shift a b
/-- Scalar `shs`: saturating shift (R218). -/
def execShsScalar (d : Dst) (a b : Opd) (s : State) : Host.Outcome State Fault Refusal :=
  sbin s d a b fun a b => shiftSat a b
/-- Scalar `cmp`: sign of the difference (R218). -/
def execCmpScalar (d : Dst) (a b : Opd) (s : State) : Host.Outcome State Fault Refusal :=
  sbin s d a b fun a b => sgnv (a - b)

/-- `mov` (R219): to an `s` register or the latches, to a mask in every occupied lane, or to a format register under R24. -/
def execMovScalar (d : MovDst) (a : Opd) (s : State) : Host.Outcome State Fault Refusal :=
  scalarOp s fun i s =>
    if inRange i && sCasts a then groupOnly s i fun _ _ => s
    else
      let v := ssrc s i a
      match d with
      | .s d => swrite s i d v
      | .k n => setMaskAll s i n (sgnv v)
      | .fm n =>
        match ffmtOf v with
        | none => formatFault s i
        | some _ => noteRegion (updRegs s i.core i.who fun r => { r with fm := mput 0 r.fm n v }) i.core i.who (.fm n)

/-- Live clusters times three: the live cores of a die (R220, R339). -/
def liveCoreCount (s : State) (die : Nat) : Nat := 3 * (getDie s die).liveClusters.length
/-- The live compute dies, ascending (R175, R358). -/
def liveDieList (s : State) : List Nat := (List.range 9).filter fun d => decide ((getDie s d).life = .live)

/-- A fact of the launch or the package by its selector (R220). -/
def extFact (s : State) (i : Issue) (n : Int) : Int :=
  let lid := whoLid s i.core i.who
  if n = 0 then (launchTcb s lid).nx
  else if n = 1 then (launchTcb s lid).ny
  else if n = 2 then (launchTcb s lid).nz
  else if n = 3 then (launchHdr s lid).T
  else if n = 4 then (launchHdr s lid).w
  else if n = 5 then liveCoreCount s (dieOf i.core)
  else (liveDieList s).length

/-- `ext` (R220). -/
def execExt (d : Dst) (a : Int) (s : State) : Host.Outcome State Fault Refusal :=
  scalarOp s fun i s => swrite s i d (extFact s i a)

/-- `li` (R221). -/
def execLi (d : Dst) (m : Int) (s : State) : Host.Outcome State Fault Refusal :=
  scalarOp s fun i s => swrite s i d m

end Sys2Proof.Machine
end

