-- ==== Sys2Proof/WellFormed.lean ====
section
/-! DEFINITION. Which operands each instruction admits. -/

namespace Sys2Proof

/-- `lo ≤ v ≤ hi`. -/
def within (lo hi v : Int) : Bool := decide (lo ≤ v) && decide (v ≤ hi)
/-- `v < n`. -/
def below (n v : Nat) : Bool := decide (v < n)
/-- `v` is in the range of `k` trits. -/
def immFits (k : Nat) (v : Int) : Bool := within (-half k) (half k) v
/-- An immediate of a 5-trit field (R201). -/
def immOk (v : Int) : Bool := immFits 5 v

/-- Class S (R214): `s` registers and place registers in kind 0, the scalar pipe's shared space in kind -1, immediates. -/
def srcS : Opd → Bool
  | .reg i => below 81 i || (decide (162 ≤ i) && below 166 i)
  | .shared i => below 84 i || (decide (88 ≤ i) && below 92 i)
  | .imm v => immOk v
/-- The source of the scalar `mov` (R219): class S or a format register. -/
def srcSfm : Opd → Bool
  | .reg i => srcS (.reg i) || (decide (117 ≤ i) && below 126 i)
  | o => srcS o
/-- Class V of the vector pipe (R249): vector registers, the shared space, immediates. -/
def srcVV : Opd → Bool
  | .reg i => below 243 i
  | .shared i => below 92 i
  | .imm v => immOk v
/-- Class Vu (R249): class V without `ix`, `iy`, `iz` and `lane`. -/
def srcVU : Opd → Bool
  | .reg i => below 243 i
  | .shared i => below 84 i || (decide (88 ≤ i) && below 92 i)
  | .imm v => immOk v
/-- The offset of a uniform access (R270): kind -1 or +1, and uniform. -/
def srcU : Opd → Bool
  | .reg _ => false
  | .shared i => below 84 i || (decide (88 ≤ i) && below 92 i)
  | .imm v => immOk v
/-- A destination of class Sd: an `s` register or the latches. -/
def dstS : Dst → Bool
  | .reg i _ => below 81 i
  | .latchOnly => true
/-- A destination of class Vd: a vector register or the latches. -/
def dstV : Dst → Bool
  | .reg i _ => below 243 i
  | .latchOnly => true
/-- The destination of an armature (R221): a vector register, latched or not, never the latches alone. -/
def dstArm : Dst → Bool
  | .reg i _ => below 243 i
  | .latchOnly => false
/-- A written mask register: `k1` to `k8`. -/
def maskDst (i : Nat) : Bool := decide (1 ≤ i) && below 9 i
/-- The destination of the scalar `mov`. -/
def dstMov : MovDst → Bool
  | .s d => dstS d
  | .k i => maskDst i
  | .fm i => below 9 i
/-- An optional `s` destination (R280). -/
def optS : Option Nat → Bool
  | none => true
  | some i => below 81 i
/-- An odd immediate from 1 to 63: a count with its unit (R303). -/
def oddImm (v : Int) : Bool := within 1 63 v && decide (v % 2 = 1)

/-- The operand limits of each instruction (R206 items 5, 6 and 8; the tables of 09, 10 and 11), and the ranges of each event's operands. -/
def Instr.wf : Instr → Bool
  | .nopScalar => true
  | .addScalar d a b => dstS d && srcS a && srcS b
  | .subScalar d a b => dstS d && srcS a && srcS b
  | .mulScalar d a b => dstS d && srcS a && srcS b
  | .mulhScalar d a b => dstS d && srcS a && srcS b
  | .divScalar d a b => dstS d && srcS a && srcS b
  | .remScalar d a b => dstS d && srcS a && srcS b
  | .addsScalar d a b => dstS d && srcS a && srcS b
  | .subsScalar d a b => dstS d && srcS a && srcS b
  | .mulsScalar d a b => dstS d && srcS a && srcS b
  | .minScalar d a b => dstS d && srcS a && srcS b
  | .maxScalar d a b => dstS d && srcS a && srcS b
  | .satnScalar d a b => dstS d && srcS a && srcS b
  | .wrapnScalar d a b => dstS d && srcS a && srcS b
  | .tminScalar d a b => dstS d && srcS a && srcS b
  | .tmaxScalar d a b => dstS d && srcS a && srcS b
  | .negScalar d a => dstS d && srcS a
  | .tsumScalar d a b => dstS d && srcS a && srcS b
  | .tmulScalar d a b => dstS d && srcS a && srcS b
  | .absScalar d a => dstS d && srcS a
  | .shScalar d a b => dstS d && srcS a && srcS b
  | .shsScalar d a b => dstS d && srcS a && srcS b
  | .movScalar d a => dstMov d && srcSfm a
  | .cmpScalar d a b => dstS d && srcS a && srcS b
  | .ext d a => dstS d && within 0 6 a
  | .li d m => dstS d && immFits 27 m
  | .liv d m => dstV d && immFits 27 m
  | .armx d m => dstArm d && immFits 27 m
  | .army d m => dstArm d && immFits 27 m
  | .armz d m => dstArm d && immFits 27 m
  | .ali d m => below 27 d && immFits 36 m
  | .amov d a => below 27 d && below 27 a
  | .aadv d b => below 27 d && srcS b
  | .awin d a b => below 27 d && srcS a && srcS b
  | .aperm d a => below 27 d && srcS a
  | .aget d a b => dstS d && below 27 a && within 0 4 b
  | .acat d a b => below 27 d && srcS a && srcS b
  | .br b => within (-121) 121 b
  | .loop d b => below 81 d && within (-121) 121 b
  | .ret a => below 27 a
  | .cut d a => maskDst d && below 243 a
  | .join => true
  | .joinD a => srcS a
  | .exit => true
  | .yield => true
  | .region => true
  | .safe => true
  | .br3 c tn tz tp => below 243 c && immFits 12 tn && immFits 12 tz && immFits 12 tp
  | .br3s c tn tz tp => (below 81 c || (decide (162 ≤ c) && below 166 c)) && immFits 12 tn && immFits 12 tz && immFits 12 tp
  | .jmp tz => immFits 12 tz
  | .call c tz => below 27 c && immFits 12 tz
  | .srd d a => dstS d && srcS a
  | .swr a b => srcS a && srcS b
  | .trap a => srcS a
  | .rft => true
  | .bkpt a => within (-121) 121 a
  | .inval d a b => below 81 d && below 79 a && within 0 1 b
  | .bkmode a b => srcS a && srcS b
  | .launch d a => below 81 d && below 27 a
  | .mbox d a => below 81 d && below 27 a
  | .share d a b => below 81 d && below 27 a && srcS b
  | .pcomp a b => below 27 a && srcS b
  | .tcbsig a => below 27 a
  | .prog a => srcS a
  | .nopVector => true
  | .addVector d a b => dstV d && srcVV a && srcVV b
  | .subVector d a b => dstV d && srcVV a && srcVV b
  | .mulVector d a b => dstV d && srcVV a && srcVV b
  | .mulhVector d a b => dstV d && srcVV a && srcVV b
  | .divVector d a b => dstV d && srcVV a && srcVV b
  | .remVector d a b => dstV d && srcVV a && srcVV b
  | .addsVector d a b => dstV d && srcVV a && srcVV b
  | .subsVector d a b => dstV d && srcVV a && srcVV b
  | .mulsVector d a b => dstV d && srcVV a && srcVV b
  | .minVector d a b => dstV d && srcVV a && srcVV b
  | .maxVector d a b => dstV d && srcVV a && srcVV b
  | .satnVector d a b => dstV d && srcVV a && srcVV b
  | .wrapnVector d a b => dstV d && srcVV a && srcVV b
  | .tminVector d a b => dstV d && srcVV a && srcVV b
  | .tmaxVector d a b => dstV d && srcVV a && srcVV b
  | .negVector d a => dstV d && srcVV a
  | .tsumVector d a b => dstV d && srcVV a && srcVV b
  | .tmulVector d a b => dstV d && srcVV a && srcVV b
  | .absVector d a => dstV d && srcVV a
  | .shVector d a b => dstV d && srcVV a && srcVV b
  | .shsVector d a b => dstV d && srcVV a && srcVV b
  | .movVector d a => dstV d && srcVV a
  | .sgn d a => dstV d && srcVV a
  | .fadd d a b => dstV d && srcVV a && srcVV b
  | .fsub d a b => dstV d && srcVV a && srcVV b
  | .fmul d a b => dstV d && srcVV a && srcVV b
  | .fdiv d a b => dstV d && srcVV a && srcVV b
  | .fsqrt d a => dstV d && srcVV a
  | .fmin d a b => dstV d && srcVV a && srcVV b
  | .fmax d a b => dstV d && srcVV a && srcVV b
  | .fneg d a => dstV d && srcVV a
  | .fabs d a => dstV d && srcVV a
  | .fscl d a b => dstV d && srcVV a && srcVV b
  | .fint d a => dstV d && srcVV a
  | .fexp d a => dstV d && srcVV a
  | .fexp3 d a => dstV d && srcVV a
  | .flog d a => dstV d && srcVV a
  | .flog3 d a => dstV d && srcVV a
  | .frcp d a => dstV d && srcVV a
  | .frsqrt d a => dstV d && srcVV a
  | .fsin d a => dstV d && srcVV a
  | .fcos d a => dstV d && srcVV a
  | .ftanh d a => dstV d && srcVV a
  | .fma d a b c => dstV d && srcVV a && srcVV b && srcVV c
  | .fms d a b c => dstV d && srcVV a && srcVV b && srcVV c
  | .fnma d a b c => dstV d && srcVV a && srcVV b && srcVV c
  | .mad d a b c => dstV d && srcVV a && srcVV b && srcVV c
  | .mads d a b c => dstV d && srcVV a && srcVV b && srcVV c
  | .sel3 d a b c x => dstV d && srcVV a && srcVV b && srcVV c && below 9 x
  | .clamp d a b c => dstV d && srcVV a && srcVV b && srcVV c
  | .fclamp d a b c => dstV d && srcVV a && srcVV b && srcVV c
  | .cmpVector d a b => maskDst d && srcVV a && srcVV b
  | .fcmp d a b => maskDst d && srcVV a && srcVV b
  | .fcls d a => maskDst d && srcVV a
  | .sgnMask d a => maskDst d && srcVV a
  | .kmin d a b => maskDst d && below 9 a && below 9 b
  | .kmax d a b => maskDst d && below 9 a && below 9 b
  | .kneg d a => maskDst d && below 9 a
  | .ksum d a b => maskDst d && below 9 a && below 9 b
  | .kmul d a b => maskDst d && below 9 a && below 9 b
  | .kval d a => below 243 d && below 9 a
  | .cvt d a b => dstV d && srcVV a && within (-98) 97 b
  | .frombin d a b => dstV d && srcVV a && within (-63) 62 b
  | .tobin d a b => dstV d && srcVV a && within (-63) 62 b
  | .rot d a b => dstV d && srcVV a && srcVU b
  | .slide d a b => dstV d && srcVV a && srcVU b
  | .shfl d a b => dstV d && srcVV a && srcVV b
  | .bcast d a b => dstV d && srcVV a && srcVU b
  | .radd d a => dstV d && srcVV a
  | .radds d a => dstV d && srcVV a
  | .rmin d a => dstV d && srcVV a
  | .rmax d a => dstV d && srcVV a
  | .rfadd d a => dstV d && srcVV a
  | .rfmin d a => dstV d && srcVV a
  | .rfmax d a => dstV d && srcVV a
  | .kcnt d a b => dstV d && below 9 a && within (-1) 1 b
  | .kfirst d a => dstV d && below 9 a
  | .sadd d a => dstV d && srcVV a
  | .sadds d a => dstV d && srcVV a
  | .smin d a => dstV d && srcVV a
  | .smax d a => dstV d && srcVV a
  | .sfadd d a => dstV d && srcVV a
  | .ld9 d a b => below 243 d && below 27 a && srcVV b
  | .ld27 d a b => below 243 d && below 27 a && srcVV b
  | .ldb8 d a b => below 243 d && below 27 a && srcVV b
  | .ldb16 d a b => below 243 d && below 27 a && srcVV b
  | .ldb32 d a b => below 243 d && below 27 a && srcVV b
  | .ldw9 d a b => below 243 d && below 27 a && srcVV b
  | .ldw27 d a b => below 243 d && below 27 a && srcVV b
  | .lds27 d a b => below 81 d && below 27 a && srcU b
  | .st9 d a b => below 243 d && below 27 a && srcVV b
  | .st27 d a b => below 243 d && below 27 a && srcVV b
  | .stb8 d a b => below 243 d && below 27 a && srcVV b
  | .stb16 d a b => below 243 d && below 27 a && srcVV b
  | .stb32 d a b => below 243 d && below 27 a && srcVV b
  | .stnt9 d a b => below 243 d && below 27 a && srcVV b
  | .stnt27 d a b => below 243 d && below 27 a && srcVV b
  | .sts27 d a b => below 81 d && below 27 a && srcU b
  | .pf a b => below 27 a && srcVV b
  | .fenceAcq a b => within 1 5 a && within 1 63 b
  | .fenceRel a b => within 1 5 a && within 1 63 b
  | .fenceFull a b => within 1 5 a && within 1 63 b
  | .fenceSc a b => within 1 5 a && within 1 63 b
  | .lds54 d a b => below 80 d && below 27 a && srcU b
  | .sts54 d a b => below 80 d && below 27 a && srcU b
  | .ldsp d a b => below 27 d && below 27 a && srcU b
  | .stsp d a b => below 27 d && below 27 a && srcU b
  | .ldx9 d a x e => below 243 d && srcVV a && below 27 x && immFits 13 e
  | .ldx27 d a x e => below 243 d && srcVV a && below 27 x && immFits 13 e
  | .ldxb8 d a x e => below 243 d && srcVV a && below 27 x && immFits 13 e
  | .ldxb16 d a x e => below 243 d && srcVV a && below 27 x && immFits 13 e
  | .ldxb32 d a x e => below 243 d && srcVV a && below 27 x && immFits 13 e
  | .ldpk d a c x e => below 243 d && srcVV a && within 2 9 c && below 27 x && immFits 13 e
  | .ldwx9 d a c x e => below 243 d && srcVV a && within 1 63 c && below 27 x && immFits 13 e
  | .ldwx27 d a c x e => below 243 d && srcVV a && within 1 63 c && below 27 x && immFits 13 e
  | .ld27Rlx d a c x e => below 243 d && srcVV a && within 1 5 c && below 27 x && immFits 13 e
  | .ld27Acq d a c x e => below 243 d && srcVV a && within (-64) 95 c && below 27 x && immFits 13 e
  | .stx9 a b x e => srcVV a && srcVV b && below 27 x && immFits 13 e
  | .stx27 a b x e => srcVV a && srcVV b && below 27 x && immFits 13 e
  | .stxb8 a b x e => srcVV a && srcVV b && below 27 x && immFits 13 e
  | .stxb16 a b x e => srcVV a && srcVV b && below 27 x && immFits 13 e
  | .stxb32 a b x e => srcVV a && srcVV b && below 27 x && immFits 13 e
  | .stpk a b c x e => srcVV a && srcVV b && within 2 9 c && below 27 x && immFits 13 e
  | .st27Rlx a b c x e => srcVV a && srcVV b && within 1 5 c && below 27 x && immFits 13 e
  | .st27Rel a b c x e => srcVV a && srcVV b && within (-64) 95 c && below 27 x && immFits 13 e
  | .atmAdd d a b c x e => below 243 d && srcVV a && srcVV b && within 1 20 c && below 27 x && immFits 13 e
  | .atmAdds d a b c x e => below 243 d && srcVV a && srcVV b && within 1 20 c && below 27 x && immFits 13 e
  | .atmMin d a b c x e => below 243 d && srcVV a && srcVV b && within 1 20 c && below 27 x && immFits 13 e
  | .atmMax d a b c x e => below 243 d && srcVV a && srcVV b && within 1 20 c && below 27 x && immFits 13 e
  | .atmTmin d a b c x e => below 243 d && srcVV a && srcVV b && within 1 20 c && below 27 x && immFits 13 e
  | .atmTmax d a b c x e => below 243 d && srcVV a && srcVV b && within 1 20 c && below 27 x && immFits 13 e
  | .atmSwap d a b c x e => below 243 d && srcVV a && srcVV b && within 1 20 c && below 27 x && immFits 13 e
  | .atmCas d a b c x e => below 243 d && srcVV a && srcVV b && within 1 20 c && below 27 x && immFits 13 e
  | .atmFadd d a b c x e => below 243 d && srcVV a && srcVV b && within 1 20 c && below 27 x && immFits 13 e
  | .mpass d a b => optS d && below 27 a && below 9 b
  | .mpassx d a x e => optS d && below 9 a && below 27 x && immFits 13 e
  | .mdrain d a b => optS d && below 27 a && below 9 b
  | .mdrainx d a x e => optS d && below 9 a && below 27 x && immFits 13 e
  | .mzero a b => below 9 a && within 1 9 b
  | .mpin d a => optS d && below 27 a
  | .munpin a => below 27 a
  | .cpy d a => optS d && below 27 a
  | .cpyx d x e => optS d && below 27 x && immFits 13 e
  | .nbinit a b => below 27 a && srcS b
  | .nbarr d a b => optS d && below 27 a && srcS b
  | .nbarrx d a b c => optS d && below 27 a && srcS b && oddImm c
  | .nbwait a b => below 27 a && srcS b
  | .nbwaitx a b c => below 27 a && srcS b && within 1 63 c
  | .nbget d a => below 81 d && below 27 a
  | .fpush a b => srcS a && below 243 b
  | .fpop d a => below 243 d && srcS a
  | .pclr a b => below 27 a && srcS b
  | .qpost d a => optS d && below 27 a
  | .qstat d a => optS d && srcS a
  | .leave a => srcS a
  | .unleave => true
  | .issueChoice core => below 729 core
  | .valueLanding core ctx _ => below 729 core && below 27 ctx
  | .itemMove core ctx slot => below 729 core && below 27 ctx && below 81 slot
  | .formerGroupIssue core _ => below 729 core
  | .formerIssueTimeout core _ => below 729 core
  | .teamCast core entry => below 729 core && below 27 entry
  | .rangeMerge core _ => below 729 core
  | .teamDissolve _ => true
  | .drainingEnd core ctx => below 729 core && below 27 ctx
  | .teamRetire _ => true
  | .launchCommand q => below 81 q
  | .abort q => below 81 q
  | .noOperation q => below 81 q
  | .doorbell q _ => below 81 q
  | .hqCtlWrite q _ => below 81 q
  | .hqPtailWrite q _ => below 81 q
  | .completionRecordWrite q => below 81 q
  | .eventRecordWrite => true
  | .launchStart _ => true
  | .coResidencyCast _ => true
  | .launchComplete _ => true
  | .workPacket die => below 9 die
  | .mboxPacketArrival die => below 9 die
  | .leaveGrant die => below 9 die
  | .timeSliceExpiry die _ => below 9 die
  | .shareSave die _ => below 9 die
  | .shareRestore die _ => below 9 die
  | .shadowSwap core => below 729 core
  | .shadowSwapBack core => below 729 core
  | .pageTableWalk die _ => below 9 die
  | .invalidationByRange agent _ => below 20 agent
  | .drainedReport agent _ => below 20 agent
  | .bkModeloWrite core _ _ => below 729 core
  | .bankConversion core bank => below 729 core && below 36 bank
  | .waitingLoadRetry core ctx => below 729 core && below 27 ctx
  | .fifoPushEntry cluster bank => below 243 cluster && below 108 bank
  | .fifoPopRemove cluster bank => below 243 cluster && below 108 bank
  | .scrubAtom st => below 9 st
  | .scrubLevelChange st => below 9 st
  | .scrubPeriodEnd st => below 9 st
  | .scCtlWrite st _ => below 9 st
  | .scStatusWrite st _ => below 9 st
  | .retraining st _ => below 9 st
  | .forcedRetraining st _ => below 9 st
  | .miItabWrite j _ => below 9 j
  | .miCtlLock _ => true
  | .queryAccept _ => true
  | .expansion _ => true
  | .searchProbe _ _ => true
  | .queryCompletion _ => true
  | .matrixPass _ => true
  | .drain _ => true
  | .blockCopy _ => true
  | .copyIntoRegisters _ => true
  | .trapEntry core ctx => below 729 core && below 27 ctx
  | .rollback core ctx _ => below 729 core && below 27 ctx
  | .halt core ctx => below 729 core && below 27 ctx
  | .resume core ctx => below 729 core && below 27 ctx
  | .step core ctx => below 729 core && below 27 ctx
  | .readVectorLane core ctx lane reg => below 729 core && below 27 ctx && below 81 lane && below 243 reg
  | .readScalar core ctx reg => below 729 core && below 27 ctx && below 81 reg
  | .readState core ctx => below 729 core && below 27 ctx
  | .friezeSample core => below 729 core
  | .causalTrialStart die _ => below 9 die
  | .causalTrialEnd die => below 9 die
  | .ckLoRead core ctx => below 729 core && below 27 ctx
  | .systemRegisterWrite core ctx _ _ => below 729 core && below 27 ctx
  | .hostWrite _ _ => true
  | .hostRead _ => true
  | .peerAccess port _ _ => below 8 port
  | .peerNegotiation port _ _ _ _ _ => below 8 port
  | .windowRegisterWrite r _ => below 4 r
  | .flitReceive tail _ _ => below 54 tail
  | .replay tail _ => below 54 tail
  | .linkTraining link _ _ => below 27 link
  | .widthReduction die => below 9 die
  | .frequencyChange die => below 9 die
  | .readShared _ => true
  | .readOwned _ => true
  | .upgrade _ => true
  | .writeBack _ => true
  | .partialWrite _ => true
  | .atomicRequest _ => true
  | .evictionNotice _ => true
  | .invalidate _ => true
  | .downgrade _ => true
  | .fetchAndInvalidate _ => true
  | .data _ => true
  | .acknowledge _ => true
  | .dataDirty _ => true
  | .acknowledgeAlreadyWrittenBack _ => true
  | .errorResponse _ => true
  | .mailboxPacket _ => true
  | .linkManagement _ => true
  | .generation => true
  | .loadKeySlot => true
  | .clearKeySlot => true
  | .operatingPoint => true
  | .quote => true
  | .dieMap => true
  | .imageUpload => true
  | .transportKey => true
  | .powerOn _ => true
  | .packageReset => true
  | .malformedCommand q => below 82 q
  | .lgBudgetWrite die _ => below 9 die
  | .peerPortDown port => below 8 port

end Sys2Proof
end

