-- ==== Sys2Proof/Decode.lean ====
section
/-! DEFINITION. Bundles from nonets and back (08 R195 to R206). A half or a wide instruction is first cut into its
fields (`Raw`), the fields name an instruction (`buildInstr`), and the instruction is accepted where its operands are
admitted and its own fields are the ones cut: so every unused field and every reserved trit is 0. The encoder writes
the same fields. -/

namespace Sys2Proof

open Sys2Proof.Machine

/-- The fields of a 24-trit half (R199) or of a wide instruction of shape WI, WB or WR (R200). -/
inductive Raw
  | half (vec : Bool) (op dst ka fa kb fb mode : Int)
  | wi (op dst mode imm : Int)
  | wb (op cond dn dz dp : Int)
  | wr (op dst ka fa kb fb kc fc aux disp mode : Int)
  deriving DecidableEq, Repr

/-- The field that names member `i` of a group of registers that starts at index `base` of its space (R202). -/
def ix (i base : Nat) : Int := (i : Int) + base - 121
/-- The member that a field names. -/
def ixOf (f : Int) (base : Nat) : Nat := (f + 121 - base).toNat

/-- Kind and field of a source (R201). -/
def Opd.kind : Opd → Int
  | .reg _ => 0
  | .shared _ => -1
  | .imm _ => 1
def Opd.field : Opd → Int
  | .reg i => ix i 0
  | .shared i => ix i 0
  | .imm v => v
/-- The source of a kind and a field. -/
def opdOf (k f : Int) : Opd :=
  if k = 0 then .reg (ixOf f 0) else if k = -1 then .shared (ixOf f 0) else .imm f

/-- Field and mode of a destination (R203). -/
def Dst.field : Dst → Int
  | .reg i _ => ix i 0
  | .latchOnly => 0
def Dst.mode : Dst → Int
  | .reg _ l => if l then 1 else 0
  | .latchOnly => -1
/-- The destination of a field and a mode. -/
def dstOf (f m : Int) : Dst := if m = -1 then .latchOnly else .reg (ixOf f 0) (decide (m = 1))

/-- Field and mode of the scalar `mov`'s destination (R219). -/
def MovDst.field : MovDst → Int
  | .s d => d.field
  | .k i => ix i 108
  | .fm i => ix i 117
def MovDst.mode : MovDst → Int
  | .s d => d.mode
  | _ => 0
/-- The destination of the scalar `mov` that a field and a mode name. -/
def movDstOf (f m : Int) : MovDst :=
  if m ≠ 0 then .s (dstOf f m)
  else if ix 0 108 ≤ f ∧ f < ix 0 117 then .k (ixOf f 108)
  else if ix 0 117 ≤ f ∧ f < ix 0 126 then .fm (ixOf f 117)
  else .s (dstOf f m)

/-- The field of an optional `s` destination: 0 for none (R280). -/
def optField : Option Nat → Int
  | none => 0
  | some i => ix i 0
def optOf (f : Int) : Option Nat := if f = 0 then none else some (ixOf f 0)

/-- The fields of each instruction of a bundle, from the encoding tables; an event has no encoding. -/
def Instr.raw : Instr → Option Raw
  | .nopScalar => some (.half false 0 (0) (0) (0) (0) (0) (0))
  | .addScalar d a b => some (.half false 1 (d.field) (a.kind) (a.field) (b.kind) (b.field) (d.mode))
  | .subScalar d a b => some (.half false 2 (d.field) (a.kind) (a.field) (b.kind) (b.field) (d.mode))
  | .mulScalar d a b => some (.half false 3 (d.field) (a.kind) (a.field) (b.kind) (b.field) (d.mode))
  | .mulhScalar d a b => some (.half false 4 (d.field) (a.kind) (a.field) (b.kind) (b.field) (d.mode))
  | .divScalar d a b => some (.half false 5 (d.field) (a.kind) (a.field) (b.kind) (b.field) (d.mode))
  | .remScalar d a b => some (.half false 6 (d.field) (a.kind) (a.field) (b.kind) (b.field) (d.mode))
  | .addsScalar d a b => some (.half false 7 (d.field) (a.kind) (a.field) (b.kind) (b.field) (d.mode))
  | .subsScalar d a b => some (.half false 8 (d.field) (a.kind) (a.field) (b.kind) (b.field) (d.mode))
  | .mulsScalar d a b => some (.half false 9 (d.field) (a.kind) (a.field) (b.kind) (b.field) (d.mode))
  | .minScalar d a b => some (.half false 10 (d.field) (a.kind) (a.field) (b.kind) (b.field) (d.mode))
  | .maxScalar d a b => some (.half false 11 (d.field) (a.kind) (a.field) (b.kind) (b.field) (d.mode))
  | .satnScalar d a b => some (.half false 12 (d.field) (a.kind) (a.field) (b.kind) (b.field) (d.mode))
  | .wrapnScalar d a b => some (.half false 13 (d.field) (a.kind) (a.field) (b.kind) (b.field) (d.mode))
  | .tminScalar d a b => some (.half false (-1) (d.field) (a.kind) (a.field) (b.kind) (b.field) (d.mode))
  | .tmaxScalar d a b => some (.half false (-2) (d.field) (a.kind) (a.field) (b.kind) (b.field) (d.mode))
  | .negScalar d a => some (.half false (-3) (d.field) (a.kind) (a.field) (0) (0) (d.mode))
  | .tsumScalar d a b => some (.half false (-4) (d.field) (a.kind) (a.field) (b.kind) (b.field) (d.mode))
  | .tmulScalar d a b => some (.half false (-5) (d.field) (a.kind) (a.field) (b.kind) (b.field) (d.mode))
  | .absScalar d a => some (.half false (-6) (d.field) (a.kind) (a.field) (0) (0) (d.mode))
  | .shScalar d a b => some (.half false 14 (d.field) (a.kind) (a.field) (b.kind) (b.field) (d.mode))
  | .shsScalar d a b => some (.half false 15 (d.field) (a.kind) (a.field) (b.kind) (b.field) (d.mode))
  | .movScalar d a => some (.half false 16 (d.field) (a.kind) (a.field) (0) (0) (d.mode))
  | .cmpScalar d a b => some (.half false 17 (d.field) (a.kind) (a.field) (b.kind) (b.field) (d.mode))
  | .ext d a => some (.half false 18 (d.field) (1) (a) (0) (0) (d.mode))
  | .li d m => some (.wi 1 (d.field) (d.mode) m)
  | .liv d m => some (.wi 2 (d.field) (d.mode) m)
  | .armx d m => some (.wi 3 (d.field) (d.mode) m)
  | .army d m => some (.wi 4 (d.field) (d.mode) m)
  | .armz d m => some (.wi 5 (d.field) (d.mode) m)
  | .ali d m => some (.wi 6 (ix d 81) (0) m)
  | .amov d a => some (.half false (-14) (ix d 81) (0) (ix a 81) (0) (0) (0))
  | .aadv d b => some (.half false (-15) (ix d 81) (0) (0) (b.kind) (b.field) (0))
  | .awin d a b => some (.half false (-16) (ix d 81) (a.kind) (a.field) (b.kind) (b.field) (0))
  | .aperm d a => some (.half false (-17) (ix d 81) (a.kind) (a.field) (0) (0) (0))
  | .aget d a b => some (.half false (-18) (d.field) (0) (ix a 81) (1) (b) (d.mode))
  | .acat d a b => some (.half false (-19) (ix d 81) (a.kind) (a.field) (b.kind) (b.field) (0))
  | .br b => some (.half false 41 (0) (0) (0) (1) (b) (0))
  | .loop d b => some (.half false 42 (ix d 0) (0) (0) (1) (b) (0))
  | .ret a => some (.half false 43 (0) (0) (ix a 81) (0) (0) (0))
  | .cut d a => some (.half false 44 (ix d 108) (0) (ix a 0) (0) (0) (0))
  | .join => some (.half false 45 (0) (0) (0) (0) (0) (0))
  | .joinD a => some (.half false 46 (0) (a.kind) (a.field) (0) (0) (0))
  | .exit => some (.half false 47 (0) (0) (0) (0) (0) (0))
  | .yield => some (.half false 48 (0) (0) (0) (0) (0) (0))
  | .region => some (.half false 49 (0) (0) (0) (0) (0) (0))
  | .safe => some (.half false 50 (0) (0) (0) (0) (0) (0))
  | .br3 c tn tz tp => some (.wb 14 (ix c 0) tn tz tp)
  | .br3s c tn tz tp => some (.wb 15 (ix c 0) tn tz tp)
  | .jmp tz => some (.wb 16 (0) 0 tz 0)
  | .call c tz => some (.wb 17 (ix c 81) 0 tz 0)
  | .srd d a => some (.half false (-41) (d.field) (a.kind) (a.field) (0) (0) (d.mode))
  | .swr a b => some (.half false (-42) (0) (a.kind) (a.field) (b.kind) (b.field) (0))
  | .trap a => some (.half false (-43) (0) (a.kind) (a.field) (0) (0) (0))
  | .rft => some (.half false (-44) (0) (0) (0) (0) (0) (0))
  | .bkpt a => some (.half false (-45) (0) (1) (a) (0) (0) (0))
  | .inval d a b => some (.half false (-46) (ix d 0) (0) (ix a 0) (1) (b) (0))
  | .bkmode a b => some (.half false (-47) (0) (a.kind) (a.field) (b.kind) (b.field) (0))
  | .launch d a => some (.half false (-48) (ix d 0) (0) (ix a 81) (0) (0) (0))
  | .mbox d a => some (.half false (-49) (ix d 0) (0) (ix a 81) (0) (0) (0))
  | .share d a b => some (.half false (-50) (ix d 0) (0) (ix a 81) (b.kind) (b.field) (0))
  | .pcomp a b => some (.half false (-51) (0) (0) (ix a 81) (b.kind) (b.field) (0))
  | .tcbsig a => some (.half false (-52) (0) (0) (ix a 81) (0) (0) (0))
  | .prog a => some (.half false (-53) (0) (a.kind) (a.field) (0) (0) (0))
  | .nopVector => some (.half true 0 (0) (0) (0) (0) (0) (0))
  | .addVector d a b => some (.half true 1 (d.field) (a.kind) (a.field) (b.kind) (b.field) (d.mode))
  | .subVector d a b => some (.half true 2 (d.field) (a.kind) (a.field) (b.kind) (b.field) (d.mode))
  | .mulVector d a b => some (.half true 3 (d.field) (a.kind) (a.field) (b.kind) (b.field) (d.mode))
  | .mulhVector d a b => some (.half true 4 (d.field) (a.kind) (a.field) (b.kind) (b.field) (d.mode))
  | .divVector d a b => some (.half true 5 (d.field) (a.kind) (a.field) (b.kind) (b.field) (d.mode))
  | .remVector d a b => some (.half true 6 (d.field) (a.kind) (a.field) (b.kind) (b.field) (d.mode))
  | .addsVector d a b => some (.half true 7 (d.field) (a.kind) (a.field) (b.kind) (b.field) (d.mode))
  | .subsVector d a b => some (.half true 8 (d.field) (a.kind) (a.field) (b.kind) (b.field) (d.mode))
  | .mulsVector d a b => some (.half true 9 (d.field) (a.kind) (a.field) (b.kind) (b.field) (d.mode))
  | .minVector d a b => some (.half true 10 (d.field) (a.kind) (a.field) (b.kind) (b.field) (d.mode))
  | .maxVector d a b => some (.half true 11 (d.field) (a.kind) (a.field) (b.kind) (b.field) (d.mode))
  | .satnVector d a b => some (.half true 12 (d.field) (a.kind) (a.field) (b.kind) (b.field) (d.mode))
  | .wrapnVector d a b => some (.half true 13 (d.field) (a.kind) (a.field) (b.kind) (b.field) (d.mode))
  | .tminVector d a b => some (.half true (-1) (d.field) (a.kind) (a.field) (b.kind) (b.field) (d.mode))
  | .tmaxVector d a b => some (.half true (-2) (d.field) (a.kind) (a.field) (b.kind) (b.field) (d.mode))
  | .negVector d a => some (.half true (-3) (d.field) (a.kind) (a.field) (0) (0) (d.mode))
  | .tsumVector d a b => some (.half true (-4) (d.field) (a.kind) (a.field) (b.kind) (b.field) (d.mode))
  | .tmulVector d a b => some (.half true (-5) (d.field) (a.kind) (a.field) (b.kind) (b.field) (d.mode))
  | .absVector d a => some (.half true (-6) (d.field) (a.kind) (a.field) (0) (0) (d.mode))
  | .shVector d a b => some (.half true (-7) (d.field) (a.kind) (a.field) (b.kind) (b.field) (d.mode))
  | .shsVector d a b => some (.half true (-8) (d.field) (a.kind) (a.field) (b.kind) (b.field) (d.mode))
  | .movVector d a => some (.half true (-9) (d.field) (a.kind) (a.field) (0) (0) (d.mode))
  | .sgn d a => some (.half true (-10) (d.field) (a.kind) (a.field) (0) (0) (d.mode))
  | .fadd d a b => some (.half true 14 (d.field) (a.kind) (a.field) (b.kind) (b.field) (d.mode))
  | .fsub d a b => some (.half true 15 (d.field) (a.kind) (a.field) (b.kind) (b.field) (d.mode))
  | .fmul d a b => some (.half true 16 (d.field) (a.kind) (a.field) (b.kind) (b.field) (d.mode))
  | .fdiv d a b => some (.half true 17 (d.field) (a.kind) (a.field) (b.kind) (b.field) (d.mode))
  | .fsqrt d a => some (.half true 18 (d.field) (a.kind) (a.field) (0) (0) (d.mode))
  | .fmin d a b => some (.half true 19 (d.field) (a.kind) (a.field) (b.kind) (b.field) (d.mode))
  | .fmax d a b => some (.half true 20 (d.field) (a.kind) (a.field) (b.kind) (b.field) (d.mode))
  | .fneg d a => some (.half true 21 (d.field) (a.kind) (a.field) (0) (0) (d.mode))
  | .fabs d a => some (.half true 22 (d.field) (a.kind) (a.field) (0) (0) (d.mode))
  | .fscl d a b => some (.half true 23 (d.field) (a.kind) (a.field) (b.kind) (b.field) (d.mode))
  | .fint d a => some (.half true 24 (d.field) (a.kind) (a.field) (0) (0) (d.mode))
  | .fexp d a => some (.half true 25 (d.field) (a.kind) (a.field) (0) (0) (d.mode))
  | .fexp3 d a => some (.half true 26 (d.field) (a.kind) (a.field) (0) (0) (d.mode))
  | .flog d a => some (.half true 27 (d.field) (a.kind) (a.field) (0) (0) (d.mode))
  | .flog3 d a => some (.half true 28 (d.field) (a.kind) (a.field) (0) (0) (d.mode))
  | .frcp d a => some (.half true 29 (d.field) (a.kind) (a.field) (0) (0) (d.mode))
  | .frsqrt d a => some (.half true 30 (d.field) (a.kind) (a.field) (0) (0) (d.mode))
  | .fsin d a => some (.half true 31 (d.field) (a.kind) (a.field) (0) (0) (d.mode))
  | .fcos d a => some (.half true 32 (d.field) (a.kind) (a.field) (0) (0) (d.mode))
  | .ftanh d a => some (.half true 33 (d.field) (a.kind) (a.field) (0) (0) (d.mode))
  | .fma d a b c => some (.wr (-14) (d.field) (a.kind) (a.field) (b.kind) (b.field) (c.kind) (c.field) (0) 0 (d.mode))
  | .fms d a b c => some (.wr (-15) (d.field) (a.kind) (a.field) (b.kind) (b.field) (c.kind) (c.field) (0) 0 (d.mode))
  | .fnma d a b c => some (.wr (-16) (d.field) (a.kind) (a.field) (b.kind) (b.field) (c.kind) (c.field) (0) 0 (d.mode))
  | .mad d a b c => some (.wr (-17) (d.field) (a.kind) (a.field) (b.kind) (b.field) (c.kind) (c.field) (0) 0 (d.mode))
  | .mads d a b c => some (.wr (-18) (d.field) (a.kind) (a.field) (b.kind) (b.field) (c.kind) (c.field) (0) 0 (d.mode))
  | .sel3 d a b c x => some (.wr (-19) (d.field) (a.kind) (a.field) (b.kind) (b.field) (c.kind) (c.field) (ix x 0) 0 (d.mode))
  | .clamp d a b c => some (.wr (-20) (d.field) (a.kind) (a.field) (b.kind) (b.field) (c.kind) (c.field) (0) 0 (d.mode))
  | .fclamp d a b c => some (.wr (-21) (d.field) (a.kind) (a.field) (b.kind) (b.field) (c.kind) (c.field) (0) 0 (d.mode))
  | .cmpVector d a b => some (.half true (-14) (ix d 0) (a.kind) (a.field) (b.kind) (b.field) (0))
  | .fcmp d a b => some (.half true (-15) (ix d 0) (a.kind) (a.field) (b.kind) (b.field) (0))
  | .fcls d a => some (.half true (-16) (ix d 0) (a.kind) (a.field) (0) (0) (0))
  | .sgnMask d a => some (.half true (-17) (ix d 0) (a.kind) (a.field) (0) (0) (0))
  | .kmin d a b => some (.half true (-18) (ix d 0) (0) (ix a 0) (0) (ix b 0) (0))
  | .kmax d a b => some (.half true (-19) (ix d 0) (0) (ix a 0) (0) (ix b 0) (0))
  | .kneg d a => some (.half true (-20) (ix d 0) (0) (ix a 0) (0) (0) (0))
  | .ksum d a b => some (.half true (-21) (ix d 0) (0) (ix a 0) (0) (ix b 0) (0))
  | .kmul d a b => some (.half true (-22) (ix d 0) (0) (ix a 0) (0) (ix b 0) (0))
  | .kval d a => some (.half true (-23) (ix d 0) (0) (ix a 0) (0) (0) (0))
  | .cvt d a b => some (.half true 41 (d.field) (a.kind) (a.field) (1) (b) (d.mode))
  | .frombin d a b => some (.half true 42 (d.field) (a.kind) (a.field) (1) (b) (d.mode))
  | .tobin d a b => some (.half true 43 (d.field) (a.kind) (a.field) (1) (b) (d.mode))
  | .rot d a b => some (.half true (-41) (d.field) (a.kind) (a.field) (b.kind) (b.field) (d.mode))
  | .slide d a b => some (.half true (-42) (d.field) (a.kind) (a.field) (b.kind) (b.field) (d.mode))
  | .shfl d a b => some (.half true (-43) (d.field) (a.kind) (a.field) (b.kind) (b.field) (d.mode))
  | .bcast d a b => some (.half true (-44) (d.field) (a.kind) (a.field) (b.kind) (b.field) (d.mode))
  | .radd d a => some (.half true (-45) (d.field) (a.kind) (a.field) (0) (0) (d.mode))
  | .radds d a => some (.half true (-46) (d.field) (a.kind) (a.field) (0) (0) (d.mode))
  | .rmin d a => some (.half true (-47) (d.field) (a.kind) (a.field) (0) (0) (d.mode))
  | .rmax d a => some (.half true (-48) (d.field) (a.kind) (a.field) (0) (0) (d.mode))
  | .rfadd d a => some (.half true (-49) (d.field) (a.kind) (a.field) (0) (0) (d.mode))
  | .rfmin d a => some (.half true (-50) (d.field) (a.kind) (a.field) (0) (0) (d.mode))
  | .rfmax d a => some (.half true (-51) (d.field) (a.kind) (a.field) (0) (0) (d.mode))
  | .kcnt d a b => some (.half true (-52) (d.field) (0) (ix a 0) (1) (b) (d.mode))
  | .kfirst d a => some (.half true (-53) (d.field) (0) (ix a 0) (0) (0) (d.mode))
  | .sadd d a => some (.half true (-54) (d.field) (a.kind) (a.field) (0) (0) (d.mode))
  | .sadds d a => some (.half true (-55) (d.field) (a.kind) (a.field) (0) (0) (d.mode))
  | .smin d a => some (.half true (-56) (d.field) (a.kind) (a.field) (0) (0) (d.mode))
  | .smax d a => some (.half true (-57) (d.field) (a.kind) (a.field) (0) (0) (d.mode))
  | .sfadd d a => some (.half true (-58) (d.field) (a.kind) (a.field) (0) (0) (d.mode))
  | .ld9 d a b => some (.half true 68 (ix d 0) (0) (ix a 81) (b.kind) (b.field) (0))
  | .ld27 d a b => some (.half true 69 (ix d 0) (0) (ix a 81) (b.kind) (b.field) (0))
  | .ldb8 d a b => some (.half true 70 (ix d 0) (0) (ix a 81) (b.kind) (b.field) (0))
  | .ldb16 d a b => some (.half true 71 (ix d 0) (0) (ix a 81) (b.kind) (b.field) (0))
  | .ldb32 d a b => some (.half true 72 (ix d 0) (0) (ix a 81) (b.kind) (b.field) (0))
  | .ldw9 d a b => some (.half true 73 (ix d 0) (0) (ix a 81) (b.kind) (b.field) (0))
  | .ldw27 d a b => some (.half true 74 (ix d 0) (0) (ix a 81) (b.kind) (b.field) (0))
  | .lds27 d a b => some (.half true 75 (ix d 0) (0) (ix a 81) (b.kind) (b.field) (0))
  | .st9 d a b => some (.half true 76 (ix d 0) (0) (ix a 81) (b.kind) (b.field) (0))
  | .st27 d a b => some (.half true 77 (ix d 0) (0) (ix a 81) (b.kind) (b.field) (0))
  | .stb8 d a b => some (.half true 78 (ix d 0) (0) (ix a 81) (b.kind) (b.field) (0))
  | .stb16 d a b => some (.half true 79 (ix d 0) (0) (ix a 81) (b.kind) (b.field) (0))
  | .stb32 d a b => some (.half true 80 (ix d 0) (0) (ix a 81) (b.kind) (b.field) (0))
  | .stnt9 d a b => some (.half true 81 (ix d 0) (0) (ix a 81) (b.kind) (b.field) (0))
  | .stnt27 d a b => some (.half true 82 (ix d 0) (0) (ix a 81) (b.kind) (b.field) (0))
  | .sts27 d a b => some (.half true 83 (ix d 0) (0) (ix a 81) (b.kind) (b.field) (0))
  | .pf a b => some (.half true 84 (0) (0) (ix a 81) (b.kind) (b.field) (0))
  | .fenceAcq a b => some (.half true 85 (0) (1) (a) (1) (b) (0))
  | .fenceRel a b => some (.half true 86 (0) (1) (a) (1) (b) (0))
  | .fenceFull a b => some (.half true 87 (0) (1) (a) (1) (b) (0))
  | .fenceSc a b => some (.half true 88 (0) (1) (a) (1) (b) (0))
  | .lds54 d a b => some (.half true 89 (ix d 0) (0) (ix a 81) (b.kind) (b.field) (0))
  | .sts54 d a b => some (.half true 90 (ix d 0) (0) (ix a 81) (b.kind) (b.field) (0))
  | .ldsp d a b => some (.half true 91 (ix d 81) (0) (ix a 81) (b.kind) (b.field) (0))
  | .stsp d a b => some (.half true 92 (ix d 81) (0) (ix a 81) (b.kind) (b.field) (0))
  | .ldx9 d a x e => some (.wr 41 (ix d 0) (a.kind) (a.field) (0) (0) (0) (0) (ix x 81) e (0))
  | .ldx27 d a x e => some (.wr 42 (ix d 0) (a.kind) (a.field) (0) (0) (0) (0) (ix x 81) e (0))
  | .ldxb8 d a x e => some (.wr 43 (ix d 0) (a.kind) (a.field) (0) (0) (0) (0) (ix x 81) e (0))
  | .ldxb16 d a x e => some (.wr 44 (ix d 0) (a.kind) (a.field) (0) (0) (0) (0) (ix x 81) e (0))
  | .ldxb32 d a x e => some (.wr 45 (ix d 0) (a.kind) (a.field) (0) (0) (0) (0) (ix x 81) e (0))
  | .ldpk d a c x e => some (.wr 46 (ix d 0) (a.kind) (a.field) (0) (0) (1) (c) (ix x 81) e (0))
  | .ldwx9 d a c x e => some (.wr 47 (ix d 0) (a.kind) (a.field) (0) (0) (1) (c) (ix x 81) e (0))
  | .ldwx27 d a c x e => some (.wr 48 (ix d 0) (a.kind) (a.field) (0) (0) (1) (c) (ix x 81) e (0))
  | .ld27Rlx d a c x e => some (.wr 49 (ix d 0) (a.kind) (a.field) (0) (0) (1) (c) (ix x 81) e (0))
  | .ld27Acq d a c x e => some (.wr 50 (ix d 0) (a.kind) (a.field) (0) (0) (1) (c) (ix x 81) e (0))
  | .stx9 a b x e => some (.wr 51 (0) (a.kind) (a.field) (b.kind) (b.field) (0) (0) (ix x 81) e (0))
  | .stx27 a b x e => some (.wr 52 (0) (a.kind) (a.field) (b.kind) (b.field) (0) (0) (ix x 81) e (0))
  | .stxb8 a b x e => some (.wr 53 (0) (a.kind) (a.field) (b.kind) (b.field) (0) (0) (ix x 81) e (0))
  | .stxb16 a b x e => some (.wr 54 (0) (a.kind) (a.field) (b.kind) (b.field) (0) (0) (ix x 81) e (0))
  | .stxb32 a b x e => some (.wr 55 (0) (a.kind) (a.field) (b.kind) (b.field) (0) (0) (ix x 81) e (0))
  | .stpk a b c x e => some (.wr 56 (0) (a.kind) (a.field) (b.kind) (b.field) (1) (c) (ix x 81) e (0))
  | .st27Rlx a b c x e => some (.wr 57 (0) (a.kind) (a.field) (b.kind) (b.field) (1) (c) (ix x 81) e (0))
  | .st27Rel a b c x e => some (.wr 58 (0) (a.kind) (a.field) (b.kind) (b.field) (1) (c) (ix x 81) e (0))
  | .atmAdd d a b c x e => some (.wr 59 (ix d 0) (a.kind) (a.field) (b.kind) (b.field) (1) (c) (ix x 81) e (0))
  | .atmAdds d a b c x e => some (.wr 60 (ix d 0) (a.kind) (a.field) (b.kind) (b.field) (1) (c) (ix x 81) e (0))
  | .atmMin d a b c x e => some (.wr 61 (ix d 0) (a.kind) (a.field) (b.kind) (b.field) (1) (c) (ix x 81) e (0))
  | .atmMax d a b c x e => some (.wr 62 (ix d 0) (a.kind) (a.field) (b.kind) (b.field) (1) (c) (ix x 81) e (0))
  | .atmTmin d a b c x e => some (.wr 63 (ix d 0) (a.kind) (a.field) (b.kind) (b.field) (1) (c) (ix x 81) e (0))
  | .atmTmax d a b c x e => some (.wr 64 (ix d 0) (a.kind) (a.field) (b.kind) (b.field) (1) (c) (ix x 81) e (0))
  | .atmSwap d a b c x e => some (.wr 65 (ix d 0) (a.kind) (a.field) (b.kind) (b.field) (1) (c) (ix x 81) e (0))
  | .atmCas d a b c x e => some (.wr 66 (ix d 0) (a.kind) (a.field) (b.kind) (b.field) (1) (c) (ix x 81) e (0))
  | .atmFadd d a b c x e => some (.wr 67 (ix d 0) (a.kind) (a.field) (b.kind) (b.field) (1) (c) (ix x 81) e (0))
  | .mpass d a b => some (.half false 68 (optField d) (0) (ix a 81) (0) (ix b 153) (0))
  | .mpassx d a x e => some (.wr (-43) (optField d) (0) (ix a 153) (0) (0) (0) (0) (ix x 81) e (0))
  | .mdrain d a b => some (.half false 69 (optField d) (0) (ix a 81) (0) (ix b 153) (0))
  | .mdrainx d a x e => some (.wr (-44) (optField d) (0) (ix a 153) (0) (0) (0) (0) (ix x 81) e (0))
  | .mzero a b => some (.half false 70 (0) (0) (ix a 153) (1) (b) (0))
  | .mpin d a => some (.half false 71 (optField d) (0) (ix a 81) (0) (0) (0))
  | .munpin a => some (.half false 72 (0) (0) (ix a 81) (0) (0) (0))
  | .cpy d a => some (.half false 73 (optField d) (0) (ix a 81) (0) (0) (0))
  | .cpyx d x e => some (.wr (-45) (optField d) (0) (0) (0) (0) (0) (0) (ix x 81) e (0))
  | .nbinit a b => some (.half false 74 (0) (0) (ix a 126) (b.kind) (b.field) (0))
  | .nbarr d a b => some (.half false 75 (optField d) (0) (ix a 126) (b.kind) (b.field) (0))
  | .nbarrx d a b c => some (.wr (-41) (optField d) (0) (ix a 126) (b.kind) (b.field) (1) (c) (0) 0 (0))
  | .nbwait a b => some (.half false 76 (0) (0) (ix a 126) (b.kind) (b.field) (0))
  | .nbwaitx a b c => some (.wr (-42) (0) (0) (ix a 126) (b.kind) (b.field) (1) (c) (0) 0 (0))
  | .nbget d a => some (.half false 77 (ix d 0) (0) (ix a 126) (0) (0) (0))
  | .fpush a b => some (.half false 78 (0) (a.kind) (a.field) (0) (ix b 0) (0))
  | .fpop d a => some (.half false 79 (ix d 0) (a.kind) (a.field) (0) (0) (0))
  | .pclr a b => some (.half false 80 (0) (0) (ix a 81) (b.kind) (b.field) (0))
  | .qpost d a => some (.half false 81 (optField d) (0) (ix a 81) (0) (0) (0))
  | .qstat d a => some (.half false 82 (optField d) (a.kind) (a.field) (0) (0) (0))
  | .leave a => some (.half false 83 (0) (a.kind) (a.field) (0) (0) (0))
  | .unleave => some (.half false 84 (0) (0) (0) (0) (0) (0))
  | .issueChoice .. => none
  | .valueLanding .. => none
  | .itemMove .. => none
  | .formerGroupIssue .. => none
  | .formerIssueTimeout .. => none
  | .teamCast .. => none
  | .rangeMerge .. => none
  | .teamDissolve .. => none
  | .drainingEnd .. => none
  | .teamRetire .. => none
  | .launchCommand .. => none
  | .abort .. => none
  | .noOperation .. => none
  | .doorbell .. => none
  | .hqCtlWrite .. => none
  | .hqPtailWrite .. => none
  | .completionRecordWrite .. => none
  | .eventRecordWrite => none
  | .launchStart .. => none
  | .coResidencyCast .. => none
  | .launchComplete .. => none
  | .workPacket .. => none
  | .mboxPacketArrival .. => none
  | .leaveGrant .. => none
  | .timeSliceExpiry .. => none
  | .shareSave .. => none
  | .shareRestore .. => none
  | .shadowSwap .. => none
  | .shadowSwapBack .. => none
  | .pageTableWalk .. => none
  | .invalidationByRange .. => none
  | .drainedReport .. => none
  | .bkModeloWrite .. => none
  | .bankConversion .. => none
  | .waitingLoadRetry .. => none
  | .fifoPushEntry .. => none
  | .fifoPopRemove .. => none
  | .scrubAtom .. => none
  | .scrubLevelChange .. => none
  | .scrubPeriodEnd .. => none
  | .scCtlWrite .. => none
  | .scStatusWrite .. => none
  | .retraining .. => none
  | .forcedRetraining .. => none
  | .miItabWrite .. => none
  | .miCtlLock .. => none
  | .queryAccept .. => none
  | .expansion .. => none
  | .searchProbe .. => none
  | .queryCompletion .. => none
  | .matrixPass .. => none
  | .drain .. => none
  | .blockCopy .. => none
  | .copyIntoRegisters .. => none
  | .trapEntry .. => none
  | .rollback .. => none
  | .halt .. => none
  | .resume .. => none
  | .step .. => none
  | .readVectorLane .. => none
  | .readScalar .. => none
  | .readState .. => none
  | .friezeSample .. => none
  | .causalTrialStart .. => none
  | .causalTrialEnd .. => none
  | .ckLoRead .. => none
  | .systemRegisterWrite .. => none
  | .hostWrite .. => none
  | .hostRead .. => none
  | .peerAccess .. => none
  | .peerNegotiation .. => none
  | .windowRegisterWrite .. => none
  | .flitReceive .. => none
  | .replay .. => none
  | .linkTraining .. => none
  | .widthReduction .. => none
  | .frequencyChange .. => none
  | .readShared .. => none
  | .readOwned .. => none
  | .upgrade .. => none
  | .writeBack .. => none
  | .partialWrite .. => none
  | .atomicRequest .. => none
  | .evictionNotice .. => none
  | .invalidate .. => none
  | .downgrade .. => none
  | .fetchAndInvalidate .. => none
  | .data .. => none
  | .acknowledge .. => none
  | .dataDirty .. => none
  | .acknowledgeAlreadyWrittenBack .. => none
  | .errorResponse .. => none
  | .mailboxPacket .. => none
  | .linkManagement .. => none
  | .generation => none
  | .loadKeySlot => none
  | .clearKeySlot => none
  | .operatingPoint => none
  | .quote => none
  | .dieMap => none
  | .imageUpload => none
  | .transportKey => none
  | .powerOn .. => none
  | .packageReset => none
  | .malformedCommand .. => none
  | .lgBudgetWrite .. => none
  | .peerPortDown .. => none

/-- The scalar map (R205; 09 R217 to R237, 11 R284). -/
def buildScalar (op dst ka fa kb fb mode : Int) : Option Instr :=
  match op with
  | 0 => some (.nopScalar)
  | 1 => some (.addScalar (dstOf dst mode) (opdOf ka fa) (opdOf kb fb))
  | 2 => some (.subScalar (dstOf dst mode) (opdOf ka fa) (opdOf kb fb))
  | 3 => some (.mulScalar (dstOf dst mode) (opdOf ka fa) (opdOf kb fb))
  | 4 => some (.mulhScalar (dstOf dst mode) (opdOf ka fa) (opdOf kb fb))
  | 5 => some (.divScalar (dstOf dst mode) (opdOf ka fa) (opdOf kb fb))
  | 6 => some (.remScalar (dstOf dst mode) (opdOf ka fa) (opdOf kb fb))
  | 7 => some (.addsScalar (dstOf dst mode) (opdOf ka fa) (opdOf kb fb))
  | 8 => some (.subsScalar (dstOf dst mode) (opdOf ka fa) (opdOf kb fb))
  | 9 => some (.mulsScalar (dstOf dst mode) (opdOf ka fa) (opdOf kb fb))
  | 10 => some (.minScalar (dstOf dst mode) (opdOf ka fa) (opdOf kb fb))
  | 11 => some (.maxScalar (dstOf dst mode) (opdOf ka fa) (opdOf kb fb))
  | 12 => some (.satnScalar (dstOf dst mode) (opdOf ka fa) (opdOf kb fb))
  | 13 => some (.wrapnScalar (dstOf dst mode) (opdOf ka fa) (opdOf kb fb))
  | -1 => some (.tminScalar (dstOf dst mode) (opdOf ka fa) (opdOf kb fb))
  | -2 => some (.tmaxScalar (dstOf dst mode) (opdOf ka fa) (opdOf kb fb))
  | -3 => some (.negScalar (dstOf dst mode) (opdOf ka fa))
  | -4 => some (.tsumScalar (dstOf dst mode) (opdOf ka fa) (opdOf kb fb))
  | -5 => some (.tmulScalar (dstOf dst mode) (opdOf ka fa) (opdOf kb fb))
  | -6 => some (.absScalar (dstOf dst mode) (opdOf ka fa))
  | 14 => some (.shScalar (dstOf dst mode) (opdOf ka fa) (opdOf kb fb))
  | 15 => some (.shsScalar (dstOf dst mode) (opdOf ka fa) (opdOf kb fb))
  | 16 => some (.movScalar (movDstOf dst mode) (opdOf ka fa))
  | 17 => some (.cmpScalar (dstOf dst mode) (opdOf ka fa) (opdOf kb fb))
  | 18 => some (.ext (dstOf dst mode) (fa))
  | -14 => some (.amov (ixOf dst 81) (ixOf fa 81))
  | -15 => some (.aadv (ixOf dst 81) (opdOf kb fb))
  | -16 => some (.awin (ixOf dst 81) (opdOf ka fa) (opdOf kb fb))
  | -17 => some (.aperm (ixOf dst 81) (opdOf ka fa))
  | -18 => some (.aget (dstOf dst mode) (ixOf fa 81) (fb))
  | -19 => some (.acat (ixOf dst 81) (opdOf ka fa) (opdOf kb fb))
  | 41 => some (.br (fb))
  | 42 => some (.loop (ixOf dst 0) (fb))
  | 43 => some (.ret (ixOf fa 81))
  | 44 => some (.cut (ixOf dst 108) (ixOf fa 0))
  | 45 => some (.join)
  | 46 => some (.joinD (opdOf ka fa))
  | 47 => some (.exit)
  | 48 => some (.yield)
  | 49 => some (.region)
  | 50 => some (.safe)
  | -41 => some (.srd (dstOf dst mode) (opdOf ka fa))
  | -42 => some (.swr (opdOf ka fa) (opdOf kb fb))
  | -43 => some (.trap (opdOf ka fa))
  | -44 => some (.rft)
  | -45 => some (.bkpt (fa))
  | -46 => some (.inval (ixOf dst 0) (ixOf fa 0) (fb))
  | -47 => some (.bkmode (opdOf ka fa) (opdOf kb fb))
  | -48 => some (.launch (ixOf dst 0) (ixOf fa 81))
  | -49 => some (.mbox (ixOf dst 0) (ixOf fa 81))
  | -50 => some (.share (ixOf dst 0) (ixOf fa 81) (opdOf kb fb))
  | -51 => some (.pcomp (ixOf fa 81) (opdOf kb fb))
  | -52 => some (.tcbsig (ixOf fa 81))
  | -53 => some (.prog (opdOf ka fa))
  | 68 => some (.mpass (optOf dst) (ixOf fa 81) (ixOf fb 153))
  | 69 => some (.mdrain (optOf dst) (ixOf fa 81) (ixOf fb 153))
  | 70 => some (.mzero (ixOf fa 153) (fb))
  | 71 => some (.mpin (optOf dst) (ixOf fa 81))
  | 72 => some (.munpin (ixOf fa 81))
  | 73 => some (.cpy (optOf dst) (ixOf fa 81))
  | 74 => some (.nbinit (ixOf fa 126) (opdOf kb fb))
  | 75 => some (.nbarr (optOf dst) (ixOf fa 126) (opdOf kb fb))
  | 76 => some (.nbwait (ixOf fa 126) (opdOf kb fb))
  | 77 => some (.nbget (ixOf dst 0) (ixOf fa 126))
  | 78 => some (.fpush (opdOf ka fa) (ixOf fb 0))
  | 79 => some (.fpop (ixOf dst 0) (opdOf ka fa))
  | 80 => some (.pclr (ixOf fa 81) (opdOf kb fb))
  | 81 => some (.qpost (optOf dst) (ixOf fa 81))
  | 82 => some (.qstat (optOf dst) (opdOf ka fa))
  | 83 => some (.leave (opdOf ka fa))
  | 84 => some (.unleave)
  | _ => none

/-- The vector map (R205; 10 R252 to R267, 09 R258). -/
def buildVector (op dst ka fa kb fb mode : Int) : Option Instr :=
  match op with
  | 0 => some (.nopVector)
  | 1 => some (.addVector (dstOf dst mode) (opdOf ka fa) (opdOf kb fb))
  | 2 => some (.subVector (dstOf dst mode) (opdOf ka fa) (opdOf kb fb))
  | 3 => some (.mulVector (dstOf dst mode) (opdOf ka fa) (opdOf kb fb))
  | 4 => some (.mulhVector (dstOf dst mode) (opdOf ka fa) (opdOf kb fb))
  | 5 => some (.divVector (dstOf dst mode) (opdOf ka fa) (opdOf kb fb))
  | 6 => some (.remVector (dstOf dst mode) (opdOf ka fa) (opdOf kb fb))
  | 7 => some (.addsVector (dstOf dst mode) (opdOf ka fa) (opdOf kb fb))
  | 8 => some (.subsVector (dstOf dst mode) (opdOf ka fa) (opdOf kb fb))
  | 9 => some (.mulsVector (dstOf dst mode) (opdOf ka fa) (opdOf kb fb))
  | 10 => some (.minVector (dstOf dst mode) (opdOf ka fa) (opdOf kb fb))
  | 11 => some (.maxVector (dstOf dst mode) (opdOf ka fa) (opdOf kb fb))
  | 12 => some (.satnVector (dstOf dst mode) (opdOf ka fa) (opdOf kb fb))
  | 13 => some (.wrapnVector (dstOf dst mode) (opdOf ka fa) (opdOf kb fb))
  | -1 => some (.tminVector (dstOf dst mode) (opdOf ka fa) (opdOf kb fb))
  | -2 => some (.tmaxVector (dstOf dst mode) (opdOf ka fa) (opdOf kb fb))
  | -3 => some (.negVector (dstOf dst mode) (opdOf ka fa))
  | -4 => some (.tsumVector (dstOf dst mode) (opdOf ka fa) (opdOf kb fb))
  | -5 => some (.tmulVector (dstOf dst mode) (opdOf ka fa) (opdOf kb fb))
  | -6 => some (.absVector (dstOf dst mode) (opdOf ka fa))
  | -7 => some (.shVector (dstOf dst mode) (opdOf ka fa) (opdOf kb fb))
  | -8 => some (.shsVector (dstOf dst mode) (opdOf ka fa) (opdOf kb fb))
  | -9 => some (.movVector (dstOf dst mode) (opdOf ka fa))
  | -10 => some (.sgn (dstOf dst mode) (opdOf ka fa))
  | 14 => some (.fadd (dstOf dst mode) (opdOf ka fa) (opdOf kb fb))
  | 15 => some (.fsub (dstOf dst mode) (opdOf ka fa) (opdOf kb fb))
  | 16 => some (.fmul (dstOf dst mode) (opdOf ka fa) (opdOf kb fb))
  | 17 => some (.fdiv (dstOf dst mode) (opdOf ka fa) (opdOf kb fb))
  | 18 => some (.fsqrt (dstOf dst mode) (opdOf ka fa))
  | 19 => some (.fmin (dstOf dst mode) (opdOf ka fa) (opdOf kb fb))
  | 20 => some (.fmax (dstOf dst mode) (opdOf ka fa) (opdOf kb fb))
  | 21 => some (.fneg (dstOf dst mode) (opdOf ka fa))
  | 22 => some (.fabs (dstOf dst mode) (opdOf ka fa))
  | 23 => some (.fscl (dstOf dst mode) (opdOf ka fa) (opdOf kb fb))
  | 24 => some (.fint (dstOf dst mode) (opdOf ka fa))
  | 25 => some (.fexp (dstOf dst mode) (opdOf ka fa))
  | 26 => some (.fexp3 (dstOf dst mode) (opdOf ka fa))
  | 27 => some (.flog (dstOf dst mode) (opdOf ka fa))
  | 28 => some (.flog3 (dstOf dst mode) (opdOf ka fa))
  | 29 => some (.frcp (dstOf dst mode) (opdOf ka fa))
  | 30 => some (.frsqrt (dstOf dst mode) (opdOf ka fa))
  | 31 => some (.fsin (dstOf dst mode) (opdOf ka fa))
  | 32 => some (.fcos (dstOf dst mode) (opdOf ka fa))
  | 33 => some (.ftanh (dstOf dst mode) (opdOf ka fa))
  | -14 => some (.cmpVector (ixOf dst 0) (opdOf ka fa) (opdOf kb fb))
  | -15 => some (.fcmp (ixOf dst 0) (opdOf ka fa) (opdOf kb fb))
  | -16 => some (.fcls (ixOf dst 0) (opdOf ka fa))
  | -17 => some (.sgnMask (ixOf dst 0) (opdOf ka fa))
  | -18 => some (.kmin (ixOf dst 0) (ixOf fa 0) (ixOf fb 0))
  | -19 => some (.kmax (ixOf dst 0) (ixOf fa 0) (ixOf fb 0))
  | -20 => some (.kneg (ixOf dst 0) (ixOf fa 0))
  | -21 => some (.ksum (ixOf dst 0) (ixOf fa 0) (ixOf fb 0))
  | -22 => some (.kmul (ixOf dst 0) (ixOf fa 0) (ixOf fb 0))
  | -23 => some (.kval (ixOf dst 0) (ixOf fa 0))
  | 41 => some (.cvt (dstOf dst mode) (opdOf ka fa) (fb))
  | 42 => some (.frombin (dstOf dst mode) (opdOf ka fa) (fb))
  | 43 => some (.tobin (dstOf dst mode) (opdOf ka fa) (fb))
  | -41 => some (.rot (dstOf dst mode) (opdOf ka fa) (opdOf kb fb))
  | -42 => some (.slide (dstOf dst mode) (opdOf ka fa) (opdOf kb fb))
  | -43 => some (.shfl (dstOf dst mode) (opdOf ka fa) (opdOf kb fb))
  | -44 => some (.bcast (dstOf dst mode) (opdOf ka fa) (opdOf kb fb))
  | -45 => some (.radd (dstOf dst mode) (opdOf ka fa))
  | -46 => some (.radds (dstOf dst mode) (opdOf ka fa))
  | -47 => some (.rmin (dstOf dst mode) (opdOf ka fa))
  | -48 => some (.rmax (dstOf dst mode) (opdOf ka fa))
  | -49 => some (.rfadd (dstOf dst mode) (opdOf ka fa))
  | -50 => some (.rfmin (dstOf dst mode) (opdOf ka fa))
  | -51 => some (.rfmax (dstOf dst mode) (opdOf ka fa))
  | -52 => some (.kcnt (dstOf dst mode) (ixOf fa 0) (fb))
  | -53 => some (.kfirst (dstOf dst mode) (ixOf fa 0))
  | -54 => some (.sadd (dstOf dst mode) (opdOf ka fa))
  | -55 => some (.sadds (dstOf dst mode) (opdOf ka fa))
  | -56 => some (.smin (dstOf dst mode) (opdOf ka fa))
  | -57 => some (.smax (dstOf dst mode) (opdOf ka fa))
  | -58 => some (.sfadd (dstOf dst mode) (opdOf ka fa))
  | 68 => some (.ld9 (ixOf dst 0) (ixOf fa 81) (opdOf kb fb))
  | 69 => some (.ld27 (ixOf dst 0) (ixOf fa 81) (opdOf kb fb))
  | 70 => some (.ldb8 (ixOf dst 0) (ixOf fa 81) (opdOf kb fb))
  | 71 => some (.ldb16 (ixOf dst 0) (ixOf fa 81) (opdOf kb fb))
  | 72 => some (.ldb32 (ixOf dst 0) (ixOf fa 81) (opdOf kb fb))
  | 73 => some (.ldw9 (ixOf dst 0) (ixOf fa 81) (opdOf kb fb))
  | 74 => some (.ldw27 (ixOf dst 0) (ixOf fa 81) (opdOf kb fb))
  | 75 => some (.lds27 (ixOf dst 0) (ixOf fa 81) (opdOf kb fb))
  | 76 => some (.st9 (ixOf dst 0) (ixOf fa 81) (opdOf kb fb))
  | 77 => some (.st27 (ixOf dst 0) (ixOf fa 81) (opdOf kb fb))
  | 78 => some (.stb8 (ixOf dst 0) (ixOf fa 81) (opdOf kb fb))
  | 79 => some (.stb16 (ixOf dst 0) (ixOf fa 81) (opdOf kb fb))
  | 80 => some (.stb32 (ixOf dst 0) (ixOf fa 81) (opdOf kb fb))
  | 81 => some (.stnt9 (ixOf dst 0) (ixOf fa 81) (opdOf kb fb))
  | 82 => some (.stnt27 (ixOf dst 0) (ixOf fa 81) (opdOf kb fb))
  | 83 => some (.sts27 (ixOf dst 0) (ixOf fa 81) (opdOf kb fb))
  | 84 => some (.pf (ixOf fa 81) (opdOf kb fb))
  | 85 => some (.fenceAcq (fa) (fb))
  | 86 => some (.fenceRel (fa) (fb))
  | 87 => some (.fenceFull (fa) (fb))
  | 88 => some (.fenceSc (fa) (fb))
  | 89 => some (.lds54 (ixOf dst 0) (ixOf fa 81) (opdOf kb fb))
  | 90 => some (.sts54 (ixOf dst 0) (ixOf fa 81) (opdOf kb fb))
  | 91 => some (.ldsp (ixOf dst 81) (ixOf fa 81) (opdOf kb fb))
  | 92 => some (.stsp (ixOf dst 81) (ixOf fa 81) (opdOf kb fb))
  | _ => none

/-- Wide block 0, shape WI (09). -/
def buildWI (op dst mode imm : Int) : Option Instr :=
  match op with
  | 1 => some (.li (dstOf dst mode) (imm))
  | 2 => some (.liv (dstOf dst mode) (imm))
  | 3 => some (.armx (dstOf dst mode) (imm))
  | 4 => some (.army (dstOf dst mode) (imm))
  | 5 => some (.armz (dstOf dst mode) (imm))
  | 6 => some (.ali (ixOf dst 81) (imm))
  | _ => none

/-- Wide block +1, shape WB (09 R229). -/
def buildWB (op cond dn dz dp : Int) : Option Instr :=
  match op with
  | 14 => some (.br3 (ixOf cond 0) (dn) (dz) (dp))
  | 15 => some (.br3s (ixOf cond 0) (dn) (dz) (dp))
  | 16 => some (.jmp (dz))
  | 17 => some (.call (ixOf cond 81) (dz))
  | _ => none

/-- Wide blocks -1, +2 and -2, shape WR (10 R255, R268; 11). -/
def buildWR (op dst ka fa kb fb kc fc aux disp mode : Int) : Option Instr :=
  match op with
  | -14 => some (.fma (dstOf dst mode) (opdOf ka fa) (opdOf kb fb) (opdOf kc fc))
  | -15 => some (.fms (dstOf dst mode) (opdOf ka fa) (opdOf kb fb) (opdOf kc fc))
  | -16 => some (.fnma (dstOf dst mode) (opdOf ka fa) (opdOf kb fb) (opdOf kc fc))
  | -17 => some (.mad (dstOf dst mode) (opdOf ka fa) (opdOf kb fb) (opdOf kc fc))
  | -18 => some (.mads (dstOf dst mode) (opdOf ka fa) (opdOf kb fb) (opdOf kc fc))
  | -19 => some (.sel3 (dstOf dst mode) (opdOf ka fa) (opdOf kb fb) (opdOf kc fc) (ixOf aux 0))
  | -20 => some (.clamp (dstOf dst mode) (opdOf ka fa) (opdOf kb fb) (opdOf kc fc))
  | -21 => some (.fclamp (dstOf dst mode) (opdOf ka fa) (opdOf kb fb) (opdOf kc fc))
  | 41 => some (.ldx9 (ixOf dst 0) (opdOf ka fa) (ixOf aux 81) (disp))
  | 42 => some (.ldx27 (ixOf dst 0) (opdOf ka fa) (ixOf aux 81) (disp))
  | 43 => some (.ldxb8 (ixOf dst 0) (opdOf ka fa) (ixOf aux 81) (disp))
  | 44 => some (.ldxb16 (ixOf dst 0) (opdOf ka fa) (ixOf aux 81) (disp))
  | 45 => some (.ldxb32 (ixOf dst 0) (opdOf ka fa) (ixOf aux 81) (disp))
  | 46 => some (.ldpk (ixOf dst 0) (opdOf ka fa) (fc) (ixOf aux 81) (disp))
  | 47 => some (.ldwx9 (ixOf dst 0) (opdOf ka fa) (fc) (ixOf aux 81) (disp))
  | 48 => some (.ldwx27 (ixOf dst 0) (opdOf ka fa) (fc) (ixOf aux 81) (disp))
  | 49 => some (.ld27Rlx (ixOf dst 0) (opdOf ka fa) (fc) (ixOf aux 81) (disp))
  | 50 => some (.ld27Acq (ixOf dst 0) (opdOf ka fa) (fc) (ixOf aux 81) (disp))
  | 51 => some (.stx9 (opdOf ka fa) (opdOf kb fb) (ixOf aux 81) (disp))
  | 52 => some (.stx27 (opdOf ka fa) (opdOf kb fb) (ixOf aux 81) (disp))
  | 53 => some (.stxb8 (opdOf ka fa) (opdOf kb fb) (ixOf aux 81) (disp))
  | 54 => some (.stxb16 (opdOf ka fa) (opdOf kb fb) (ixOf aux 81) (disp))
  | 55 => some (.stxb32 (opdOf ka fa) (opdOf kb fb) (ixOf aux 81) (disp))
  | 56 => some (.stpk (opdOf ka fa) (opdOf kb fb) (fc) (ixOf aux 81) (disp))
  | 57 => some (.st27Rlx (opdOf ka fa) (opdOf kb fb) (fc) (ixOf aux 81) (disp))
  | 58 => some (.st27Rel (opdOf ka fa) (opdOf kb fb) (fc) (ixOf aux 81) (disp))
  | 59 => some (.atmAdd (ixOf dst 0) (opdOf ka fa) (opdOf kb fb) (fc) (ixOf aux 81) (disp))
  | 60 => some (.atmAdds (ixOf dst 0) (opdOf ka fa) (opdOf kb fb) (fc) (ixOf aux 81) (disp))
  | 61 => some (.atmMin (ixOf dst 0) (opdOf ka fa) (opdOf kb fb) (fc) (ixOf aux 81) (disp))
  | 62 => some (.atmMax (ixOf dst 0) (opdOf ka fa) (opdOf kb fb) (fc) (ixOf aux 81) (disp))
  | 63 => some (.atmTmin (ixOf dst 0) (opdOf ka fa) (opdOf kb fb) (fc) (ixOf aux 81) (disp))
  | 64 => some (.atmTmax (ixOf dst 0) (opdOf ka fa) (opdOf kb fb) (fc) (ixOf aux 81) (disp))
  | 65 => some (.atmSwap (ixOf dst 0) (opdOf ka fa) (opdOf kb fb) (fc) (ixOf aux 81) (disp))
  | 66 => some (.atmCas (ixOf dst 0) (opdOf ka fa) (opdOf kb fb) (fc) (ixOf aux 81) (disp))
  | 67 => some (.atmFadd (ixOf dst 0) (opdOf ka fa) (opdOf kb fb) (fc) (ixOf aux 81) (disp))
  | -43 => some (.mpassx (optOf dst) (ixOf fa 153) (ixOf aux 81) (disp))
  | -44 => some (.mdrainx (optOf dst) (ixOf fa 153) (ixOf aux 81) (disp))
  | -45 => some (.cpyx (optOf dst) (ixOf aux 81) (disp))
  | -41 => some (.nbarrx (optOf dst) (ixOf fa 126) (opdOf kb fb) (fc))
  | -42 => some (.nbwaitx (ixOf fa 126) (opdOf kb fb) (fc))
  | _ => none

/-- Registers of a destination. -/
def dstRegs (f : Nat → Reg) : Dst → List Reg
  | .reg i _ => [f i]
  | .latchOnly => []
def movRegs : MovDst → List Reg
  | .s d => dstRegs .s d
  | .k i => [.k i]
  | .fm i => [.fm i]
def optRegs : Option Nat → List Reg
  | none => []
  | some i => [.s i]
/-- The registers a scalar source names. -/
def sRegs : Opd → List Reg
  | .reg i => if i < 81 then [.s i] else if 117 ≤ i ∧ i < 126 then [.fm (i - 117)] else []
  | .shared i => if 3 ≤ i ∧ i < 84 then [.s (i - 3)] else []
  | .imm _ => []
/-- The registers a vector source names. -/
def vRegs : Opd → List Reg
  | .reg i => [.v i]
  | .shared i => if 3 ≤ i ∧ i < 84 then [.s (i - 3)] else []
  | .imm _ => []

/-- The registers an instruction names as destinations (R204, R208). -/
def Instr.dests : Instr → List Reg
  | .addScalar d _ _ => dstRegs .s d
  | .subScalar d _ _ => dstRegs .s d
  | .mulScalar d _ _ => dstRegs .s d
  | .mulhScalar d _ _ => dstRegs .s d
  | .divScalar d _ _ => dstRegs .s d
  | .remScalar d _ _ => dstRegs .s d
  | .addsScalar d _ _ => dstRegs .s d
  | .subsScalar d _ _ => dstRegs .s d
  | .mulsScalar d _ _ => dstRegs .s d
  | .minScalar d _ _ => dstRegs .s d
  | .maxScalar d _ _ => dstRegs .s d
  | .satnScalar d _ _ => dstRegs .s d
  | .wrapnScalar d _ _ => dstRegs .s d
  | .tminScalar d _ _ => dstRegs .s d
  | .tmaxScalar d _ _ => dstRegs .s d
  | .negScalar d _ => dstRegs .s d
  | .tsumScalar d _ _ => dstRegs .s d
  | .tmulScalar d _ _ => dstRegs .s d
  | .absScalar d _ => dstRegs .s d
  | .shScalar d _ _ => dstRegs .s d
  | .shsScalar d _ _ => dstRegs .s d
  | .movScalar d _ => movRegs d
  | .cmpScalar d _ _ => dstRegs .s d
  | .ext d _ => dstRegs .s d
  | .li d _ => dstRegs .s d
  | .liv d _ => dstRegs .v d
  | .armx d _ => dstRegs .v d
  | .army d _ => dstRegs .v d
  | .armz d _ => dstRegs .v d
  | .ali d _ => [.a d]
  | .amov d _ => [.a d]
  | .aadv d _ => [.a d]
  | .awin d _ _ => [.a d]
  | .aperm d _ => [.a d]
  | .aget d _ _ => dstRegs .s d
  | .acat d _ _ => [.a d]
  | .loop d _ => [.s d]
  | .cut d _ => [.k d]
  | .call c _ => [.a c]
  | .srd d _ => dstRegs .s d
  | .inval d _ _ => [.s d]
  | .launch d _ => [.s d]
  | .mbox d _ => [.s d]
  | .share d _ _ => [.s d]
  | .addVector d _ _ => dstRegs .v d
  | .subVector d _ _ => dstRegs .v d
  | .mulVector d _ _ => dstRegs .v d
  | .mulhVector d _ _ => dstRegs .v d
  | .divVector d _ _ => dstRegs .v d
  | .remVector d _ _ => dstRegs .v d
  | .addsVector d _ _ => dstRegs .v d
  | .subsVector d _ _ => dstRegs .v d
  | .mulsVector d _ _ => dstRegs .v d
  | .minVector d _ _ => dstRegs .v d
  | .maxVector d _ _ => dstRegs .v d
  | .satnVector d _ _ => dstRegs .v d
  | .wrapnVector d _ _ => dstRegs .v d
  | .tminVector d _ _ => dstRegs .v d
  | .tmaxVector d _ _ => dstRegs .v d
  | .negVector d _ => dstRegs .v d
  | .tsumVector d _ _ => dstRegs .v d
  | .tmulVector d _ _ => dstRegs .v d
  | .absVector d _ => dstRegs .v d
  | .shVector d _ _ => dstRegs .v d
  | .shsVector d _ _ => dstRegs .v d
  | .movVector d _ => dstRegs .v d
  | .sgn d _ => dstRegs .v d
  | .fadd d _ _ => dstRegs .v d
  | .fsub d _ _ => dstRegs .v d
  | .fmul d _ _ => dstRegs .v d
  | .fdiv d _ _ => dstRegs .v d
  | .fsqrt d _ => dstRegs .v d
  | .fmin d _ _ => dstRegs .v d
  | .fmax d _ _ => dstRegs .v d
  | .fneg d _ => dstRegs .v d
  | .fabs d _ => dstRegs .v d
  | .fscl d _ _ => dstRegs .v d
  | .fint d _ => dstRegs .v d
  | .fexp d _ => dstRegs .v d
  | .fexp3 d _ => dstRegs .v d
  | .flog d _ => dstRegs .v d
  | .flog3 d _ => dstRegs .v d
  | .frcp d _ => dstRegs .v d
  | .frsqrt d _ => dstRegs .v d
  | .fsin d _ => dstRegs .v d
  | .fcos d _ => dstRegs .v d
  | .ftanh d _ => dstRegs .v d
  | .fma d _ _ _ => dstRegs .v d
  | .fms d _ _ _ => dstRegs .v d
  | .fnma d _ _ _ => dstRegs .v d
  | .mad d _ _ _ => dstRegs .v d
  | .mads d _ _ _ => dstRegs .v d
  | .sel3 d _ _ _ _ => dstRegs .v d
  | .clamp d _ _ _ => dstRegs .v d
  | .fclamp d _ _ _ => dstRegs .v d
  | .cmpVector d _ _ => [.k d]
  | .fcmp d _ _ => [.k d]
  | .fcls d _ => [.k d]
  | .sgnMask d _ => [.k d]
  | .kmin d _ _ => [.k d]
  | .kmax d _ _ => [.k d]
  | .kneg d _ => [.k d]
  | .ksum d _ _ => [.k d]
  | .kmul d _ _ => [.k d]
  | .kval d _ => [.v d]
  | .cvt d _ _ => dstRegs .v d
  | .frombin d _ _ => dstRegs .v d
  | .tobin d _ _ => dstRegs .v d
  | .rot d _ _ => dstRegs .v d
  | .slide d _ _ => dstRegs .v d
  | .shfl d _ _ => dstRegs .v d
  | .bcast d _ _ => dstRegs .v d
  | .radd d _ => dstRegs .v d
  | .radds d _ => dstRegs .v d
  | .rmin d _ => dstRegs .v d
  | .rmax d _ => dstRegs .v d
  | .rfadd d _ => dstRegs .v d
  | .rfmin d _ => dstRegs .v d
  | .rfmax d _ => dstRegs .v d
  | .kcnt d _ _ => dstRegs .v d
  | .kfirst d _ => dstRegs .v d
  | .sadd d _ => dstRegs .v d
  | .sadds d _ => dstRegs .v d
  | .smin d _ => dstRegs .v d
  | .smax d _ => dstRegs .v d
  | .sfadd d _ => dstRegs .v d
  | .ld9 d _ _ => [.v d]
  | .ld27 d _ _ => [.v d]
  | .ldb8 d _ _ => [.v d]
  | .ldb16 d _ _ => [.v d]
  | .ldb32 d _ _ => [.v d]
  | .ldw9 d _ _ => [.v d]
  | .ldw27 d _ _ => [.v d]
  | .lds27 d _ _ => [.s d]
  | .lds54 d _ _ => [.s d, .s (d + 1)]
  | .ldsp d _ _ => [.a d]
  | .ldx9 d _ _ _ => [.v d]
  | .ldx27 d _ _ _ => [.v d]
  | .ldxb8 d _ _ _ => [.v d]
  | .ldxb16 d _ _ _ => [.v d]
  | .ldxb32 d _ _ _ => [.v d]
  | .ldpk d _ _ _ _ => [.v d]
  | .ldwx9 d _ _ _ _ => [.v d]
  | .ldwx27 d _ _ _ _ => [.v d]
  | .ld27Rlx d _ _ _ _ => [.v d]
  | .ld27Acq d _ _ _ _ => [.v d]
  | .atmAdd d _ _ _ _ _ => [.v d]
  | .atmAdds d _ _ _ _ _ => [.v d]
  | .atmMin d _ _ _ _ _ => [.v d]
  | .atmMax d _ _ _ _ _ => [.v d]
  | .atmTmin d _ _ _ _ _ => [.v d]
  | .atmTmax d _ _ _ _ _ => [.v d]
  | .atmSwap d _ _ _ _ _ => [.v d]
  | .atmCas d _ _ _ _ _ => [.v d]
  | .atmFadd d _ _ _ _ _ => [.v d]
  | .mpass d _ _ => optRegs d
  | .mpassx d _ _ _ => optRegs d
  | .mdrain d _ _ => optRegs d
  | .mdrainx d _ _ _ => optRegs d
  | .mpin d _ => optRegs d
  | .cpy d _ => optRegs d
  | .cpyx d _ _ => optRegs d
  | .nbarr d _ _ => optRegs d
  | .nbarrx d _ _ _ => optRegs d
  | .nbget d _ => [.s d]
  | .fpop d _ => [.v d]
  | .qpost d _ => optRegs d
  | .qstat d _ => optRegs d
  | _ => []

/-- The registers an instruction names as sources, data or auxiliary registers (R208). -/
def Instr.sources : Instr → List Reg
  | .addScalar _ a b => sRegs a ++ sRegs b
  | .subScalar _ a b => sRegs a ++ sRegs b
  | .mulScalar _ a b => sRegs a ++ sRegs b
  | .mulhScalar _ a b => sRegs a ++ sRegs b
  | .divScalar _ a b => sRegs a ++ sRegs b
  | .remScalar _ a b => sRegs a ++ sRegs b
  | .addsScalar _ a b => sRegs a ++ sRegs b
  | .subsScalar _ a b => sRegs a ++ sRegs b
  | .mulsScalar _ a b => sRegs a ++ sRegs b
  | .minScalar _ a b => sRegs a ++ sRegs b
  | .maxScalar _ a b => sRegs a ++ sRegs b
  | .satnScalar _ a b => sRegs a ++ sRegs b
  | .wrapnScalar _ a b => sRegs a ++ sRegs b
  | .tminScalar _ a b => sRegs a ++ sRegs b
  | .tmaxScalar _ a b => sRegs a ++ sRegs b
  | .negScalar _ a => sRegs a
  | .tsumScalar _ a b => sRegs a ++ sRegs b
  | .tmulScalar _ a b => sRegs a ++ sRegs b
  | .absScalar _ a => sRegs a
  | .shScalar _ a b => sRegs a ++ sRegs b
  | .shsScalar _ a b => sRegs a ++ sRegs b
  | .movScalar _ a => sRegs a
  | .cmpScalar _ a b => sRegs a ++ sRegs b
  | .amov _ a => [.a a]
  | .aadv _ b => sRegs b
  | .awin _ a b => sRegs a ++ sRegs b
  | .aperm _ a => sRegs a
  | .aget _ a _ => [.a a]
  | .acat _ a b => sRegs a ++ sRegs b
  | .ret a => [.a a]
  | .cut _ a => [.v a]
  | .joinD a => sRegs a
  | .br3 c _ _ _ => [.v c]
  | .br3s c _ _ _ => sRegs (.reg c)
  | .srd _ a => sRegs a
  | .swr a b => sRegs a ++ sRegs b
  | .trap a => sRegs a
  | .inval _ a _ => [.s a, .s (a + 1), .s (a + 2)]
  | .bkmode a b => sRegs a ++ sRegs b
  | .launch _ a => [.a a]
  | .mbox _ a => [.a a]
  | .share _ a b => [.a a] ++ sRegs b
  | .pcomp a b => [.a a] ++ sRegs b
  | .tcbsig a => [.a a]
  | .prog a => sRegs a
  | .addVector _ a b => vRegs a ++ vRegs b
  | .subVector _ a b => vRegs a ++ vRegs b
  | .mulVector _ a b => vRegs a ++ vRegs b
  | .mulhVector _ a b => vRegs a ++ vRegs b
  | .divVector _ a b => vRegs a ++ vRegs b
  | .remVector _ a b => vRegs a ++ vRegs b
  | .addsVector _ a b => vRegs a ++ vRegs b
  | .subsVector _ a b => vRegs a ++ vRegs b
  | .mulsVector _ a b => vRegs a ++ vRegs b
  | .minVector _ a b => vRegs a ++ vRegs b
  | .maxVector _ a b => vRegs a ++ vRegs b
  | .satnVector _ a b => vRegs a ++ vRegs b
  | .wrapnVector _ a b => vRegs a ++ vRegs b
  | .tminVector _ a b => vRegs a ++ vRegs b
  | .tmaxVector _ a b => vRegs a ++ vRegs b
  | .negVector _ a => vRegs a
  | .tsumVector _ a b => vRegs a ++ vRegs b
  | .tmulVector _ a b => vRegs a ++ vRegs b
  | .absVector _ a => vRegs a
  | .shVector _ a b => vRegs a ++ vRegs b
  | .shsVector _ a b => vRegs a ++ vRegs b
  | .movVector _ a => vRegs a
  | .sgn _ a => vRegs a
  | .fadd _ a b => vRegs a ++ vRegs b
  | .fsub _ a b => vRegs a ++ vRegs b
  | .fmul _ a b => vRegs a ++ vRegs b
  | .fdiv _ a b => vRegs a ++ vRegs b
  | .fsqrt _ a => vRegs a
  | .fmin _ a b => vRegs a ++ vRegs b
  | .fmax _ a b => vRegs a ++ vRegs b
  | .fneg _ a => vRegs a
  | .fabs _ a => vRegs a
  | .fscl _ a b => vRegs a ++ vRegs b
  | .fint _ a => vRegs a
  | .fexp _ a => vRegs a
  | .fexp3 _ a => vRegs a
  | .flog _ a => vRegs a
  | .flog3 _ a => vRegs a
  | .frcp _ a => vRegs a
  | .frsqrt _ a => vRegs a
  | .fsin _ a => vRegs a
  | .fcos _ a => vRegs a
  | .ftanh _ a => vRegs a
  | .fma _ a b c => vRegs a ++ vRegs b ++ vRegs c
  | .fms _ a b c => vRegs a ++ vRegs b ++ vRegs c
  | .fnma _ a b c => vRegs a ++ vRegs b ++ vRegs c
  | .mad _ a b c => vRegs a ++ vRegs b ++ vRegs c
  | .mads _ a b c => vRegs a ++ vRegs b ++ vRegs c
  | .sel3 _ a b c x => vRegs a ++ vRegs b ++ vRegs c ++ [.k x]
  | .clamp _ a b c => vRegs a ++ vRegs b ++ vRegs c
  | .fclamp _ a b c => vRegs a ++ vRegs b ++ vRegs c
  | .cmpVector _ a b => vRegs a ++ vRegs b
  | .fcmp _ a b => vRegs a ++ vRegs b
  | .fcls _ a => vRegs a
  | .sgnMask _ a => vRegs a
  | .kmin _ a b => [.k a] ++ [.k b]
  | .kmax _ a b => [.k a] ++ [.k b]
  | .kneg _ a => [.k a]
  | .ksum _ a b => [.k a] ++ [.k b]
  | .kmul _ a b => [.k a] ++ [.k b]
  | .kval _ a => [.k a]
  | .cvt _ a _ => vRegs a
  | .frombin _ a _ => vRegs a
  | .tobin _ a _ => vRegs a
  | .rot _ a b => vRegs a ++ vRegs b
  | .slide _ a b => vRegs a ++ vRegs b
  | .shfl _ a b => vRegs a ++ vRegs b
  | .bcast _ a b => vRegs a ++ vRegs b
  | .radd _ a => vRegs a
  | .radds _ a => vRegs a
  | .rmin _ a => vRegs a
  | .rmax _ a => vRegs a
  | .rfadd _ a => vRegs a
  | .rfmin _ a => vRegs a
  | .rfmax _ a => vRegs a
  | .kcnt _ a _ => [.k a]
  | .kfirst _ a => [.k a]
  | .sadd _ a => vRegs a
  | .sadds _ a => vRegs a
  | .smin _ a => vRegs a
  | .smax _ a => vRegs a
  | .sfadd _ a => vRegs a
  | .ld9 _ a b => [.a a] ++ vRegs b
  | .ld27 _ a b => [.a a] ++ vRegs b
  | .ldb8 _ a b => [.a a] ++ vRegs b
  | .ldb16 _ a b => [.a a] ++ vRegs b
  | .ldb32 _ a b => [.a a] ++ vRegs b
  | .ldw9 _ a b => [.a a] ++ vRegs b
  | .ldw27 _ a b => [.a a] ++ vRegs b
  | .lds27 _ a b => [.a a] ++ vRegs b
  | .st9 d a b => [.v d] ++ [.a a] ++ vRegs b
  | .st27 d a b => [.v d] ++ [.a a] ++ vRegs b
  | .stb8 d a b => [.v d] ++ [.a a] ++ vRegs b
  | .stb16 d a b => [.v d] ++ [.a a] ++ vRegs b
  | .stb32 d a b => [.v d] ++ [.a a] ++ vRegs b
  | .stnt9 d a b => [.v d] ++ [.a a] ++ vRegs b
  | .stnt27 d a b => [.v d] ++ [.a a] ++ vRegs b
  | .sts27 d a b => [.s d] ++ [.a a] ++ vRegs b
  | .pf a b => [.a a] ++ vRegs b
  | .lds54 _ a b => [.a a] ++ vRegs b
  | .sts54 d a b => [.s d, .s (d + 1)] ++ [.a a] ++ vRegs b
  | .ldsp _ a b => [.a a] ++ vRegs b
  | .stsp d a b => [.a d] ++ [.a a] ++ vRegs b
  | .ldx9 _ a x _ => vRegs a ++ [.a x]
  | .ldx27 _ a x _ => vRegs a ++ [.a x]
  | .ldxb8 _ a x _ => vRegs a ++ [.a x]
  | .ldxb16 _ a x _ => vRegs a ++ [.a x]
  | .ldxb32 _ a x _ => vRegs a ++ [.a x]
  | .ldpk _ a _ x _ => vRegs a ++ [.a x]
  | .ldwx9 _ a _ x _ => vRegs a ++ [.a x]
  | .ldwx27 _ a _ x _ => vRegs a ++ [.a x]
  | .ld27Rlx _ a _ x _ => vRegs a ++ [.a x]
  | .ld27Acq _ a _ x _ => vRegs a ++ [.a x]
  | .stx9 a b x _ => vRegs a ++ vRegs b ++ [.a x]
  | .stx27 a b x _ => vRegs a ++ vRegs b ++ [.a x]
  | .stxb8 a b x _ => vRegs a ++ vRegs b ++ [.a x]
  | .stxb16 a b x _ => vRegs a ++ vRegs b ++ [.a x]
  | .stxb32 a b x _ => vRegs a ++ vRegs b ++ [.a x]
  | .stpk a b _ x _ => vRegs a ++ vRegs b ++ [.a x]
  | .st27Rlx a b _ x _ => vRegs a ++ vRegs b ++ [.a x]
  | .st27Rel a b _ x _ => vRegs a ++ vRegs b ++ [.a x]
  | .atmAdd _ a b _ x _ => vRegs a ++ vRegs b ++ [.a x]
  | .atmAdds _ a b _ x _ => vRegs a ++ vRegs b ++ [.a x]
  | .atmMin _ a b _ x _ => vRegs a ++ vRegs b ++ [.a x]
  | .atmMax _ a b _ x _ => vRegs a ++ vRegs b ++ [.a x]
  | .atmTmin _ a b _ x _ => vRegs a ++ vRegs b ++ [.a x]
  | .atmTmax _ a b _ x _ => vRegs a ++ vRegs b ++ [.a x]
  | .atmSwap _ a b _ x _ => vRegs a ++ vRegs b ++ [.a x]
  | .atmCas d a b _ x _ => [.v d] ++ vRegs a ++ vRegs b ++ [.a x]
  | .atmFadd _ a b _ x _ => vRegs a ++ vRegs b ++ [.a x]
  | .mpass _ a _ => [.a a]
  | .mpassx _ _ x _ => [.a x]
  | .mdrain _ a _ => [.a a]
  | .mdrainx _ _ x _ => [.a x]
  | .mpin _ a => [.a a]
  | .munpin a => [.a a]
  | .cpy _ a => [.a a]
  | .cpyx _ x _ => [.a x]
  | .nbinit _ b => sRegs b
  | .nbarr _ _ b => sRegs b
  | .nbarrx _ _ b _ => sRegs b
  | .nbwait _ b => sRegs b
  | .nbwaitx _ b _ => sRegs b
  | .fpush a b => sRegs a ++ [.v b]
  | .fpop _ a => sRegs a
  | .pclr a b => [.a a] ++ sRegs b
  | .qpost _ a => [.a a]
  | .qstat _ a => sRegs a
  | .leave a => sRegs a
  | _ => []

/-- The instruction that fields name, before the check of its operands. -/
def buildInstr : Raw → Option Instr
  | .half true op dst ka fa kb fb mode => buildVector op dst ka fa kb fb mode
  | .half false op dst ka fa kb fb mode => buildScalar op dst ka fa kb fb mode
  | .wi op dst mode imm => buildWI op dst mode imm
  | .wb op cond dn dz dp => buildWB op cond dn dz dp
  | .wr op dst ka fa kb fb kc fc aux disp mode => buildWR op dst ka fa kb fb kc fc aux disp mode

/-- Why an encoding is not an instruction: each raises the illegal-opcode trap (R206). -/
inductive DecodeError
  /-- Item 1: the layout. -/
  | layout
  /-- Item 2: guard test 0 with a guard mask. -/
  | guardField
  /-- Item 3: the opcode. -/
  | opcode
  /-- Items 5, 6 and 8: a source kind, a register or an immediate that the opcode does not admit. -/
  | operand
  /-- Items 4 and 7: a reserved trit, an unused field or a destination mode. -/
  | reserved
  /-- Item 9: one destination named by both halves. -/
  | twoDestinations
  deriving DecidableEq, Repr

/-- The bits of fields: the value of a half or of a wide instruction (R199, R200). -/
def rawWord : Raw → Int
  | .half _ op dst ka fa kb fb mode =>
    op * 3 ^ 19 + dst * 3 ^ 14 + ka * 3 ^ 13 + fa * 3 ^ 8 + kb * 3 ^ 7 + fb * 3 ^ 2 + mode * 3
  | .wi op dst mode imm => op * 3 ^ 43 + dst * 3 ^ 38 + mode * 3 ^ 37 + imm * 3
  | .wb op cond dn dz dp => op * 3 ^ 43 + cond * 3 ^ 38 + dn * 3 ^ 26 + dz * 3 ^ 14 + dp * 3 ^ 2
  | .wr op dst ka fa kb fb kc fc aux disp mode =>
    op * 3 ^ 43 + dst * 3 ^ 38 + ka * 3 ^ 37 + fa * 3 ^ 32 + kb * 3 ^ 31 + fb * 3 ^ 26 + kc * 3 ^ 25 + fc * 3 ^ 20 +
      aux * 3 ^ 15 + disp * 3 ^ 2 + mode * 3

/-- The fields of a half (R199). -/
def rawHalf (vec : Bool) (h : Int) : Raw :=
  .half vec (trits h 23 19) (trits h 18 14) (trits h 13 13) (trits h 12 8) (trits h 7 7) (trits h 6 2) (trits h 1 1)

/-- The fields of a wide instruction; its opcode's block fixes the shape (R200, R205). -/
def rawWide (w : Int) : Raw :=
  let op := trits w 47 43
  if -13 ≤ op ∧ op ≤ 13 then .wi op (trits w 42 38) (trits w 37 37) (trits w 36 1)
  else if 14 ≤ op ∧ op ≤ 40 then .wb op (trits w 42 38) (trits w 37 26) (trits w 25 14) (trits w 13 2)
  else .wr op (trits w 42 38) (trits w 37 37) (trits w 36 32) (trits w 31 31) (trits w 30 26) (trits w 25 25)
    (trits w 24 20) (trits w 19 15) (trits w 14 2) (trits w 1 1)

/-- The instruction of fields cut from the value `x`. -/
def decodeRaw (x : Int) (r : Raw) : Except DecodeError Instr :=
  match buildInstr r with
  | none => .error .opcode
  | some i =>
    if i.raw ≠ some r ∨ rawWord r ≠ x then .error .reserved
    else if i.wf then .ok i else .error .operand

/-- A half of a pair (R199). -/
def decodeHalf (vec : Bool) (h : Int) : Except DecodeError Instr := decodeRaw h (rawHalf vec h)
/-- A wide instruction (R200). -/
def decodeWide (w : Int) : Except DecodeError Instr := decodeRaw w (rawWide w)

/-- A bundle of 54 trits (R196, R206). -/
def decodeBundle (x : Int) : Except DecodeError Bundle :=
  let gm := trits x 53 52
  let gt := trits x 51 50
  let layout := trits x 49 48
  if layout ≠ 0 ∧ layout ≠ 1 then .error .layout
  else if gt = 0 ∧ gm ≠ 0 then .error .guardField
  else if layout = 1 then
    match decodeWide (trits x 47 0) with
    | .ok i => .ok { gmask := (gm + 4).toNat, gtest := gt, body := .wide i }
    | .error e => .error e
  else
    match decodeHalf true (trits x 47 24), decodeHalf false (trits x 23 0) with
    | .ok v, .ok s =>
      if v.dests.any (fun r => s.dests.contains r) then .error .twoDestinations
      else .ok { gmask := (gm + 4).toNat, gtest := gt, body := .pair v s }
    | .error e, _ => .error e
    | _, .error e => .error e

/-- The value of an instruction of a bundle: 24 trits of a half, 48 of a wide instruction. -/
def encodeInstr (i : Instr) : Option Int := i.raw.map rawWord

/-- The value of a bundle (R196). -/
def encodeBundle (b : Bundle) : Option Int :=
  let g := ((b.gmask : Int) - 4) * 3 ^ 52 + b.gtest * 3 ^ 50
  match b.body with
  | .wide i => (encodeInstr i).map fun w => g + 3 ^ 48 + w
  | .pair v s =>
    match encodeInstr v, encodeInstr s with
    | some a, some c => some (g + a * 3 ^ 24 + c)
    | _, _ => none

/-- The six nonets of a bundle, nonet 0 first (R195). -/
def bundleNonets (x : Int) : List Int := toNonets 6 x
/-- The value of six nonets. -/
def bundleOfNonets (l : List Int) : Int := ofNonets l

/-- The trits that one packed byte carries, trit 0 first; none for the codes 243 to 255 (R35). -/
def quintetTrits (b : Nat) : Option (List Int) := if b < 243 then some (toTrits 5 ((b : Int) - 121)) else none

/-- The bundle value packed in bits, five trits to a byte, the first byte lowest (R35). -/
def packedTrits : Nat → Nat → Option (List Int)
  | 0, _ => some []
  | n + 1, w =>
    match quintetTrits (w % 256), packedTrits n (w / 256) with
    | some a, some b => some (a ++ b)
    | _, _ => none

/-- The value of a bundle packed in the bits of `w`: eleven bytes, the 55th trit 0. -/
def bundleOfBits (w : Nat) : Option Int :=
  match packedTrits 11 w with
  | some l => if trit (ofTrits l) 54 = 0 then some (ofTrits l) else none
  | none => none

/-- The instruction that a decoded bundle stands for when it is asked for one: the wide instruction, the vector half, or
the scalar half where the vector half is `nop`. -/
def Bundle.single (b : Bundle) : Instr :=
  match b.body with
  | .wide i => i
  | .pair .nopVector s => s
  | .pair v _ => v

/-- The instruction the decoder reads from a packed bundle. -/
def decodeTableWord (_nbits w : Nat) : Option Instr :=
  match bundleOfBits w with
  | none => none
  | some x =>
    match decodeBundle x with
    | .ok b => some b.single
    | .error _ => none

end Sys2Proof
end

