-- ==== Sys2Proof/Machine/Sched.lean ====
section
/-! DEFINITION. The issue choice: fetch buffer, scoreboard and operand collector, the choice of a range or of a lead and its
partners, ages and idle counters; the cycle of a die; the processor's rounds over the queues (07 R167, R181 to R185;
08 R195, R203, R207, R208; 12 R334, R335, R338). -/

namespace Sys2Proof.Machine

open Sys2Proof

/-! ## Targets (R182) and packing (R183) -/

/-- The engines that a bundle may use, in the order of R182. -/
inductive Target
  | matrix | copy | loadStore | vector | scalar
  deriving DecidableEq, Repr

/-- The engine that an instruction uses. -/
def targetOfInstr (i : Instr) : Target :=
  match i with
  | .mpass .. | .mpassx .. | .mzero .. | .mdrain .. | .mdrainx .. => .matrix
  | .cpy .. | .cpyx .. => .copy
  | .fpush .. | .fpop .. | .pclr .. | .qpost .. | .qstat .. | .leave .. | .unleave .. | .mpin .. | .mbox .. | .share ..
  | .launch .. | .pcomp .. | .tcbsig .. | .inval .. => .loadStore
  | .liv .. | .armx .. | .army .. | .armz .. | .br3 .. => .vector
  | .nopVector => .scalar
  | i =>
    match i.raw with
    | some (.half true op ..) => if 68 ≤ op then .loadStore else .vector
    | some (.wr op ..) => if 41 ≤ op then .loadStore else if -40 ≤ op then .vector else .scalar
    | _ => .scalar

/-- The instructions of a bundle. -/
def bodyInstrs : Body → List Instr
  | .pair v s => [v, s]
  | .wide i => [i]

/-- The first engine in the order of R182 that a bundle uses. -/
def targetOfBody (b : Body) : Target :=
  let ts := (bodyInstrs b).map targetOfInstr
  if ts.contains .matrix then .matrix
  else if ts.contains .copy then .copy
  else if ts.contains .loadStore then .loadStore
  else if ts.contains .vector then .vector else .scalar

/-- The kinds of instruction that may be packed (R183): vector blocks 0, +1, -1 and +2, three-source operations, and loads and
stores of the core path that are neither atomics nor fences, prefetches or stream stores. -/
def packs (i : Instr) : Bool :=
  match i with
  | .nopVector | .stnt9 .. | .stnt27 .. | .pf .. | .fenceAcq .. | .fenceRel .. | .fenceFull .. | .fenceSc .. => false
  | i =>
    match i.raw with
    | some (.half true op ..) => decide (-40 ≤ op)
    | some (.wr op ..) => (decide (-40 ≤ op) && decide (op ≤ -14)) || (decide (41 ≤ op) && decide (op ≤ 58))
    | _ => false

/-- May a bundle be issued with partners? -/
def packable : Body → Bool
  | .pair v .nopScalar => packs v
  | .pair _ _ => false
  | .wide i => packs i

/-! ## The fetch buffer (R181, R195) -/

/-- The bundle that the buffer holds for a launch and an address. -/
def bufferGet (c : Core) (lid : Nat) (pc : Int) : Option Int :=
  (c.fetch.find? fun f => f.lid == lid && decide (f.addr = pc)).map (·.value)

/-- The bundle of a context, where it stands in the buffer and the context's mode may fetch it (R42). -/
def bundleFor (s : State) (core : Nat) (w : Who) : Option Int :=
  let pc := whoPc s core w
  if outOfSpace pc || outOfSpace (pc + 5) || privilegeFault (xlOf core (whoRegs s core w)) pc then none
  else bufferGet (getCore s core) (whoLid s core w) pc

/-- The translation registers of a fetch of a context, whose instruction cache is none of the caches of R76 (R112). -/
def fetchXl (s : State) (core : Nat) (w : Who) : XlCtx := { xlOf core (whoRegs s core w) with via := .die (dieOf core) }
/-- What a launch fetches in a block: as it stood before the first write to it since the launch started, where there has been one
(R112). -/
def codeFor (s : State) (lid : Nat) (b : Int) : Option Atom :=
  let k := match getLaunch s lid with | some l => l.start | none => 0
  (s.code.foldl (fun (m : Option CodeVersion) v =>
    if v.block ≠ b ∨ v.stamp < k then m
    else match m with
      | some o => if v.stamp < o.stamp then some v else m
      | none => some v) none).map (·.atom)
/-- A read of the three units of a syllable for a launch; they lie in one block. -/
def fetchUnits (s : State) (lid : Nat) (us : List PUnit) : Except Nat (List Int) × State :=
  match us with
  | [] => (.ok [], s)
  | u :: _ =>
    match codeFor s lid (u.pa / 27) with
    | none => readUnits s us
    | some a =>
      match lineRead a a.poison (if u.pa < 0 then 0 else u.attr.key) u.attr.binary with
      | .error c => (.error c, s)
      | .ok l => (.ok (us.map fun v => l.getD (v.pa % 27).toNat 0), s)
/-- The three nonets of a syllable; the class of the trap, with the cause and level of its entry, where its fetch fails
(R195). -/
def fetchSyllable (s : State) (x : XlCtx) (lid : Nat) (va : Int) : Except (Nat × Int × Int) (List Int) × State :=
  match translate s x .fetch false va 3 with
  | (.error f, s) => (.error (5, f.cause, f.level), s)
  | (.ok us, s) =>
    match fetchUnits s lid us with
    | (.error c, s) => (.error (12, c, 0), s)
    | (.ok l, s) => (.ok l, s)

/-- A bundle, or the trap of the syllable that fails (R195). -/
def fetchBundle (s : State) (x : XlCtx) (lid : Nat) (pc : Int) : Except (Int × Nat × Int × Int) Int × State :=
  match fetchSyllable s x lid pc with
  | (.error e, s) => (.error (pc, e), s)
  | (.ok a, s) =>
    match fetchSyllable s x lid (pc + 3) with
    | (.error e, s) => (.error (pc + 3, e), s)
    | (.ok b, s) => (.ok (bundleOfNonets (a ++ b)), s)

/-- The ready group of greatest age, when that age is 243 or more (R181). -/
def agedGroup (c : Core) : Option (Nat × Group) :=
  c.groups.foldl (fun (m : Option (Nat × Group)) e =>
    if e.2.st = .ready ∧ !e.2.displaced ∧ 243 ≤ e.2.age then
      match m with
      | none => some e
      | some o => if o.2.age < e.2.age then some e else m
    else m) none

/-- The running ranges, in the order in which a slot goes to them: the one that has waited longest, then the lowest (R182). -/
def rangeTurn (rs : List (Nat × Range)) : Option (Nat × Range) :=
  rs.foldl (fun (m : Option (Nat × Range)) e => match m with
    | some o => if o.2.wait < e.2.wait then some e else m
    | none => some e) none
/-- The running ranges of a core. -/
def runningRanges (c : Core) : List (Nat × Range) := c.ranges.filter fun e => e.2.st == .running
/-- A bundle enters the buffer of nine; which entry it replaces is free, but neither the one that the aged group wants nor that of the
range whose turn it is (R165, R181). -/
def bufferPut (s : State) (core lid : Nat) (pc v : Int) : State :=
  let c := getCore s core
  let keep := c.fetch.filter fun f => f.lid != lid || f.addr != pc
  let guarded (f : Fetched) : Bool :=
    (match agedGroup c with
      | some e => f.lid == e.2.lid && decide (f.addr = e.2.pc)
      | none => false) ||
    match rangeTurn (runningRanges c) with
    | some e => f.lid == e.2.lid && decide (f.addr = e.2.pc)
    | none => false
  let keep := if keep.length < 9 then keep
    else
      let free := keep.filter fun f => !guarded f
      match free[Config.pick s.fresh % free.length]? with
      | some g => keep.filter (· ≠ g)
      | none => keep.drop 1
  tick (updCore s core fun c => { c with fetch := keep ++ [{ lid := lid, addr := pc, value := v }] })

/-- A range whose bundle cannot be fetched casts; its family may have no running member left (R139, R146). -/
def fetchCast (s : State) (core e : Nat) : State :=
  let s := castRange s core e
  match getRange s core e with
  | some q => offerMerge (offerCast s core) core q.family
  | none => s
/-- A context's bundle is loaded into the buffer; a fetch that fails is its context's trap, or a range's cast (R139, R195). -/
def loadBundle (s : State) (core : Nat) (w : Who) : State :=
  let pc := whoPc s core w
  match fetchBundle s (fetchXl s core w) (whoLid s core w) pc with
  | (.ok v, s) => bufferPut s core (whoLid s core w) pc v
  | (.error (va, cls, cause, level), s) =>
    match w with
    | .range e => fetchCast s core e
    | .group c =>
      raiseTrap s core c
        { cls := cls, detail := if cls = 12 then cause else 0, pc := pc, ret := pc
          lanes := (whoActive s core w).map fun l => { slot := l, addr := va, cause := cause, level := level } }

/-- The contexts whose next bundle is wanted: ready groups with active lanes, and running ranges. -/
def wanting (s : State) (core : Nat) : List Who :=
  let c := getCore s core
  ((c.groups.filter fun e => e.2.st == .ready && !e.2.displaced && activeLanes e.2 != []).map (Who.group ·.1) ++
    (runningRanges c).map (Who.range ·.1)).filter fun w => (bundleFor s core w).isNone

/-- One address a cycle is loaded: the one that the aged group wants before any other (R181). DEDUCED (log 74): then the one of the
range whose turn it is, without which the promise of R165 to ranges could not be kept; else which one is free. -/
def fetchStep (s : State) (core : Nat) : State :=
  let ws := wanting s core
  let c := getCore s core
  match ((agedGroup c).map (Who.group ·.1)).filter ws.contains with
  | some w => loadBundle s core w
  | none =>
    match ((rangeTurn (runningRanges c)).map (Who.range ·.1)).filter ws.contains with
    | some w => loadBundle s core w
    | none => any s ws
where
  /-- Whichever is loaded. -/
  any (s : State) (ws : List Who) : State :=
    match ws[Config.pick s.fresh % ws.length]? with
    | some w => loadBundle (tick s) core w
    | none => s

/-! ## Candidates (R181, R207, R208) -/

/-- Every register that a bundle names (R208). -/
def bodyNames (b : Body) : List Reg := (bodyInstrs b).flatMap fun i => i.dests ++ i.sources
/-- Does a bundle name a pending register? -/
def scoreboard (g : Group) (b : Body) : Bool :=
  g.pending.any fun p => p.regs.any fun r => (bodyNames b).contains r
/-- The largest read count of a bank: distinct registers in form F that a bundle reads (R207). -/
def readCount (g : Group) (b : Body) : Nat :=
  let vs := distinct ((bodyInstrs b).flatMap fun i => i.sources.filterMap fun
    | .v n => if isF (mget (.u 0) g.r.v n) then some n else none
    | _ => none)
  ((List.range 3).map fun k => (vs.filter fun n => n % 3 == k).length).foldl max 0

/-- A ready group's stall reason in a cycle, with what it still has to collect; 11 where it may be chosen (R185). -/
def judge (s : State) (core ctx : Nat) (g : Group) : Group :=
  if g.st ≠ .ready ∨ g.displaced then g
  else match bundleFor s core (.group ctx) with
    | none => { g with reason := 10 }
    | some x =>
      match decodeBundle x with
      | .error _ => { g with reason := 11 }
      | .ok b =>
        if scoreboard g b.body then { g with reason := 8 }
        else
          let n := readCount g b.body
          match g.collect with
          | some (pc, k) =>
            if pc = g.pc then
              if k = 0 then { g with reason := 11 } else { g with reason := 9, collect := some (pc, k - 1) }
            else first g n
          | none => first g n
where
  /-- The first cycle at a bundle. -/
  first (g : Group) (n : Nat) : Group :=
    if n ≤ 1 then { g with reason := 11, collect := none } else { g with reason := 9, collect := some (g.pc, n - 2) }

/-- A core's cycle begins: contexts that a trial pauses, displaced ones too, pay one cycle; ready groups are judged (R185, R338). -/
def beginCycle (s : State) (core : Nat) : State :=
  let c := getCore s core
  let d := getDie s (dieOf core)
  let pay (n : Nat) : Nat := if trialOn d && decide (0 < d.trialLeft) && decide (n < d.trialG) then n + 1 else n
  let paused := (c.groups.filter fun e => pausedBy d e.2.r e.2.paid).map (Who.group ·.1) ++
    (c.ranges.filter fun e => pausedBy d e.2.r e.2.paid).map (Who.range ·.1)
  let groups := c.groups.map fun (e : Nat × Group) => (e.1, judge s core e.1 e.2)
  setCore s core (payCore pay { c with groups := groups, cyc := { begun := true, paused := paused } })

/-- The candidates of a cycle, in ascending context. -/
def candidates (c : Core) : List (Nat × Group) :=
  c.groups.filter fun e =>
    e.2.st == .ready && !e.2.displaced && e.2.reason == 11 && activeLanes e.2 != [] && !c.cyc.paused.contains (.group e.1) &&
      !c.cyc.issued.contains (.group e.1)
/-- The running ranges that may issue in a cycle: no trial pauses them, and their bundle is in the buffer. -/
def runners (s : State) (core : Nat) : List (Nat × Range) :=
  let c := getCore s core
  (runningRanges c).filter fun e => !c.cyc.paused.contains (.range e.1) && (bundleFor s core (.range e.1)).isSome

/-! ## The choice (R182, R183) -/

/-- The bundle's body, where it decodes. -/
def bodyFor (s : State) (core : Nat) (w : Who) : Option Body :=
  match bundleFor s core w with
  | some x => match decodeBundle x with | .ok b => some b.body | .error _ => none
  | none => none
/-- How long the target of a context's bundle has been idle. -/
def idleFor (s : State) (core ctx : Nat) : Nat :=
  let c := getCore s core
  let k := getCluster s (clusterOf core)
  match (bodyFor s core (.group ctx)).map targetOfBody with
  | some .matrix => k.idleM
  | some .copy => k.idleC
  | some .loadStore => c.idleLs
  | some .vector => c.idleV
  | _ => c.idleS

/-- The first of the elements with the greatest key. -/
def topBy {α : Type} (key : α → Nat) : List α → Option α
  | [] => none
  | a :: t =>
    match topBy key t with
    | none => some a
    | some b => if key b ≤ key a then some a else some b

/-- The lead (R182): of the aged candidates the oldest, else the one whose target has been idle longest, then the oldest,
then the lowest. -/
def leadOf (s : State) (core : Nat) (cs : List (Nat × Group)) : Option (Nat × Group) :=
  match topBy (fun e => e.2.age) (cs.filter fun e => decide (243 ≤ e.2.age)) with
  | some e => some e
  | none => topBy (fun e => 730 * idleFor s core e.1 + e.2.age) cs

/-- The elements in the order in which `topBy` takes them. -/
def rankBy {α : Type} [DecidableEq α] (key : α → Nat) : Nat → List α → List α
  | 0, _ => []
  | n + 1, l =>
    match topBy key l with
    | none => []
    | some a => a :: rankBy key n (l.filter (· ≠ a))

/-- The latches before a bundle issues: cleared unless its context alone owns them (R203). -/
def claimLatches (s : State) (core : Nat) (w : Who) (packed : Bool) : State :=
  updCore s core fun c =>
    let c := if packed || c.owner != some w then { c with vlatch := [0, 0, 0], slatch := [0, 0, 0] } else c
    { c with owner := if packed then none else some w }

/-- The accesses of a plain store of a group: whether they are binary, whether they go to the scratchpad, and where. -/
def storeLanes (s : State) (i : Issue) (g : Group) (x : Instr) : Option (Bool × Bool × List Lane) :=
  let lanes (binary : Bool) (n a : Nat) (off : Opd) (disp : Int) : Option (Bool × Bool × List Lane) :=
    let r := getA s i a
    some (binary, r.scratch, lanesAt s i g r off disp n)
  let one (n a : Nat) (off : Opd) : Option (Bool × Bool × List Lane) :=
    let r := getA s i a
    some (false, r.scratch, uniLane s i r off n)
  match x with
  | .st9 _ a b => lanes false 1 a b 0
  | .st27 _ a b => lanes false 3 a b 0
  | .stb8 _ a b => lanes true 1 a b 0
  | .stb16 _ a b => lanes true 2 a b 0
  | .stb32 _ a b => lanes true 4 a b 0
  | .stx9 a _ x e => lanes false 1 x a e
  | .stx27 a _ x e => lanes false 3 x a e
  | .stxb8 a _ x e => lanes true 1 x a e
  | .stxb16 a _ x e => lanes true 2 x a e
  | .stxb32 a _ x e => lanes true 4 x a e
  | .stpk a _ c x e => let r := getA s i x; some (false, r.scratch, packedLanes s i g r a e c.toNat)
  | .sts27 _ a b => one 3 a b
  | .sts54 _ a b => one 6 a b
  | .stsp _ a b => one 4 a b
  | _ => none
/-- Does a bundle that a group would execute packed store to a write-combining page? Such a store is on the stream path (R95, R183,
R272). -/
def streamStore (s : State) (core ctx : Nat) : Bool :=
  match getGroup s core ctx, bundleFor s core (.group ctx) with
  | some g, some x =>
    match decodeBundle x with
    | .error _ => false
    | .ok b =>
      let i : Issue := { core := core, who := .group ctx, pc := g.pc, guard := guardLanes s core (.group ctx) b.gmask b.gtest }
      (bodyInstrs b.body).any fun x =>
        match storeLanes (claimLatches s core (.group ctx) true) i g x with
        | some (binary, false, ls) => ls.any fun l =>
            match translate s (xlOf core g.r) .store binary l.e l.n with
            | (.ok us, _) => us.any fun u => u.attr.policy == 2
            | _ => false
        | _ => false
  | _, _ => false

/-- The partners of a lead (R183). -/
def partnersOf (s : State) (core : Nat) (cs : List (Nat × Group)) (lead : Nat × Group) : List Nat :=
  let g := lead.2
  match bodyFor s core (.group lead.1) with
  | some b =>
    if packable b ∧ (g.width = 9 ∨ g.width = 27) ∧ !streamStore s core lead.1 then
      let ps := (cs.filter fun e => e.1 != lead.1 && e.2.lid == g.lid && decide (e.2.pc = g.pc) && e.2.width == g.width &&
        !streamStore s core e.1).map
        fun e => (e.1, e.2.age)
      (rankBy (fun (p : Nat × Nat) => p.2) (81 / g.width - 1) ps).map (·.1)
    else []
  | none => []

/-- A context's bundle enters the issue slot. -/
def enterSlot (s : State) (core : Nat) (w : Who) (packed : Bool) (partners : List Nat) : State :=
  { s with issue := some { core := core, who := w, pc := whoPc s core w, packed := packed, partners := partners } }

/-! ## Ends of cycles -/

/-- A counter of idle cycles. -/
def idler (n : Nat) : Nat := min 729 (n + 1)

/-- Ages, waits and counters at the end of a core's cycle (R182, R185). -/
def ageAll (c : Core) : Core :=
  { c with
    groups := c.groups.map fun (e : Nat × Group) =>
      let g := e.2
      (e.1,
        if c.cyc.issued.contains (.group e.1) then { g with age := 0, reason := if g.st = .ready then 0 else g.reason }
        else if g.st = .ready ∧ !g.displaced ∧ g.reason ≠ 8 ∧ g.reason ≠ 9 then { g with age := min 729 (g.age + 1) } else g)
    ranges := c.ranges.map fun (e : Nat × Range) =>
      let r := e.2
      (e.1, { r with wait := if c.cyc.issued.contains (.range e.1) then 0 else r.wait + 1 })
    idleLs := idler c.idleLs, idleV := idler c.idleV, idleS := idler c.idleS, sinceRange := min 27 (c.sinceRange + 1)
    swapWait := c.swapWait - 1, cyc := {} }

/-- An event becomes due unless it is already. -/
def pushOnce (s : State) (e : Event) : State := if s.agenda.contains e then s else push s e

/-- What the passing of time makes due on a die: slices, requests, built groups, samples (R154, R188, R193, R335). -/
def timeDue (s : State) (die : Nat) : State :=
  let d := getDie s die
  let s := d.shares.foldl (fun s h =>
    let s := if sliceOver s die h then pushOnce s (.timeSliceExpiry die h.lid) else s
    if h.requested then pushOnce s (.shareSave die h.lid) else s) s
  let s := (dieCores die).foldl (fun s x =>
    (getCore s x).builds.foldl (fun s b =>
      if b.items.any fun it => decide (it.since + 729 ≤ d.cycle) then pushOnce s (.formerIssueTimeout x b.id) else s) s) s
  if sampleNow d then
    ((dieCores die).filter fun x => (getCore s x).groups != []).foldl (fun s x => push s (.friezeSample x)) s
  else s

/-- A cycle of a die ends: the events of the cycle are tested, its clock and its trial go on (R238, R334, R338). -/
def tickDie (s : State) (die : Nat) : State :=
  let s := testEvents s die
  let d := getDie s die
  let left := if trialOn d then d.trialLeft - 1 else d.trialLeft
  let s := setDie s die { d with cycle := d.cycle + 1, trialLeft := left, nextCore := 0 }
  let s := if trialOn d ∧ left = 0 then pushOnce s (.causalTrialEnd die) else s
  timeDue s die

/-- BASE_CYCLE: a cycle of a stack base die, whose counter counts while its scrubber runs (R10, R90). -/
def baseCycle (h : Nat) (s : State) : State :=
  if h < 9 then updStack s h fun k => if k.live && k.enable then { k with elapsed := k.elapsed + 1 } else k else s

/-- The exchange with the shadow bank is due where its idle cycles are over (R192). -/
def swapDue (s : State) (core : Nat) : State :=
  let c := getCore s core
  if !c.swapping || c.swapWait != 0 then s
  else pushOnce s (if c.swapped then .shadowSwapBack core else .shadowSwap core)

/-- A core's cycle ends: one bundle is fetched; casts and built groups that have become possible are due; the next core, or
the next cycle of the die, follows. -/
def endCycle (s : State) (core : Nat) : State :=
  let s := swapDue (updCore (fetchStep s core) core ageAll) core
  let s := offerCast (offerBuilds s core) core
  let s := if coreInCluster core = 2 then
      updCluster s (clusterOf core) fun k => { k with idleM := idler k.idleM, idleC := idler k.idleC }
    else s
  if coreInDie core = 80 then tickDie s (dieOf core)
  else updDie s (dieOf core) fun d => { d with nextCore := coreInDie core + 1 }

/-! ## ISSUE_CHOICE (R182) -/

/-- The choice of a core in the cycle that has begun (R182); while it exchanges contexts with its shadow bank it issues nothing
(R192). DEDUCED (log 74): a range whose bundle is not in the buffer takes no slot. -/
def choose (s : State) (core : Nat) : State :=
  let c := getCore s core
  let cs := candidates c
  if c.swapping then endCycle s core
  else match rangeTurn (runners s core) with
    | some e =>
      if 26 < c.sinceRange ∨ cs = [] then enterSlot s core (.range e.1) false [] else lead s cs
    | none => lead s cs
where
  /-- The lead and its partners, or the end of the cycle where there is no candidate. -/
  lead (s : State) (cs : List (Nat × Group)) : State :=
    match leadOf s core cs with
    | some l =>
      let ps := partnersOf s core cs l
      enterSlot s core (.group l.1) (ps != []) ps
    | none => endCycle s core

/-- The cores of a package. -/
def coreCount : Nat := 729

/-- ISSUE_CHOICE: a core takes its turn in a cycle. -/
def execIssueChoice (core : Nat) (s : State) : Host.Outcome State Fault Refusal :=
  .next (if s.issue.isSome ∨ coreCount ≤ core then s
    else if (getCore s core).cyc.begun then choose s core else choose (beginCycle s core) core)

/-- The engines of a bundle accept its work: their idle counters restart (R182). -/
def acceptWork (s : State) (core : Nat) (range : Bool) (b : Body) : State :=
  let ts := ((bodyInstrs b).filter fun i => i != .nopVector && i != .nopScalar).map targetOfInstr
  let ts := if range && ts != [] then [Target.scalar] else ts
  let s := updCore s core fun c =>
    { c with idleLs := if ts.contains .loadStore then 0 else c.idleLs
             idleV := if ts.contains .vector then 0 else c.idleV
             idleS := if ts.contains .scalar then 0 else c.idleS }
  if ts.contains .matrix || ts.contains .copy then
    updCluster s (clusterOf core) fun k =>
      { k with idleM := if ts.contains .matrix then 0 else k.idleM, idleC := if ts.contains .copy then 0 else k.idleC }
  else s

/-! ## The processor's rounds (R167) -/

/-- The queue whose command is taken next: in ascending number, one per queue per round. -/
def nextQueueOf (s : State) : Option Nat := ((List.range 81).map fun j => (s.nextQueue + j) % 81).find? (mayTake s)
/-- The taking of the command at the head of a queue. -/
def queueEvent (s : State) (q : Nat) : Event :=
  match (headCmd s q).2.1 with
  | .launch => .launchCommand q
  | .abort => .abort q
  | .nop => .noOperation q
  | .bad => .malformedCommand q
/-- The taking of the command at the head of the firmware ring (R360, R361). -/
def firmwareEvent (s : State) : Event :=
  let kind : Option Int := (fwHead s).map fun e => e.2.1
  match kind with
  | some 1 => .generation
  | some 2 => .loadKeySlot
  | some 3 => .clearKeySlot
  | some 4 => .operatingPoint
  | some 5 => .quote
  | some 6 => .dieMap
  | some 7 => .imageUpload
  | some 8 => .transportKey
  | _ => .malformedCommand 81

/-! ## What happens next -/

/-- Is an event one that the outside, a base die, a link or a failing cell brings about? -/
def isInput (e : Event) : Bool :=
  match e with
  | .doorbell q _ | .hqCtlWrite q _ | .hqPtailWrite q _ => decide (q < 82)
  | .hostWrite .. | .hostRead .. | .hostMemory .. | .hostDevice .. | .windowRegisterWrite .. | .windowRegisterRead _
  | .vectorTaken _ => true
  | .peerAccess p .. | .peerNegotiation p .. | .peerPortDown p => decide (p < 8)
  | .powerOn _ | .packageReset => true
  | .scrubAtom h | .scrubLevelChange h | .scrubPeriodEnd h | .retraining h _ | .forcedRetraining h _ => decide (h < 9)
  | .flitError .. | .linkTraining .. | .linkFault .. | .cacheError .. | .deviceReport .. => true
  | .memError .. | .bankError .. | .rangeError .. | .rollback .. | .combSend .. => true
  | _ => false

/-- Is an event one that its cycle does not pass without? A cast, the issue of a built group, the end of a trial, an exchange with a
shadow bank (R154, R165, R192, R338). -/
def isUrgent (e : Event) : Bool :=
  match e with
  | .teamCast .. | .formerGroupIssue .. | .formerIssueTimeout .. | .causalTrialEnd _ | .shadowSwap _ | .shadowSwapBack _ => true
  | _ => false
/-- The stream that an event belongs to: flits reach an end in the order in which they were sent, and so do the messages of one class,
source and destination, snoops and responses together (R343, R345; log 80). -/
def streamOf (e : Event) : Option (Nat × Nat × Nat) :=
  match e with
  | .flitReceive tail _ _ => some (4, tail, 0)
  | .readShared m | .readOwned m | .upgrade m | .writeBack m | .partialWrite m | .atomicRequest m | .evictionNotice m =>
    some (0, m.src, m.dst)
  | .invalidate m | .downgrade m | .fetchAndInvalidate m => some (1, m.src, m.dst)
  | .data m | .acknowledge m | .dataDirty m | .acknowledgeAlreadyWrittenBack m | .errorResponse m => some (1, m.src, m.dst)
  | .mailboxPacket m | .linkManagement m | .invalMessage m | .drainedMessage m | .probeMessage m => some (3, m.src, m.dst)
  | _ => none
/-- The places in the agenda of the events that may happen next: an urgent one before the others, the first of a stream before the
rest of it. -/
def mayHappen (l : List Event) : List Nat :=
  match l.findIdx? isUrgent with
  | some i => [i]
  | none => (List.range l.length).filter fun i =>
      match l[i]?.bind streamOf with
      | some k => (l.take i).all fun f => streamOf f != some k
      | none => true
/-- Of the things that may happen next, one: an event that is due, a die's next core, a cycle of a base die, a command of a queue or
of the firmware ring, or an input. Which one is free (R10); an urgent event comes first (R165). -/
def nextEvent (s : State) : Option Event × State :=
  let due := mayHappen s.agenda
  let n := due.length
  let k := Config.pick s.fresh % (if s.agenda.any isUrgent then n else n + 21)
  let s := tick s
  match due[k]? with
  | some i => (s.agenda[i]?, { s with agenda := s.agenda.eraseIdx i })
  | none =>
    let j := k - n
    if j < 9 then
      (if (getDie s j).life = .out ∨ windowHolds s j then (none, s) else (some (.issueChoice (81 * j + (getDie s j).nextCore)), s))
    else if j = 9 then
      match nextQueueOf s with
      | some q => (some (queueEvent s q), { s with nextQueue := (q + 1) % 81 })
      | none => (none, s)
    else if j = 10 then (if fwMayTake s then (some (firmwareEvent s), s) else (none, s))
    else if j < 20 then (some (.baseCycle (j - 11)), s)
    else ((Config.input s.fresh).filter isInput, s)

end Sys2Proof.Machine
end

