-- ==== Sys2Proof/Machine/Vector.lean ====
section
/-! DEFINITION. Vector integer operations, long immediates and armature construction, integer three-source operations
(10 R251, R255; 09 R221). -/

namespace Sys2Proof.Machine

open Sys2Proof

/-- `nop` of the vector map (R251). -/
def execNopVector (s : State) : Host.Outcome State Fault Refusal := inIssue s fun _ s => s
/-- Vector `add`: wrapping sum (R251). -/
def execAddVector (d : Dst) (a b : Opd) (s : State) : Host.Outcome State Fault Refusal :=
  vectorAlu s d [a, b] (armLin fun a b => a + b) (intLane2 fun a b => wrap 27 (a + b))
/-- Vector `sub`: wrapping difference (R251). -/
def execSubVector (d : Dst) (a b : Opd) (s : State) : Host.Outcome State Fault Refusal :=
  vectorAlu s d [a, b] (armLin fun a b => a - b) (intLane2 fun a b => wrap 27 (a - b))
/-- Vector `mul`: wrapping product (R251). -/
def execMulVector (d : Dst) (a b : Opd) (s : State) : Host.Outcome State Fault Refusal :=
  vectorAlu s d [a, b] armMul (intLane2 fun a b => wrap 27 (a * b))
/-- Vector `mulh`: high product (R251). -/
def execMulhVector (d : Dst) (a b : Opd) (s : State) : Host.Outcome State Fault Refusal :=
  vectorAlu s d [a, b] noArm (intLane2 fun a b => mulh a b)
/-- Vector `div`: nearest quotient (R16) (R251). -/
def execDivVector (d : Dst) (a b : Opd) (s : State) : Host.Outcome State Fault Refusal :=
  vectorAlu s d [a, b] noArm (intLane2 fun a b => divq a b)
/-- Vector `rem`: remainder (R16) (R251). -/
def execRemVector (d : Dst) (a b : Opd) (s : State) : Host.Outcome State Fault Refusal :=
  vectorAlu s d [a, b] noArm (intLane2 fun a b => remq a b)
/-- Vector `adds`: saturating sum (R251). -/
def execAddsVector (d : Dst) (a b : Opd) (s : State) : Host.Outcome State Fault Refusal :=
  vectorAlu s d [a, b] noArm (intLane2 fun a b => sat 27 (a + b))
/-- Vector `subs`: saturating difference (R251). -/
def execSubsVector (d : Dst) (a b : Opd) (s : State) : Host.Outcome State Fault Refusal :=
  vectorAlu s d [a, b] noArm (intLane2 fun a b => sat 27 (a - b))
/-- Vector `muls`: saturating product (R251). -/
def execMulsVector (d : Dst) (a b : Opd) (s : State) : Host.Outcome State Fault Refusal :=
  vectorAlu s d [a, b] noArm (intLane2 fun a b => sat 27 (a * b))
/-- Vector `min`: smaller value (R251). -/
def execMinVector (d : Dst) (a b : Opd) (s : State) : Host.Outcome State Fault Refusal :=
  vectorAlu s d [a, b] noArm (intLane2 fun a b => min a b)
/-- Vector `max`: larger value (R251). -/
def execMaxVector (d : Dst) (a b : Opd) (s : State) : Host.Outcome State Fault Refusal :=
  vectorAlu s d [a, b] noArm (intLane2 fun a b => max a b)
/-- Vector `satn`: saturation to `b` trits (R251). -/
def execSatnVector (d : Dst) (a b : Opd) (s : State) : Host.Outcome State Fault Refusal :=
  vectorAlu s d [a, b] noArm (intLane2 fun a b => satn a b)
/-- Vector `wrapn`: wrap to `b` trits (R251). -/
def execWrapnVector (d : Dst) (a b : Opd) (s : State) : Host.Outcome State Fault Refusal :=
  vectorAlu s d [a, b] noArm (intLane2 fun a b => wrapn a b)
/-- Vector `tmin`: tritwise minimum (R251). -/
def execTminVector (d : Dst) (a b : Opd) (s : State) : Host.Outcome State Fault Refusal :=
  vectorAlu s d [a, b] noArm (intLane2 fun a b => tmin a b)
/-- Vector `tmax`: tritwise maximum (R251). -/
def execTmaxVector (d : Dst) (a b : Opd) (s : State) : Host.Outcome State Fault Refusal :=
  vectorAlu s d [a, b] noArm (intLane2 fun a b => tmax a b)
/-- Vector `neg`: negation; an armature stays one (R135, R251). -/
def execNegVector (d : Dst) (a : Opd) (s : State) : Host.Outcome State Fault Refusal :=
  vectorAlu s d [a] armNeg (intLane1 fun a => wrap 27 (-a))
/-- Vector `tsum`: tritwise sum (R251). -/
def execTsumVector (d : Dst) (a b : Opd) (s : State) : Host.Outcome State Fault Refusal :=
  vectorAlu s d [a, b] noArm (intLane2 fun a b => tsum a b)
/-- Vector `tmul`: tritwise product (R251). -/
def execTmulVector (d : Dst) (a b : Opd) (s : State) : Host.Outcome State Fault Refusal :=
  vectorAlu s d [a, b] noArm (intLane2 fun a b => tmul a b)
/-- Vector `abs`: magnitude (R251). -/
def execAbsVector (d : Dst) (a : Opd) (s : State) : Host.Outcome State Fault Refusal :=
  vectorAlu s d [a] noArm (intLane1 fun a => (a.natAbs : Int))
/-- Vector `sh`: trit shift (R15, R218) (R251). -/
def execShVector (d : Dst) (a b : Opd) (s : State) : Host.Outcome State Fault Refusal :=
  vectorAlu s d [a, b] armShift (intLane2 fun a b => shift a b)
/-- Vector `shs`: saturating shift (R218) (R251). -/
def execShsVector (d : Dst) (a b : Opd) (s : State) : Host.Outcome State Fault Refusal :=
  vectorAlu s d [a, b] noArm (intLane2 fun a b => shiftSat a b)
/-- Vector `mov`: the source's value and form (R251). -/
def execMovVector (d : Dst) (a : Opd) (s : State) : Host.Outcome State Fault Refusal :=
  vectorAlu s d [a] armCopy (intLane1 fun a => a)
/-- Vector `sgn`: the sign (R251). -/
def execSgn (d : Dst) (a : Opd) (s : State) : Host.Outcome State Fault Refusal :=
  vectorAlu s d [a] noArm (intLane1 sgnv)

/-- `liv`: a uniform value (R221). -/
def execLiv (d : Dst) (m : Int) (s : State) : Host.Outcome State Fault Refusal :=
  vectorAlu s d [] (fun _ => some (.u m)) fun _ => (m, Flags.none)
/-- The old value of an armature's destination. -/
def dstOld : Dst → Opd
  | .reg n _ => .reg n
  | .latchOnly => .imm 0
/-- `v := v + m * index` (R221). -/
def armAdd (s : State) (d : Dst) (m : Int) (index : Nat) : Host.Outcome State Fault Refusal :=
  vectorAlu s d [dstOld d, .shared index] (armLin fun a b => a + m * b) (intLane2 fun a b => wrap 27 (a + m * b))
/-- `armx` (R221). -/
def execArmx (d : Dst) (m : Int) (s : State) : Host.Outcome State Fault Refusal := armAdd s d m 84
/-- `army` (R221). -/
def execArmy (d : Dst) (m : Int) (s : State) : Host.Outcome State Fault Refusal := armAdd s d m 85
/-- `armz` (R221). -/
def execArmz (d : Dst) (m : Int) (s : State) : Host.Outcome State Fault Refusal := armAdd s d m 86

/-- `mad`: wrapping multiply-add (R255). -/
def execMad (d : Dst) (a b c : Opd) (s : State) : Host.Outcome State Fault Refusal :=
  vectorAlu s d [a, b, c] noArm (intLane3 fun a b c => wrap 27 (a * b + c))
/-- `mads`: saturating multiply-add (R255). -/
def execMads (d : Dst) (a b c : Opd) (s : State) : Host.Outcome State Fault Refusal :=
  vectorAlu s d [a, b, c] noArm (intLane3 fun a b c => sat 27 (a * b + c))
/-- `clamp`: between two bounds (R255). -/
def execClamp (d : Dst) (a b c : Opd) (s : State) : Host.Outcome State Fault Refusal :=
  vectorAlu s d [a, b, c] noArm (intLane3 fun a b c => min (max a b) c)

/-- The source that a trit selects (R255 `sel3`). -/
def sel3Pick {α : Type} (t : Int) (a b c : α) : α := if t < 0 then a else if t = 0 then b else c

/-- `sel3` (R255): in a range the chosen source with its form; in a group, lane by lane, form F. -/
def execSel3 (d : Dst) (a b c : Opd) (x : Nat) (s : State) : Host.Outcome State Fault Refusal :=
  inIssue s fun i s =>
    if i.guard = [] then s
    else match i.who with
      | .range _ =>
        let o := sel3Pick (maskTrit (srcRegs s i) x 0) a b c
        if [a, b, c].any vCasts then groupOnly s i fun _ _ => s
        else vwrite s i d (vsrc s i 0 o) Flags.none
      | .group k =>
        match getGroup s i.core k with
        | none => s
        | some g =>
          let v (o : Opd) (l : Nat) := laneVal (vsrc s i g.width o) g.items l
          vwrite s i d (lanesOf g.width i.guard fun l => v (sel3Pick (maskTrit (srcRegs s i) x l) a b c) l) Flags.none

end Sys2Proof.Machine
end

