-- ==== Sys2Proof/Machine/Events.lean ====
section
/-! DEFINITION. The run of a due event: the meaning of its row. -/

namespace Sys2Proof.Machine

open Sys2Proof

/-- One due event on a state. -/
def runEvent (e : Event) (s : State) : Host.Outcome State Fault Refusal :=
  match e with
  | .issueChoice core => Sys2Proof.Machine.execIssueChoice core s
  | .valueLanding core ctx id => Sys2Proof.Machine.execValueLanding core ctx id s
  | .itemMove core ctx slot => Sys2Proof.Machine.execItemMove core ctx slot s
  | .formerGroupIssue core build => Sys2Proof.Machine.execFormerGroupIssue core build s
  | .formerIssueTimeout core build => Sys2Proof.Machine.execFormerIssueTimeout core build s
  | .teamCast core entry => Sys2Proof.Machine.execTeamCast core entry s
  | .rangeMerge core family => Sys2Proof.Machine.execRangeMerge core family s
  | .teamDissolve team => Sys2Proof.Machine.execTeamDissolve team s
  | .drainingEnd core ctx => Sys2Proof.Machine.execDrainingEnd core ctx s
  | .teamRetire team => Sys2Proof.Machine.execTeamRetire team s
  | .launchCommand q => Sys2Proof.Machine.execLaunchCommand q s
  | .abort q => Sys2Proof.Machine.execAbort q s
  | .noOperation q => Sys2Proof.Machine.execNoOperation q s
  | .doorbell q v => Sys2Proof.Machine.execDoorbell q v s
  | .hqCtlWrite q v => Sys2Proof.Machine.execHqCtlWrite q v s
  | .hqPtailWrite q v => Sys2Proof.Machine.execHqPtailWrite q v s
  | .completionRecordWrite q => Sys2Proof.Machine.execCompletionRecordWrite q s
  | .eventRecordWrite => Sys2Proof.Machine.execEventRecordWrite s
  | .launchStart lid => Sys2Proof.Machine.execLaunchStart lid s
  | .coResidencyCast lid => Sys2Proof.Machine.execCoResidencyCast lid s
  | .launchComplete lid => Sys2Proof.Machine.execLaunchComplete lid s
  | .workPacket die => Sys2Proof.Machine.execWorkPacket die s
  | .mboxPacketArrival die => Sys2Proof.Machine.execMboxPacketArrival die s
  | .leaveGrant die => Sys2Proof.Machine.execLeaveGrant die s
  | .timeSliceExpiry die lid => Sys2Proof.Machine.execTimeSliceExpiry die lid s
  | .shareSave die lid => Sys2Proof.Machine.execShareSave die lid s
  | .shareRestore die lid => Sys2Proof.Machine.execShareRestore die lid s
  | .shadowSwap core => Sys2Proof.Machine.execShadowSwap core s
  | .shadowSwapBack core => Sys2Proof.Machine.execShadowSwapBack core s
  | .pageTableWalk die walk => Sys2Proof.Machine.execPageTableWalk die walk s
  | .invalidationByRange agent req => Sys2Proof.Machine.execInvalidationByRange agent req s
  | .drainedReport agent req => Sys2Proof.Machine.execDrainedReport agent req s
  | .bkModeloWrite core hi v => Sys2Proof.Machine.execBkModeloWrite core hi v s
  | .bankConversion core bank => Sys2Proof.Machine.execBankConversion core bank s
  | .waitingLoadRetry core ctx => Sys2Proof.Machine.execWaitingLoadRetry core ctx s
  | .fifoPushEntry cluster bank => Sys2Proof.Machine.execFifoPushEntry cluster bank s
  | .fifoPopRemove cluster bank => Sys2Proof.Machine.execFifoPopRemove cluster bank s
  | .scrubAtom st => Sys2Proof.Machine.execScrubAtom st s
  | .scrubLevelChange st => Sys2Proof.Machine.execScrubLevelChange st s
  | .scrubPeriodEnd st => Sys2Proof.Machine.execScrubPeriodEnd st s
  | .scCtlWrite st v => Sys2Proof.Machine.execScCtlWrite st v s
  | .scStatusWrite st v => Sys2Proof.Machine.execScStatusWrite st v s
  | .retraining st ch => Sys2Proof.Machine.execRetraining st ch s
  | .forcedRetraining st ch => Sys2Proof.Machine.execForcedRetraining st ch s
  | .miItabWrite j v => Sys2Proof.Machine.execMiItabWrite j v s
  | .miCtlLock v => Sys2Proof.Machine.execMiCtlLock v s
  | .queryAccept query => Sys2Proof.Machine.execQueryAccept query s
  | .expansion query => Sys2Proof.Machine.execExpansion query s
  | .searchProbe query node => Sys2Proof.Machine.execSearchProbe query node s
  | .queryCompletion query => Sys2Proof.Machine.execQueryCompletion query s
  | .matrixPass op => Sys2Proof.Machine.execMatrixPass op s
  | .drain op => Sys2Proof.Machine.execDrain op s
  | .blockCopy op => Sys2Proof.Machine.execBlockCopy op s
  | .copyIntoRegisters op => Sys2Proof.Machine.execCopyIntoRegisters op s
  | .trapEntry core ctx => Sys2Proof.Machine.execTrapEntry core ctx s
  | .rollback core ctx reg => Sys2Proof.Machine.execRollback core ctx reg s
  | .halt core ctx => Sys2Proof.Machine.execHalt core ctx s
  | .resume core ctx => Sys2Proof.Machine.execResume core ctx s
  | .step core ctx => Sys2Proof.Machine.execStep core ctx s
  | .readVectorLane core ctx lane reg => Sys2Proof.Machine.execReadVectorLane core ctx lane reg s
  | .readScalar core ctx reg => Sys2Proof.Machine.execReadScalar core ctx reg s
  | .readState core ctx => Sys2Proof.Machine.execReadState core ctx s
  | .friezeSample core => Sys2Proof.Machine.execFriezeSample core s
  | .causalTrialStart die v => Sys2Proof.Machine.execCausalTrialStart die v s
  | .causalTrialEnd die => Sys2Proof.Machine.execCausalTrialEnd die s
  | .ckLoRead core ctx => Sys2Proof.Machine.execCkLoRead core ctx s
  | .systemRegisterWrite core ctx n v => Sys2Proof.Machine.execSystemRegisterWrite core ctx n v s
  | .hostWrite addr l => Sys2Proof.Machine.execHostWrite addr l s
  | .hostRead addr => Sys2Proof.Machine.execHostRead addr s
  | .peerAccess port block w => Sys2Proof.Machine.execPeerAccess port block w s
  | .peerNegotiation port gen base count outBase outCount => Sys2Proof.Machine.execPeerNegotiation port gen base count outBase outCount s
  | .windowRegisterWrite r v => Sys2Proof.Machine.execWindowRegisterWrite r v s
  | .flitReceive tail l ok => Sys2Proof.Machine.execFlitReceive tail l ok s
  | .replay tail good => Sys2Proof.Machine.execReplay tail good s
  | .linkTraining link ga gb => Sys2Proof.Machine.execLinkTraining link ga gb s
  | .widthReduction die => Sys2Proof.Machine.execWidthReduction die s
  | .frequencyChange die => Sys2Proof.Machine.execFrequencyChange die s
  | .readShared m => Sys2Proof.Machine.execReadShared m s
  | .readOwned m => Sys2Proof.Machine.execReadOwned m s
  | .upgrade m => Sys2Proof.Machine.execUpgrade m s
  | .writeBack m => Sys2Proof.Machine.execWriteBack m s
  | .partialWrite m => Sys2Proof.Machine.execPartialWrite m s
  | .atomicRequest m => Sys2Proof.Machine.execAtomicRequest m s
  | .evictionNotice m => Sys2Proof.Machine.execEvictionNotice m s
  | .invalidate m => Sys2Proof.Machine.execInvalidate m s
  | .downgrade m => Sys2Proof.Machine.execDowngrade m s
  | .fetchAndInvalidate m => Sys2Proof.Machine.execFetchAndInvalidate m s
  | .data m => Sys2Proof.Machine.execData m s
  | .acknowledge m => Sys2Proof.Machine.execAcknowledge m s
  | .dataDirty m => Sys2Proof.Machine.execDataDirty m s
  | .acknowledgeAlreadyWrittenBack m => Sys2Proof.Machine.execAcknowledgeAlreadyWrittenBack m s
  | .errorResponse m => Sys2Proof.Machine.execErrorResponse m s
  | .mailboxPacket m => Sys2Proof.Machine.execMailboxPacket m s
  | .linkManagement m => Sys2Proof.Machine.execLinkManagement m s
  | .generation => Sys2Proof.Machine.execGeneration s
  | .loadKeySlot => Sys2Proof.Machine.execLoadKeySlot s
  | .clearKeySlot => Sys2Proof.Machine.execClearKeySlot s
  | .operatingPoint => Sys2Proof.Machine.execOperatingPoint s
  | .quote => Sys2Proof.Machine.execQuote s
  | .dieMap => Sys2Proof.Machine.execDieMap s
  | .imageUpload => Sys2Proof.Machine.execImageUpload s
  | .transportKey => Sys2Proof.Machine.execTransportKey s
  | .powerOn b => Sys2Proof.Machine.execPowerOn b s
  | .packageReset => Sys2Proof.Machine.execPackageReset s
  | .malformedCommand q => Sys2Proof.Machine.execMalformedCommand q s
  | .lgBudgetWrite die v => Sys2Proof.Machine.execLgBudgetWrite die v s
  | .peerPortDown port => Sys2Proof.Machine.execPeerPortDown port s
  | .pieceEnd die lid => .next (endPiece die lid s)
  | .plinth die => .next (plinthStep die s)
  | .combSend core i => .next (combSend core i s)
  | .memError block sym change => .next (memError block sym change s)
  | .bankError cluster bank nonet => .next (bankError cluster bank nonet s)
  | .rangeError core entry => .next (rangeParity core entry s)
  | .hostMemory addr b => .next (hostMemory addr b s)
  | .linkFault die link m => .next (linkFault die link m s)
  | .flitError tail => .next (flitError tail s)
  | .invalMessage m => invalMessage m s
  | .drainedMessage m => drainedMessage m s
  | .probeMessage m => probeMessage m s
  | .baseCycle h => .next (baseCycle h s)
  | .cacheError h line fixed => .next (cacheError h line fixed s)
  | .deviceReport b => .next (deviceReport b s)
  | .hostDevice b key binary w => .next (hostDevice b key binary w s)
  | .windowRegisterRead r => .next (windowRegisterRead r s)
  | .vectorTaken v => .next (vectorTaken v s)

end Sys2Proof.Machine
end

