-- ==== Sys2Proof/Machine/Dispatch.lean ====
section
/-! DEFINITION. The dispatch: one arm per instruction, each a call of its meaning. -/

namespace Sys2Proof.Machine

open Sys2Proof

/-- One instruction on a state. -/
def exec (i : Instr) (s : State) : Host.Outcome State Fault Refusal :=
  match i with
  | .nopScalar => Sys2Proof.Machine.execNopScalar s
  | .addScalar d a b => Sys2Proof.Machine.execAddScalar d a b s
  | .subScalar d a b => Sys2Proof.Machine.execSubScalar d a b s
  | .mulScalar d a b => Sys2Proof.Machine.execMulScalar d a b s
  | .mulhScalar d a b => Sys2Proof.Machine.execMulhScalar d a b s
  | .divScalar d a b => Sys2Proof.Machine.execDivScalar d a b s
  | .remScalar d a b => Sys2Proof.Machine.execRemScalar d a b s
  | .addsScalar d a b => Sys2Proof.Machine.execAddsScalar d a b s
  | .subsScalar d a b => Sys2Proof.Machine.execSubsScalar d a b s
  | .mulsScalar d a b => Sys2Proof.Machine.execMulsScalar d a b s
  | .minScalar d a b => Sys2Proof.Machine.execMinScalar d a b s
  | .maxScalar d a b => Sys2Proof.Machine.execMaxScalar d a b s
  | .satnScalar d a b => Sys2Proof.Machine.execSatnScalar d a b s
  | .wrapnScalar d a b => Sys2Proof.Machine.execWrapnScalar d a b s
  | .tminScalar d a b => Sys2Proof.Machine.execTminScalar d a b s
  | .tmaxScalar d a b => Sys2Proof.Machine.execTmaxScalar d a b s
  | .negScalar d a => Sys2Proof.Machine.execNegScalar d a s
  | .tsumScalar d a b => Sys2Proof.Machine.execTsumScalar d a b s
  | .tmulScalar d a b => Sys2Proof.Machine.execTmulScalar d a b s
  | .absScalar d a => Sys2Proof.Machine.execAbsScalar d a s
  | .shScalar d a b => Sys2Proof.Machine.execShScalar d a b s
  | .shsScalar d a b => Sys2Proof.Machine.execShsScalar d a b s
  | .movScalar d a => Sys2Proof.Machine.execMovScalar d a s
  | .cmpScalar d a b => Sys2Proof.Machine.execCmpScalar d a b s
  | .ext d a => Sys2Proof.Machine.execExt d a s
  | .li d m => Sys2Proof.Machine.execLi d m s
  | .liv d m => Sys2Proof.Machine.execLiv d m s
  | .armx d m => Sys2Proof.Machine.execArmx d m s
  | .army d m => Sys2Proof.Machine.execArmy d m s
  | .armz d m => Sys2Proof.Machine.execArmz d m s
  | .ali d m => Sys2Proof.Machine.execAli d m s
  | .amov d a => Sys2Proof.Machine.execAmov d a s
  | .aadv d b => Sys2Proof.Machine.execAadv d b s
  | .awin d a b => Sys2Proof.Machine.execAwin d a b s
  | .aperm d a => Sys2Proof.Machine.execAperm d a s
  | .aget d a b => Sys2Proof.Machine.execAget d a b s
  | .acat d a b => Sys2Proof.Machine.execAcat d a b s
  | .br b => Sys2Proof.Machine.execBr b s
  | .loop d b => Sys2Proof.Machine.execLoop d b s
  | .ret a => Sys2Proof.Machine.execRet a s
  | .cut d a => Sys2Proof.Machine.execCut d a s
  | .join => Sys2Proof.Machine.execJoin s
  | .joinD a => Sys2Proof.Machine.execJoinD a s
  | .exit => Sys2Proof.Machine.execExit s
  | .yield => Sys2Proof.Machine.execYield s
  | .region => Sys2Proof.Machine.execRegion s
  | .safe => Sys2Proof.Machine.execSafe s
  | .br3 c tn tz tp => Sys2Proof.Machine.execBr3 c tn tz tp s
  | .br3s c tn tz tp => Sys2Proof.Machine.execBr3s c tn tz tp s
  | .jmp tz => Sys2Proof.Machine.execJmp tz s
  | .call c tz => Sys2Proof.Machine.execCall c tz s
  | .srd d a => Sys2Proof.Machine.execSrd d a s
  | .swr a b => Sys2Proof.Machine.execSwr a b s
  | .trap a => Sys2Proof.Machine.execTrap a s
  | .rft => Sys2Proof.Machine.execRft s
  | .bkpt a => Sys2Proof.Machine.execBkpt a s
  | .inval d a b => Sys2Proof.Machine.execInval d a b s
  | .bkmode a b => Sys2Proof.Machine.execBkmode a b s
  | .launch d a => Sys2Proof.Machine.execLaunch d a s
  | .mbox d a => Sys2Proof.Machine.execMbox d a s
  | .share d a b => Sys2Proof.Machine.execShare d a b s
  | .pcomp a b => Sys2Proof.Machine.execPcomp a b s
  | .tcbsig a => Sys2Proof.Machine.execTcbsig a s
  | .prog a => Sys2Proof.Machine.execProg a s
  | .nopVector => Sys2Proof.Machine.execNopVector s
  | .addVector d a b => Sys2Proof.Machine.execAddVector d a b s
  | .subVector d a b => Sys2Proof.Machine.execSubVector d a b s
  | .mulVector d a b => Sys2Proof.Machine.execMulVector d a b s
  | .mulhVector d a b => Sys2Proof.Machine.execMulhVector d a b s
  | .divVector d a b => Sys2Proof.Machine.execDivVector d a b s
  | .remVector d a b => Sys2Proof.Machine.execRemVector d a b s
  | .addsVector d a b => Sys2Proof.Machine.execAddsVector d a b s
  | .subsVector d a b => Sys2Proof.Machine.execSubsVector d a b s
  | .mulsVector d a b => Sys2Proof.Machine.execMulsVector d a b s
  | .minVector d a b => Sys2Proof.Machine.execMinVector d a b s
  | .maxVector d a b => Sys2Proof.Machine.execMaxVector d a b s
  | .satnVector d a b => Sys2Proof.Machine.execSatnVector d a b s
  | .wrapnVector d a b => Sys2Proof.Machine.execWrapnVector d a b s
  | .tminVector d a b => Sys2Proof.Machine.execTminVector d a b s
  | .tmaxVector d a b => Sys2Proof.Machine.execTmaxVector d a b s
  | .negVector d a => Sys2Proof.Machine.execNegVector d a s
  | .tsumVector d a b => Sys2Proof.Machine.execTsumVector d a b s
  | .tmulVector d a b => Sys2Proof.Machine.execTmulVector d a b s
  | .absVector d a => Sys2Proof.Machine.execAbsVector d a s
  | .shVector d a b => Sys2Proof.Machine.execShVector d a b s
  | .shsVector d a b => Sys2Proof.Machine.execShsVector d a b s
  | .movVector d a => Sys2Proof.Machine.execMovVector d a s
  | .sgn d a => Sys2Proof.Machine.execSgn d a s
  | .fadd d a b => Sys2Proof.Machine.execFadd d a b s
  | .fsub d a b => Sys2Proof.Machine.execFsub d a b s
  | .fmul d a b => Sys2Proof.Machine.execFmul d a b s
  | .fdiv d a b => Sys2Proof.Machine.execFdiv d a b s
  | .fsqrt d a => Sys2Proof.Machine.execFsqrt d a s
  | .fmin d a b => Sys2Proof.Machine.execFmin d a b s
  | .fmax d a b => Sys2Proof.Machine.execFmax d a b s
  | .fneg d a => Sys2Proof.Machine.execFneg d a s
  | .fabs d a => Sys2Proof.Machine.execFabs d a s
  | .fscl d a b => Sys2Proof.Machine.execFscl d a b s
  | .fint d a => Sys2Proof.Machine.execFint d a s
  | .fexp d a => Sys2Proof.Machine.execFexp d a s
  | .fexp3 d a => Sys2Proof.Machine.execFexp3 d a s
  | .flog d a => Sys2Proof.Machine.execFlog d a s
  | .flog3 d a => Sys2Proof.Machine.execFlog3 d a s
  | .frcp d a => Sys2Proof.Machine.execFrcp d a s
  | .frsqrt d a => Sys2Proof.Machine.execFrsqrt d a s
  | .fsin d a => Sys2Proof.Machine.execFsin d a s
  | .fcos d a => Sys2Proof.Machine.execFcos d a s
  | .ftanh d a => Sys2Proof.Machine.execFtanh d a s
  | .fma d a b c => Sys2Proof.Machine.execFma d a b c s
  | .fms d a b c => Sys2Proof.Machine.execFms d a b c s
  | .fnma d a b c => Sys2Proof.Machine.execFnma d a b c s
  | .mad d a b c => Sys2Proof.Machine.execMad d a b c s
  | .mads d a b c => Sys2Proof.Machine.execMads d a b c s
  | .sel3 d a b c x => Sys2Proof.Machine.execSel3 d a b c x s
  | .clamp d a b c => Sys2Proof.Machine.execClamp d a b c s
  | .fclamp d a b c => Sys2Proof.Machine.execFclamp d a b c s
  | .cmpVector d a b => Sys2Proof.Machine.execCmpVector d a b s
  | .fcmp d a b => Sys2Proof.Machine.execFcmp d a b s
  | .fcls d a => Sys2Proof.Machine.execFcls d a s
  | .sgnMask d a => Sys2Proof.Machine.execSgnMask d a s
  | .kmin d a b => Sys2Proof.Machine.execKmin d a b s
  | .kmax d a b => Sys2Proof.Machine.execKmax d a b s
  | .kneg d a => Sys2Proof.Machine.execKneg d a s
  | .ksum d a b => Sys2Proof.Machine.execKsum d a b s
  | .kmul d a b => Sys2Proof.Machine.execKmul d a b s
  | .kval d a => Sys2Proof.Machine.execKval d a s
  | .cvt d a b => Sys2Proof.Machine.execCvt d a b s
  | .frombin d a b => Sys2Proof.Machine.execFrombin d a b s
  | .tobin d a b => Sys2Proof.Machine.execTobin d a b s
  | .rot d a b => Sys2Proof.Machine.execRot d a b s
  | .slide d a b => Sys2Proof.Machine.execSlide d a b s
  | .shfl d a b => Sys2Proof.Machine.execShfl d a b s
  | .bcast d a b => Sys2Proof.Machine.execBcast d a b s
  | .radd d a => Sys2Proof.Machine.execRadd d a s
  | .radds d a => Sys2Proof.Machine.execRadds d a s
  | .rmin d a => Sys2Proof.Machine.execRmin d a s
  | .rmax d a => Sys2Proof.Machine.execRmax d a s
  | .rfadd d a => Sys2Proof.Machine.execRfadd d a s
  | .rfmin d a => Sys2Proof.Machine.execRfmin d a s
  | .rfmax d a => Sys2Proof.Machine.execRfmax d a s
  | .kcnt d a b => Sys2Proof.Machine.execKcnt d a b s
  | .kfirst d a => Sys2Proof.Machine.execKfirst d a s
  | .sadd d a => Sys2Proof.Machine.execSadd d a s
  | .sadds d a => Sys2Proof.Machine.execSadds d a s
  | .smin d a => Sys2Proof.Machine.execSmin d a s
  | .smax d a => Sys2Proof.Machine.execSmax d a s
  | .sfadd d a => Sys2Proof.Machine.execSfadd d a s
  | .ld9 d a b => Sys2Proof.Machine.execLd9 d a b s
  | .ld27 d a b => Sys2Proof.Machine.execLd27 d a b s
  | .ldb8 d a b => Sys2Proof.Machine.execLdb8 d a b s
  | .ldb16 d a b => Sys2Proof.Machine.execLdb16 d a b s
  | .ldb32 d a b => Sys2Proof.Machine.execLdb32 d a b s
  | .ldw9 d a b => Sys2Proof.Machine.execLdw9 d a b s
  | .ldw27 d a b => Sys2Proof.Machine.execLdw27 d a b s
  | .lds27 d a b => Sys2Proof.Machine.execLds27 d a b s
  | .st9 d a b => Sys2Proof.Machine.execSt9 d a b s
  | .st27 d a b => Sys2Proof.Machine.execSt27 d a b s
  | .stb8 d a b => Sys2Proof.Machine.execStb8 d a b s
  | .stb16 d a b => Sys2Proof.Machine.execStb16 d a b s
  | .stb32 d a b => Sys2Proof.Machine.execStb32 d a b s
  | .stnt9 d a b => Sys2Proof.Machine.execStnt9 d a b s
  | .stnt27 d a b => Sys2Proof.Machine.execStnt27 d a b s
  | .sts27 d a b => Sys2Proof.Machine.execSts27 d a b s
  | .pf a b => Sys2Proof.Machine.execPf a b s
  | .fenceAcq a b => Sys2Proof.Machine.execFenceAcq a b s
  | .fenceRel a b => Sys2Proof.Machine.execFenceRel a b s
  | .fenceFull a b => Sys2Proof.Machine.execFenceFull a b s
  | .fenceSc a b => Sys2Proof.Machine.execFenceSc a b s
  | .lds54 d a b => Sys2Proof.Machine.execLds54 d a b s
  | .sts54 d a b => Sys2Proof.Machine.execSts54 d a b s
  | .ldsp d a b => Sys2Proof.Machine.execLdsp d a b s
  | .stsp d a b => Sys2Proof.Machine.execStsp d a b s
  | .ldx9 d a x e => Sys2Proof.Machine.execLdx9 d a x e s
  | .ldx27 d a x e => Sys2Proof.Machine.execLdx27 d a x e s
  | .ldxb8 d a x e => Sys2Proof.Machine.execLdxb8 d a x e s
  | .ldxb16 d a x e => Sys2Proof.Machine.execLdxb16 d a x e s
  | .ldxb32 d a x e => Sys2Proof.Machine.execLdxb32 d a x e s
  | .ldpk d a c x e => Sys2Proof.Machine.execLdpk d a c x e s
  | .ldwx9 d a c x e => Sys2Proof.Machine.execLdwx9 d a c x e s
  | .ldwx27 d a c x e => Sys2Proof.Machine.execLdwx27 d a c x e s
  | .ld27Rlx d a c x e => Sys2Proof.Machine.execLd27Rlx d a c x e s
  | .ld27Acq d a c x e => Sys2Proof.Machine.execLd27Acq d a c x e s
  | .stx9 a b x e => Sys2Proof.Machine.execStx9 a b x e s
  | .stx27 a b x e => Sys2Proof.Machine.execStx27 a b x e s
  | .stxb8 a b x e => Sys2Proof.Machine.execStxb8 a b x e s
  | .stxb16 a b x e => Sys2Proof.Machine.execStxb16 a b x e s
  | .stxb32 a b x e => Sys2Proof.Machine.execStxb32 a b x e s
  | .stpk a b c x e => Sys2Proof.Machine.execStpk a b c x e s
  | .st27Rlx a b c x e => Sys2Proof.Machine.execSt27Rlx a b c x e s
  | .st27Rel a b c x e => Sys2Proof.Machine.execSt27Rel a b c x e s
  | .atmAdd d a b c x e => Sys2Proof.Machine.execAtmAdd d a b c x e s
  | .atmAdds d a b c x e => Sys2Proof.Machine.execAtmAdds d a b c x e s
  | .atmMin d a b c x e => Sys2Proof.Machine.execAtmMin d a b c x e s
  | .atmMax d a b c x e => Sys2Proof.Machine.execAtmMax d a b c x e s
  | .atmTmin d a b c x e => Sys2Proof.Machine.execAtmTmin d a b c x e s
  | .atmTmax d a b c x e => Sys2Proof.Machine.execAtmTmax d a b c x e s
  | .atmSwap d a b c x e => Sys2Proof.Machine.execAtmSwap d a b c x e s
  | .atmCas d a b c x e => Sys2Proof.Machine.execAtmCas d a b c x e s
  | .atmFadd d a b c x e => Sys2Proof.Machine.execAtmFadd d a b c x e s
  | .mpass d a b => Sys2Proof.Machine.execMpass d a b s
  | .mpassx d a x e => Sys2Proof.Machine.execMpassx d a x e s
  | .mdrain d a b => Sys2Proof.Machine.execMdrain d a b s
  | .mdrainx d a x e => Sys2Proof.Machine.execMdrainx d a x e s
  | .mzero a b => Sys2Proof.Machine.execMzero a b s
  | .mpin d a => Sys2Proof.Machine.execMpin d a s
  | .munpin a => Sys2Proof.Machine.execMunpin a s
  | .cpy d a => Sys2Proof.Machine.execCpy d a s
  | .cpyx d x e => Sys2Proof.Machine.execCpyx d x e s
  | .nbinit a b => Sys2Proof.Machine.execNbinit a b s
  | .nbarr d a b => Sys2Proof.Machine.execNbarr d a b s
  | .nbarrx d a b c => Sys2Proof.Machine.execNbarrx d a b c s
  | .nbwait a b => Sys2Proof.Machine.execNbwait a b s
  | .nbwaitx a b c => Sys2Proof.Machine.execNbwaitx a b c s
  | .nbget d a => Sys2Proof.Machine.execNbget d a s
  | .fpush a b => Sys2Proof.Machine.execFpush a b s
  | .fpop d a => Sys2Proof.Machine.execFpop d a s
  | .pclr a b => Sys2Proof.Machine.execPclr a b s
  | .qpost d a => Sys2Proof.Machine.execQpost d a s
  | .qstat d a => Sys2Proof.Machine.execQstat d a s
  | .leave a => Sys2Proof.Machine.execLeave a s
  | .unleave => Sys2Proof.Machine.execUnleave s
  | .issueChoice core => Sys2Proof.Machine.execIssueChoice core s
  | .valueLanding core ctx id => Sys2Proof.Machine.execValueLanding core ctx id s
  | .itemMove core ctx slot => Sys2Proof.Machine.execItemMove core ctx slot s
  | .formerGroupIssue core build => Sys2Proof.Machine.execFormerGroupIssue core build s
  | .formerIssueTimeout core build => Sys2Proof.Machine.execFormerIssueTimeout core build s
  | .teamCast core entry => Sys2Proof.Machine.execTeamCast core entry s
  | .rangeMerge core family => Sys2Proof.Machine.execRangeMerge core family s
  | .teamDissolve team => Sys2Proof.Machine.execTeamDissolve team s
  | .drainingEnd core ctx => Sys2Proof.Machine.execDrainingEnd core ctx s
  | .teamRetire team => Sys2Proof.Machine.execTeamRetire team s
  | .launchCommand q => Sys2Proof.Machine.execLaunchCommand q s
  | .abort q => Sys2Proof.Machine.execAbort q s
  | .noOperation q => Sys2Proof.Machine.execNoOperation q s
  | .doorbell q v => Sys2Proof.Machine.execDoorbell q v s
  | .hqCtlWrite q v => Sys2Proof.Machine.execHqCtlWrite q v s
  | .hqPtailWrite q v => Sys2Proof.Machine.execHqPtailWrite q v s
  | .completionRecordWrite q => Sys2Proof.Machine.execCompletionRecordWrite q s
  | .eventRecordWrite => Sys2Proof.Machine.execEventRecordWrite s
  | .launchStart lid => Sys2Proof.Machine.execLaunchStart lid s
  | .coResidencyCast lid => Sys2Proof.Machine.execCoResidencyCast lid s
  | .launchComplete lid => Sys2Proof.Machine.execLaunchComplete lid s
  | .workPacket die => Sys2Proof.Machine.execWorkPacket die s
  | .mboxPacketArrival die => Sys2Proof.Machine.execMboxPacketArrival die s
  | .leaveGrant die => Sys2Proof.Machine.execLeaveGrant die s
  | .timeSliceExpiry die lid => Sys2Proof.Machine.execTimeSliceExpiry die lid s
  | .shareSave die lid => Sys2Proof.Machine.execShareSave die lid s
  | .shareRestore die lid => Sys2Proof.Machine.execShareRestore die lid s
  | .shadowSwap core => Sys2Proof.Machine.execShadowSwap core s
  | .shadowSwapBack core => Sys2Proof.Machine.execShadowSwapBack core s
  | .pageTableWalk die walk => Sys2Proof.Machine.execPageTableWalk die walk s
  | .invalidationByRange agent req => Sys2Proof.Machine.execInvalidationByRange agent req s
  | .drainedReport agent req => Sys2Proof.Machine.execDrainedReport agent req s
  | .bkModeloWrite core hi v => Sys2Proof.Machine.execBkModeloWrite core hi v s
  | .bankConversion core bank => Sys2Proof.Machine.execBankConversion core bank s
  | .waitingLoadRetry core ctx => Sys2Proof.Machine.execWaitingLoadRetry core ctx s
  | .fifoPushEntry cluster bank => Sys2Proof.Machine.execFifoPushEntry cluster bank s
  | .fifoPopRemove cluster bank => Sys2Proof.Machine.execFifoPopRemove cluster bank s
  | .scrubAtom st => Sys2Proof.Machine.execScrubAtom st s
  | .scrubLevelChange st => Sys2Proof.Machine.execScrubLevelChange st s
  | .scrubPeriodEnd st => Sys2Proof.Machine.execScrubPeriodEnd st s
  | .scCtlWrite st v => Sys2Proof.Machine.execScCtlWrite st v s
  | .scStatusWrite st v => Sys2Proof.Machine.execScStatusWrite st v s
  | .retraining st ch => Sys2Proof.Machine.execRetraining st ch s
  | .forcedRetraining st ch => Sys2Proof.Machine.execForcedRetraining st ch s
  | .miItabWrite j v => Sys2Proof.Machine.execMiItabWrite j v s
  | .miCtlLock v => Sys2Proof.Machine.execMiCtlLock v s
  | .queryAccept query => Sys2Proof.Machine.execQueryAccept query s
  | .expansion query => Sys2Proof.Machine.execExpansion query s
  | .searchProbe query node => Sys2Proof.Machine.execSearchProbe query node s
  | .queryCompletion query => Sys2Proof.Machine.execQueryCompletion query s
  | .matrixPass op => Sys2Proof.Machine.execMatrixPass op s
  | .drain op => Sys2Proof.Machine.execDrain op s
  | .blockCopy op => Sys2Proof.Machine.execBlockCopy op s
  | .copyIntoRegisters op => Sys2Proof.Machine.execCopyIntoRegisters op s
  | .trapEntry core ctx => Sys2Proof.Machine.execTrapEntry core ctx s
  | .rollback core ctx reg => Sys2Proof.Machine.execRollback core ctx reg s
  | .halt core ctx => Sys2Proof.Machine.execHalt core ctx s
  | .resume core ctx => Sys2Proof.Machine.execResume core ctx s
  | .step core ctx => Sys2Proof.Machine.execStep core ctx s
  | .readVectorLane core ctx lane reg => Sys2Proof.Machine.execReadVectorLane core ctx lane reg s
  | .readScalar core ctx reg => Sys2Proof.Machine.execReadScalar core ctx reg s
  | .readState core ctx => Sys2Proof.Machine.execReadState core ctx s
  | .friezeSample core => Sys2Proof.Machine.execFriezeSample core s
  | .causalTrialStart die v => Sys2Proof.Machine.execCausalTrialStart die v s
  | .causalTrialEnd die => Sys2Proof.Machine.execCausalTrialEnd die s
  | .ckLoRead core ctx => Sys2Proof.Machine.execCkLoRead core ctx s
  | .systemRegisterWrite core ctx n v => Sys2Proof.Machine.execSystemRegisterWrite core ctx n v s
  | .hostWrite addr l => Sys2Proof.Machine.execHostWrite addr l s
  | .hostRead addr => Sys2Proof.Machine.execHostRead addr s
  | .peerAccess port block w => Sys2Proof.Machine.execPeerAccess port block w s
  | .peerNegotiation port gen base count outBase outCount => Sys2Proof.Machine.execPeerNegotiation port gen base count outBase outCount s
  | .windowRegisterWrite r v => Sys2Proof.Machine.execWindowRegisterWrite r v s
  | .flitReceive tail l ok => Sys2Proof.Machine.execFlitReceive tail l ok s
  | .replay tail good => Sys2Proof.Machine.execReplay tail good s
  | .linkTraining link ga gb => Sys2Proof.Machine.execLinkTraining link ga gb s
  | .widthReduction die => Sys2Proof.Machine.execWidthReduction die s
  | .frequencyChange die => Sys2Proof.Machine.execFrequencyChange die s
  | .readShared m => Sys2Proof.Machine.execReadShared m s
  | .readOwned m => Sys2Proof.Machine.execReadOwned m s
  | .upgrade m => Sys2Proof.Machine.execUpgrade m s
  | .writeBack m => Sys2Proof.Machine.execWriteBack m s
  | .partialWrite m => Sys2Proof.Machine.execPartialWrite m s
  | .atomicRequest m => Sys2Proof.Machine.execAtomicRequest m s
  | .evictionNotice m => Sys2Proof.Machine.execEvictionNotice m s
  | .invalidate m => Sys2Proof.Machine.execInvalidate m s
  | .downgrade m => Sys2Proof.Machine.execDowngrade m s
  | .fetchAndInvalidate m => Sys2Proof.Machine.execFetchAndInvalidate m s
  | .data m => Sys2Proof.Machine.execData m s
  | .acknowledge m => Sys2Proof.Machine.execAcknowledge m s
  | .dataDirty m => Sys2Proof.Machine.execDataDirty m s
  | .acknowledgeAlreadyWrittenBack m => Sys2Proof.Machine.execAcknowledgeAlreadyWrittenBack m s
  | .errorResponse m => Sys2Proof.Machine.execErrorResponse m s
  | .mailboxPacket m => Sys2Proof.Machine.execMailboxPacket m s
  | .linkManagement m => Sys2Proof.Machine.execLinkManagement m s
  | .generation => Sys2Proof.Machine.execGeneration s
  | .loadKeySlot => Sys2Proof.Machine.execLoadKeySlot s
  | .clearKeySlot => Sys2Proof.Machine.execClearKeySlot s
  | .operatingPoint => Sys2Proof.Machine.execOperatingPoint s
  | .quote => Sys2Proof.Machine.execQuote s
  | .dieMap => Sys2Proof.Machine.execDieMap s
  | .imageUpload => Sys2Proof.Machine.execImageUpload s
  | .transportKey => Sys2Proof.Machine.execTransportKey s
  | .powerOn b => Sys2Proof.Machine.execPowerOn b s
  | .packageReset => Sys2Proof.Machine.execPackageReset s
  | .malformedCommand q => Sys2Proof.Machine.execMalformedCommand q s
  | .lgBudgetWrite die v => Sys2Proof.Machine.execLgBudgetWrite die v s
  | .peerPortDown port => Sys2Proof.Machine.execPeerPortDown port s

end Sys2Proof.Machine
end

