-- ==== Sys2Proof/Machine/Run.lean ====
section
/-! DEFINITION. The run of the bundle in the issue slot: its halves, and what the end of a bundle brings
(08 R195 to R206; 06 R157, R161; 09 R235; 12 R313, R314, R318, R326 to R330). -/

namespace Sys2Proof.Machine

open Sys2Proof

/-- Has the bundle in the slot been given up? -/
def isBroke (s : State) : Bool :=
  match s.issue with
  | some j => j.broke
  | none => false

/-- Is the context held at its bundle, which has not issued: stalled without a trap, or halted at a `bkpt` or a watchpoint? -/
def heldBack (s : State) (core : Nat) : Who → Bool
  | .range _ => false
  | .group c =>
    match getGroup s core c with
    | some g => (g.st == .stalled && g.raised.isNone) || (g.st == .halted && (g.haltCause == 1 || g.haltCause == 2))
    | none => false

/-- The halves of a pair: both read the registers as they were before it; what breaks one breaks both, the vector half's trap
first. A scalar half that breaks is run again without the vector half's effects. A watchpoint does not match in a bundle that
faults (R204, R330). -/
def runPair (v sc : Instr) (i : Issue) (s : State) : Host.Outcome State Fault Refusal :=
  match exec v s with
  | .next s1 =>
    if isBroke s1 then
      if heldBack s1 i.core i.who then
        match exec sc s with
        | .next s2 => if isBroke s2 && !heldBack s2 i.core i.who then .next s2 else .next s1
        | o => o
      else .next s1
    else
      match exec sc { s1 with issue := some { s1.issue.getD i with snap := some (whoRegs s i.core i.who) } } with
      | .next s2 =>
        if isBroke s2 then
          match exec sc { s with fresh := s1.fresh } with
          | .next s3 => if isBroke s3 then .next s3 else .next (breakIssue { s with fresh := s2.fresh } i)
          | o => o
        else .next s2
      | o => o
  | o => o

/-- A bundle's instructions. A `bkpt` halts before any effect of its bundle (R327). -/
def runBody (b : Body) (i : Issue) (s : State) : Host.Outcome State Fault Refusal :=
  match b with
  | .wide x => exec x s
  | .pair v (.bkpt a) =>
    match exec (.bkpt a) s with
    | .next s1 => if isBroke s1 then .next s1 else runPair v (.bkpt a) i s
    | o => o
  | .pair v sc => runPair v sc i s

/-! ## The end of a bundle -/

/-- A group whose active lanes have all exited in its handler, while others of its items wait, goes on with those: it returns
from the handler (R161, R318). -/
def abandonHandler (s : State) (core c : Nat) : State :=
  match getGroup s core c with
  | some g =>
    if g.r.tr.inHandler ∧ activeLanes g = [] ∧ g.mstack = [] ∧ g.items ≠ [] then
      updGroup (returnFromTrap s core c) core c settle
    else s
  | none => s

/-- A group's bundle has completed: its path, its restart address, then a trap after the bundle, the end of its items, or a
halt. A trap after a bundle of a handler is a double fault, `rft` in the same bundle notwithstanding (R157, R161, R235, R313, R319,
R326, R329). A group that the former issues early precedes that halt (R154, R399). -/
def endBundle (s : State) (j : Issue) (c : Nat) (g : Group) : State :=
  let g := settle g
  let g := if j.restart then setRestart g g.pc else g
  let s := setGroup s j.core c { g with exempt := if g.exempt = some j.pc then none else g.exempt, collect := none }
  let s := abandonHandler (issueEarly s j.core) j.core c
  match getGroup s j.core c with
  | none => s
  | some g =>
    if g.items = [] then checkDrain s j.core c
    else match j.after with
      | some t => if j.inHandler then doubleFault s j.core c t.cls t.pc else raiseTrap s j.core c { t with ret := g.pc }
      | none =>
        if g.raised.isSome ∨ g.st = .halted then s
        else if g.stepping then
          stepHalt s j.core c j.pc g
        else s

/-- A range's bundle has ended: casts and merges that have become possible, an entry that has become free. -/
def endRange (s0 s : State) (core e : Nat) : State :=
  match getRange s0 core e with
  | none => s
  | some q =>
    let s := offerMerge (offerCast s core) core q.family
    match getRange s core e with
    | some _ => s
    | none => checkPiece (pokeCoResident (entryFreed s core)) (dieOf core) q.lid

/-- The next partner enters the slot; after the last, the cycle ends, or the choice is made again where nothing issued
(R182, R183). -/
def nextInSlot (i : Issue) (issued : Bool) (s : State) : State :=
  let s := if issued then
      updCore s i.core fun c =>
        { c with cyc := { c.cyc with issued := i.who :: c.cyc.issued }, sinceRange := if inRange i then 0 else c.sinceRange }
    else s
  match i.partners with
  | p :: t =>
    { s with issue := some { core := i.core, who := .group p, pc := i.pc, packed := i.packed, partners := t } }
  | [] =>
    let s := { s with issue := none }
    if (getCore s i.core).cyc.issued = [] then choose s i.core else endCycle s i.core

/-- After the instructions of a bundle: `s0` is the state in which it entered the slot, `s` the one they have left. -/
def finish (i : Issue) (b : Option Body) (s0 s : State) : State :=
  let j := s.issue.getD i
  let s := { s with issue := none }
  if heldBack s i.core i.who && j.broke then
    let c0 := getCore s0 i.core
    nextInSlot i false (updCore s i.core fun c => { c with vlatch := c0.vlatch, slatch := c0.slatch, owner := c0.owner })
  else
    let s := trialIssue s i.core i.who (whoRegs s0 i.core i.who).super i.pc
    let s := match b with
      | some b => if j.broke then s else acceptWork s i.core (inRange i) b
      | none => s
    let s := match i.who with
      | .range e => endRange s0 s i.core e
      | .group c =>
        match getGroup s i.core c with
        | some g => if j.broke then s else endBundle s j c g
        | none => s
    nextInSlot i true s

/-- May the context still take the slot? A partner may have been halted in the meantime. -/
def slotReady (s : State) (i : Issue) : Bool :=
  match i.who with
  | .group c => match getGroup s i.core c with | some g => g.st == .ready && decide (g.pc = i.pc) | none => false
  | .range e => match getRange s i.core e with | some r => r.st == .running && decide (r.pc = i.pc) | none => false

/-- The slot's record when its bundle starts: the guard is tested (R197), and the context's address moves on (R195). -/
def startIssue (s : State) (i : Issue) (b : Bundle) : Issue :=
  { i with gmask := b.gmask, gtest := b.gtest, guard := guardLanes s i.core i.who b.gmask b.gtest
           inHandler := (whoRegs s i.core i.who).tr.inHandler }
def startState (s : State) (i : Issue) (b : Bundle) : State :=
  let s := claimLatches s i.core i.who i.packed
  setPc { s with issue := some (startIssue s i b) } i.core i.who (i.pc + 6)

/-- A bundle that does not decode raises the illegal-opcode trap (R206). -/
def runIllegal (i : Issue) (s : State) : State :=
  let j := { i with guard := whoActive s i.core i.who }
  let t := claimLatches s i.core i.who i.packed
  finish i none s (illegalOpcode { t with issue := some j } j)

/-- A decoded bundle. One that no item of a range's guard executes is skipped (R139). -/
def runBundle (b : Bundle) (i : Issue) (s : State) : Host.Outcome State Fault Refusal :=
  let t := startState s i b
  let j := startIssue (claimLatches s i.core i.who i.packed) i b
  if inRange i && j.guard.isEmpty then .next (finish i none s t)
  else match runBody b.body j t with
    | .next u => .next (finish i (some b.body) s u)
    | o => o

/-- The bundle in the issue slot. -/
def runIssue (i : Issue) (s : State) : Host.Outcome State Fault Refusal :=
  if !slotReady s i then .next (nextInSlot i false s)
  else match bundleFor s i.core i.who with
    | none => .next (nextInSlot i false s)
    | some x =>
      match decodeBundle x with
      | .error _ => .next (runIllegal i s)
      | .ok b => runBundle b i s

end Sys2Proof.Machine
end

