-- ==== Sys2Proof/Machine/Step.lean ====
section
/-! DEFINITION. One step of the package, and the placing of a bundle where the step takes its next instruction. -/

namespace Sys2Proof.Machine

open Sys2Proof

/-- One step: the bundle in the issue slot, where there is one; else one of the things that may happen next. -/
def step (s : State) : Host.Outcome State Fault Refusal :=
  match s.issue with
  | some i => runIssue i s
  | none =>
    match nextEvent s with
    | (some e, t) => runEvent e t
    | (none, t) => .next t

/-- Where a placed bundle stands: an address of the supervisor half (R42). -/
def placedPc : Int := -162
/-- The group that a placed bundle runs in: supervisor mode, width 9, every register full, nine items. -/
def placedGroup : Group :=
  { st := .ready, pc := placedPc, lid := 1, team := 1, width := 9, nf := 243, storage := 2187
    items := (List.range 9).map fun l => (l, { x := (l : Int), y := 0, z := 0 }), active := List.range 9, r := { super := true } }

/-- A bundle in the fetch buffer of core 0, and in its issue slot for the group in context 0: a launch, a team and a group are
placed there, as a launch places them. The bundle is given in packed bytes (R35). -/
def State.withFetchWord (s : State) (_nbits w : Nat) : State :=
  let s := setLaunch s 1 { addr := 0, source := .host 0 1, st := .running }
  let s := setTeam s 1 { core := 0, lid := 1, number := 1, size := 9, castGroups := 1 }
  let s := setGroup s 0 0 placedGroup
  let s := updCore s 0 fun c =>
    { c with fetch := [{ lid := 1, addr := placedPc, value := (bundleOfBits w).getD 0 }], cyc := { begun := true } }
  { s with issue := some { core := 0, who := .group 0, pc := placedPc } }

end Sys2Proof.Machine
end

