-- ==== Sys2Proof/Safety.lean ====
section
/-! DEFINITION. What counts as a safe run, and the terms in which claims speak of states: the canonical form of the tables,
the bundle that executes, what an instruction has done where it has done nothing else. -/

namespace Sys2Proof.Machine

open Sys2Proof

/-! ## Safe runs -/

/-- A step that goes on: neither a fault nor a refusal. A run is safe where every step goes on. -/
def GoesOn (o : Host.Outcome State Fault Refusal) : Prop := ∃ t, o = .next t

/-- The tables that stand in State itself are in canonical form: keys strictly rising and, where an unlisted key reads as a default, no
entry equal to it. Equal contents of one are then equal data. Tables inside a core, a cluster, a die or a stack are not spoken of. -/
def State.canon (s : State) : Bool :=
  msorted s.mem && msorted s.host && msorted s.late && mwf {} s.managers && mwf {} s.cores && mwf {} s.clusters && mwf {} s.dies &&
  mwf {} s.sbs && mwf {} s.links && msorted s.widths && mwf 0 s.itab && mwf {} s.ports && mwf {} s.keys &&
  mwf {} s.queues && msorted s.launches && msorted s.teams && msorted s.ops && msorted s.qrys && msorted s.invals

/-! ## The bundle that executes -/

/-- Does the context exist? -/
def State.holds (s : State) (core : Nat) : Who → Bool
  | .group c => (getGroup s core c).isSome
  | .range e => (getRange s core e).isSome

/-- A context is in the issue slot and its guard holds in some lane. -/
def Runs (s : State) (i : Issue) : Prop := s.issue = some i ∧ i.guard ≠ [] ∧ s.holds i.core i.who = true
/-- The same of a group. -/
def GroupRuns (s : State) (i : Issue) (c : Nat) (g : Group) : Prop :=
  s.issue = some i ∧ i.guard ≠ [] ∧ i.who = .group c ∧ getGroup s i.core c = some g
/-- The same of a range. -/
def RangeRuns (s : State) (i : Issue) (e : Nat) (q : Range) : Prop :=
  s.issue = some i ∧ i.guard ≠ [] ∧ i.who = .range e ∧ getRange s i.core e = some q

/-- Neither `grp`, `team` nor `lane` is read by a range: there it would cast. -/
def ReadsPlace (i : Issue) (l : List Opd) : Prop := inRange i = true → l.any sCasts = false

/-! ## What has been done, and nothing else -/

/-- `t` is `s` with the registers `r` in one context; beside them only a group's record of what it has written since its
restart address may differ. -/
def RegsBecome (s t : State) (core : Nat) (w : Who) (r : Regs) : Prop :=
  match w with
  | .group c => ∃ g rg, getGroup s core c = some g ∧ t = setGroup s core c { g with r := r, region := rg }
  | .range e => ∃ q, getRange s core e = some q ∧ t = setRange s core e { q with r := r }

/-- `t` is `s` with `v` shifted into the latches of a pipe: `l0` takes `v`, `l1` the old `l0`, `l2` the old `l1` (R203);
nothing where the bundle is packed. -/
def LatchTakes (s t : State) (i : Issue) (vector : Bool) (v : Int) : Prop :=
  if i.packed then t = s
  else ∃ l : List Int,
    let old := if vector then (getCore s i.core).vlatch else (getCore s i.core).slatch
    l.getD 0 0 = v ∧ l.getD 1 0 = old.getD 0 0 ∧ l.getD 2 0 = old.getD 1 0 ∧
    t = updCore s i.core fun c => if vector then { c with vlatch := l } else { c with slatch := l }

/-- `t` is `s` with one `s` register of the executing context written. -/
def SWritten (s t : State) (i : Issue) (n : Nat) (v : Int) : Prop :=
  ∃ m : SMap Int, RegsBecome s t i.core i.who { whoRegs s i.core i.who with s := m } ∧
    ∀ k, mget 0 m k = if k = n then v else mget 0 (whoRegs s i.core i.who).s k

/-- `t` is `s` with a scalar result at its destination. -/
def ScalarDone (s t : State) (i : Issue) (d : Dst) (v : Int) : Prop :=
  match d with
  | .reg n false => SWritten s t i n v
  | .reg n true => ∃ u, SWritten s u i n v ∧ LatchTakes u t i false v
  | .latchOnly => LatchTakes s t i false v

/-- `t` is `s` with one address register of the executing context written. -/
def AWritten (s t : State) (i : Issue) (n : Nat) (v : AReg) : Prop :=
  ∃ m : SMap AReg, RegsBecome s t i.core i.who { whoRegs s i.core i.who with a := m } ∧
    ∀ k, mget {} m k = if k = n then v else mget {} (whoRegs s i.core i.who).a k

/-- `t` is `s` with vector register `n` of a group written in the lanes of the guard: occupied lane `k` holds `res k`, the
others what they held; `fl` are the flags raised. -/
def VectorDone (s t : State) (i : Issue) (c : Nat) (g : Group) (n : Nat) (res : Nat → Int) (fl : Flags) : Prop :=
  ∃ (m : SMap VReg) (rg : List Reg),
    t = setGroup s i.core c { g with r := { g.r with v := m, sticky := g.r.sticky.or fl }, region := rg } ∧
    (∀ j, j ≠ n → mget (.u 0) m j = mget (.u 0) g.r.v j) ∧
    ∀ k, k < g.width → (mfind g.items k).isSome = true →
      laneVal (mget (.u 0) m n) g.items k =
        if k ∈ i.guard then res k else laneVal (mget (.u 0) g.r.v n) g.items k

/-- `t` is `s` with mask `n` of a group written in the lanes of the guard. -/
def MaskDone (s t : State) (i : Issue) (c : Nat) (g : Group) (n : Nat) (res : Nat → Int) : Prop :=
  ∃ (m : SMap KReg) (rg : List Reg),
    t = setGroup s i.core c { g with r := { g.r with k := m }, region := rg } ∧
    (∀ j, j ≠ n → mget (.u 0) m j = mget (.u 0) g.r.k j) ∧
    ∀ k, k < g.width → maskTrit { g.r with k := m } n k = if k ∈ i.guard then res k else maskTrit g.r n k

/-- May the group write the register in every form? Outside a handler, or where the register was in form F at trap entry
(R317). -/
def WriteFree (g : Group) (n : Nat) : Prop :=
  g.r.tr.inHandler = false ∨ ∃ k, g.kept = some k ∧ mget 0 k.forms n = 2

/-- The lane's values of the sources. -/
def laneVals (s : State) (i : Issue) (g : Group) (ops : List Opd) (k : Nat) : List Int :=
  ops.map fun o => laneVal (vsrc s i g.width o) g.items k

/-- `t` is `s` with the flags raised in the executing context. -/
def FlagsDone (s t : State) (i : Issue) (fl : Flags) : Prop :=
  if fl = Flags.none then t = s
  else RegsBecome s t i.core i.who
    { whoRegs s i.core i.who with sticky := (whoRegs s i.core i.who).sticky.or fl }

/-- The bundle has been given up and its range casts at it: nothing else has changed (R139). -/
def Casts (s t : State) (i : Issue) (e : Nat) (q : Range) : Prop :=
  t = setRange { s with issue := some { i with broke := true } } i.core e
    { q with pc := i.pc, st := .casting, castAt := (getDie s (dieOf i.core)).cycle }

/-- A trap of the bundle's group has been raised: the bundle is given up, and the trap stands at it (R204, R313). -/
def Traps (s t : State) (i : Issue) (c cls : Nat) (lanes : List LaneEntry) : Prop :=
  t = raiseTrap (setPc { s with issue := some { i with broke := true } } i.core (.group c) i.pc) i.core c
    { cls := cls, detail := 0, lanes := lanes, pc := i.pc, ret := i.pc }

end Sys2Proof.Machine
end

