-- ==== Sys2Proof/Certificates/Slice0/Obligations.lean ====
section
/-! DEFINITION. The claims, each a proposition about the model, with the tables that say which function the spec gives an
instruction. Nothing here is proved. -/

open Sys2Proof Sys2Proof.Machine

namespace Sys2Proof.Claims

/-- A function of one, two or three source values. -/
def on1 {α : Type} (f : Int → α) (z : α) : List Int → α
  | [a] => f a
  | _ => z
def on2 {α : Type} (f : Int → Int → α) (z : α) : List Int → α
  | [a, b] => f a b
  | _ => z
def on3 {α : Type} (f : Int → Int → Int → α) (z : α) : List Int → α
  | [a, b, c] => f a b c
  | _ => z

/-- Does a field of `n` trits hold the value? -/
def InTrits (n : Nat) (x : Int) : Prop := -half n ≤ x ∧ x ≤ half n

/-- The shapes of encodings (R199, R200). -/
def isVectorHalf (x : Instr) : Bool := match x.raw with | some (.half true ..) => true | _ => false
def isScalarHalf (x : Instr) : Bool := match x.raw with | some (.half false ..) => true | _ => false
def isWide (x : Instr) : Bool :=
  match x.raw with
  | some (.wi ..) => true
  | some (.wb ..) => true
  | some (.wr ..) => true
  | _ => false

/-- A bundle that the encoding admits: a mask and a test of R197, no mask with test 0, halves or a wide instruction of the
right shape with admitted operands, and no destination named twice (R206). -/
def Admitted (b : Bundle) : Prop :=
  b.gmask ≤ 8 ∧ -4 ≤ b.gtest ∧ b.gtest ≤ 4 ∧ (b.gtest = 0 → b.gmask = 4) ∧
  match b.body with
  | .wide x => isWide x = true ∧ x.wf = true
  | .pair v s => isVectorHalf v = true ∧ isScalarHalf s = true ∧ v.wf = true ∧ s.wf = true ∧
      ∀ r ∈ v.dests, r ∉ s.dests

/-- The stall reason of a group is `n`, where nothing earlier in the order of R185 holds it. -/
def Reports (h : Group) (n : Nat) : Prop :=
  h.raised = none → h.rolling = false → h.stopped = false → h.displaced = false → reasonOf h = n
/-- `t` is `s` with the bundle given up and its group waiting at it for `w`, with the stall reason `n`; nothing else has changed. -/
def Waits (s t : State) (i : Issue) (c : Nat) (g : Group) (w : Wait) (n : Nat) : Prop :=
  let h := { g with pc := i.pc, st := .stalled, wait := some w }
  t = setGroup { s with issue := some { i with broke := true } } i.core c h ∧
  Reports h n

end Sys2Proof.Claims

open Sys2Proof.Claims

/-! ## Encodings -/

/-- The spec's worked encodings, as the nonets it prints (08 "A worked encoding", 09, 10 and 11 likewise): a guarded pair, an
acquire load, a three-way branch, a matrix pass. -/
def Obligations.WorkedBundlesDecode : Prop :=
  decodeBundle (bundleOfNonets [-3273, -8787, 6563, -8912, 1122, -4131]) =
      .ok { gmask := 2, gtest := 1
            body := .pair (.addVector (.reg 3 false) (.shared 84) (.imm (-5)))
              (.addScalar (.reg 4 true) (.reg 4) (.shared 0)) } ∧
  decodeBundle (bundleOfNonets [36, -8019, 2906, -8991, -9793, 33]) =
      .ok { gmask := 4, gtest := 0, body := .wide (.ld27Acq 5 (.reg 3) 80 2 4) } ∧
  decodeBundle (bundleOfNonets [108, 1701, 0, 1, -9828, 29]) =
      .ok { gmask := 4, gtest := 0, body := .wide (.br3 1 3 7 12) } ∧
  decodeBundle (bundleOfNonets [315, -9004, 203, 0, 0, 0]) =
      .ok { gmask := 4, gtest := 0, body := .pair .nopVector (.mpass (some 3) 1 3) }

/-- Decoding is the inverse of encoding on every admitted bundle: no trit of an encoding is dropped, and every operand
comes back at every value the encoding admits. -/
def Obligations.DecodeOfEncode : Prop :=
  ∀ b : Bundle, Admitted b → ∃ x, encodeBundle b = some x ∧ InTrits 54 x ∧ decodeBundle x = .ok b

/-- What decodes is admitted, and it is the only word of its bundle. -/
def Obligations.EncodeOfDecode : Prop :=
  ∀ (x : Int) (b : Bundle), InTrits 54 x → decodeBundle x = .ok b → Admitted b ∧ encodeBundle b = some x

/-- Packing at the shell loses nothing: 27 nonets go to 49 bytes whose codes the shell accepts, and come back (R35 to
R37). -/
def Sys2Proof.Claims.PackedBlocksComeBack : Prop :=
  ∀ l : List Int, l.length = 27 → (∀ x ∈ l, InTrits 9 x) →
    (packBlock l).length = 49 ∧ codesOk (packBlock l) = true ∧ unpackBlock (packBlock l) = some l

/-! ## One step -/

/-- A step at a filled issue slot runs the bundle that stands at the context's address: its guard is tested, the address
moves on by six nonets, the latches change hands, and its instructions are executed; then the bundle ends. Where the
bundle does not decode, the illegal-opcode trap is raised in its place. -/
def Obligations.StepRunsTheDecodedBundle : Prop :=
  ∀ (s : State) (i : Issue) (x : Int), s.issue = some i → slotReady s i = true → bundleFor s i.core i.who = some x →
    (∀ b, decodeBundle x = .ok b →
      let t := startState s i b
      let j := startIssue (claimLatches s i.core i.who i.packed) i b
      t.issue = some j ∧
      j.guard = (whoActive s i.core i.who).filter
        (fun l => guardTest b.gtest (maskTrit (whoRegs s i.core i.who) b.gmask l)) ∧
      whoPc t i.core i.who = i.pc + 6 ∧
      (inRange i = true → j.guard = [] → step s = .next (finish i none s t)) ∧
      (inRange i = false ∨ j.guard ≠ [] →
        (∀ y u, b.body = .wide y → exec y t = .next u → step s = .next (finish i (some b.body) s u)) ∧
        (∀ v y u w, b.body = .pair v y → (∀ n, y ≠ .bkpt n) → exec v t = .next u → isBroke u = false →
          exec y { u with issue := some { u.issue.getD j with snap := some (whoRegs t j.core j.who) } } = .next w →
          isBroke w = false → step s = .next (finish i (some b.body) s w)))) ∧
    (∀ e, decodeBundle x = .error e → step s = .next (runIllegal i s))

/-- No step stops: every state has a next state, so every run is safe. -/
def Obligations.EveryStepGoesOn : Prop := ∀ s : State, GoesOn (step s)

/-- After reset the tables that stand in State itself are in canonical form. -/
def Obligations.ResetIsCanonical : Prop := State.reset.canon = true

/-- Every step keeps in canonical form the tables that stand in State itself: memory, host memory, the earlier writes kept, and those of
cores, clusters, dies, stacks, link ends, link managers, channel widths, the interleave table, peers, keys, queues, launches, teams,
operations, queries and invalidations. Of the tables inside a core, a cluster, a die or a stack it says nothing. -/
def Obligations.StepKeepsCanonical : Prop :=
  ∀ s t : State, s.canon = true → step s = .next t → t.canon = true

/-! ## Numbers -/

/-- `wrap(n, x)` is the one value of `n` trits congruent to `x` modulo `3^n`; `sat(n, x)` is the value of `n` trits nearest to
`x` (R9, R12, R14). -/
def Obligations.WrapAndSaturate : Prop :=
  ∀ (n : Nat) (x : Int),
    (InTrits n (wrap n x) ∧ (3 : Int) ^ n ∣ x - wrap n x ∧
      ∀ y, InTrits n y → (3 : Int) ^ n ∣ x - y → y = wrap n x) ∧
    (InTrits n x → sat n x = x) ∧ (half n < x → sat n x = half n) ∧ (x < -half n → sat n x = -half n)

/-- Division of R16: the nearest quotient, a remainder of at most half the divisor, a tie with the remainder's sign that of
the dividend, and 0 with the dividend as remainder where the divisor is 0. The instructions write the quotient and the
remainder, whatever the divisor: no fault is raised and no flag is set. -/
def Obligations.NearestDivision : Prop :=
  (∀ a b : Int,
    (b ≠ 0 → a = divq a b * b + remq a b ∧ 2 * (remq a b).natAbs ≤ b.natAbs ∧
      (2 * (remq a b).natAbs = b.natAbs → 0 < remq a b * a)) ∧
    divq a 0 = 0 ∧ remq a 0 = a) ∧
  ∀ (s : State) (i : Issue) (d : Dst) (x y : Opd), Runs s i → ReadsPlace i [x, y] →
    (∃ t, exec (.divScalar d x y) s = .next t ∧ ScalarDone s t i d (divq (ssrc s i x) (ssrc s i y))) ∧
    ∃ t, exec (.remScalar d x y) s = .next t ∧ ScalarDone s t i d (remq (ssrc s i x) (ssrc s i y))

/-- The tritwise operations of R17, trit by trit. -/
def Sys2Proof.Claims.TritwiseOperations : Prop :=
  ∀ (a b : Int) (j : Nat), j < 27 →
    trit (tmin a b) j = min (trit a j) (trit b j) ∧ trit (tmax a b) j = max (trit a j) (trit b j) ∧
    trit (-a) j = -trit a j ∧ trit (tsum a b) j = wrap 1 (trit a j + trit b j) ∧
    trit (tmul a b) j = trit a j * trit b j

/-- The trit shift of R15 at width 27 on a word: a left shift wraps, a right shift rounds to the nearest integer and never
meets a tie, a shift by 27 or more gives 0 (R218). -/
def Sys2Proof.Claims.TritShift : Prop :=
  ∀ a b : Int, InTrits 27 a →
    (0 ≤ b → b < 27 → shift a b = wrap 27 (a * 3 ^ b.toNat)) ∧
    (b ≤ 0 → -27 < b → 2 * (a - shift a b * 3 ^ (-b).toNat).natAbs < 3 ^ (-b).toNat) ∧
    (27 ≤ b ∨ b ≤ -27 → shift a b = 0)

/-- Tritwise operations and the trit shift (R15, R17, R218). -/
def Obligations.TritOperations : Prop := TritwiseOperations ∧ TritShift

/-- A value and its nonets: the fields of a value of `9 n` trits, the first that of trits 8 to 0, give it back (R13). -/
def Sys2Proof.Claims.NonetsComeBack : Prop :=
  ∀ (n : Nat) (x : Int), InTrits (9 * n) x →
    ofNonets (toNonets n x) = x ∧ (toNonets n x).length = n ∧
    ∀ j, j < n → (toNonets n x).getD j 0 = trits x (9 * j + 8) (9 * j)

/-- Values come back from nonets, and blocks from the codes of the shell (R13, R35 to R37). -/
def Obligations.PackingComesBack : Prop := PackedBlocksComeBack ∧ NonetsComeBack

/-! ## Scalar instructions -/

namespace Sys2Proof.Claims

/-- What each arithmetic instruction of the scalar pipe leaves in its destination, of its sources' values (R217, R218); those
without sources, and of one source, take 0 for the rest (R221). -/
def scalarLaw : Instr → Option (Dst × List Opd × (List Int → Int))
  | .addScalar d a b => some (d, [a, b], on2 (fun a b => wrap 27 (a + b)) 0)
  | .subScalar d a b => some (d, [a, b], on2 (fun a b => wrap 27 (a - b)) 0)
  | .mulScalar d a b => some (d, [a, b], on2 (fun a b => wrap 27 (a * b)) 0)
  | .mulhScalar d a b => some (d, [a, b], on2 (fun a b => (a * b - wrap 27 (a * b)) / 3 ^ 27) 0)
  | .divScalar d a b => some (d, [a, b], on2 divq 0)
  | .remScalar d a b => some (d, [a, b], on2 remq 0)
  | .addsScalar d a b => some (d, [a, b], on2 (fun a b => sat 27 (a + b)) 0)
  | .subsScalar d a b => some (d, [a, b], on2 (fun a b => sat 27 (a - b)) 0)
  | .mulsScalar d a b => some (d, [a, b], on2 (fun a b => sat 27 (a * b)) 0)
  | .minScalar d a b => some (d, [a, b], on2 min 0)
  | .maxScalar d a b => some (d, [a, b], on2 max 0)
  | .satnScalar d a b =>
    some (d, [a, b], on2 (fun a b => if b ≤ 0 then 0 else if 27 ≤ b then a else sat b.toNat a) 0)
  | .wrapnScalar d a b =>
    some (d, [a, b], on2 (fun a b => if b ≤ 0 then 0 else if 27 ≤ b then a else wrap b.toNat a) 0)
  | .tminScalar d a b => some (d, [a, b], on2 tmin 0)
  | .tmaxScalar d a b => some (d, [a, b], on2 tmax 0)
  | .negScalar d a => some (d, [a], on1 (fun a => -a) 0)
  | .tsumScalar d a b => some (d, [a, b], on2 tsum 0)
  | .tmulScalar d a b => some (d, [a, b], on2 tmul 0)
  | .absScalar d a => some (d, [a], on1 (fun a => if a < 0 then -a else a) 0)
  | .shScalar d a b => some (d, [a, b], on2 shift 0)
  | .shsScalar d a b => some (d, [a, b], on2 (fun a b => if 0 < b then sat 27 (a * 3 ^ b.toNat) else shift a b) 0)
  | .cmpScalar d a b => some (d, [a, b], on2 (fun a b => if a < b then -1 else if a = b then 0 else 1) 0)
  | .movScalar (.s d) a => some (d, [a], on1 id 0)
  | .li d m => some (d, [], fun _ => m)
  | _ => none

end Sys2Proof.Claims

/-- Every scalar arithmetic instruction, shift, compare, immediate, and `mov` to an `s` register completes, in a group and
in a range, with the result of R217, R218, R219 or R221 at its destination, register or latches (R203); nothing else of the
package changes: no flag, no other register, no memory. -/
def Sys2Proof.Claims.ScalarTable : Prop :=
  ∀ (x : Instr) (d : Dst) (ops : List Opd) (f : List Int → Int) (s : State) (i : Issue),
    scalarLaw x = some (d, ops, f) → Runs s i → ReadsPlace i ops →
    ∃ t, exec x s = .next t ∧ ScalarDone s t i d (f (ops.map (ssrc s i)))

/-- `mov` to a mask register gives every lane the sign of the value, and to a format register the value itself, which the
format check of R24 must admit; a value it does not admit raises the format trap, class 3 (R219). `ext` reads the facts of
R220. -/
def Sys2Proof.Claims.MovAndExt : Prop :=
  ∀ (s : State) (i : Issue) (a : Opd), Runs s i →
    (ReadsPlace i [a] →
      (∀ n, n ≠ 0 → ∃ t m, exec (.movScalar (.k n) a) s = .next t ∧
        RegsBecome s t i.core i.who { whoRegs s i.core i.who with k := m } ∧
        (∀ j, j ≠ n → mget (.u 0) m j = mget (.u 0) (whoRegs s i.core i.who).k j) ∧
        ∀ l, maskTrit { whoRegs s i.core i.who with k := m } n l = sgnv (ssrc s i a)) ∧
      (∀ n, (ffmtOf (ssrc s i a)).isSome = true → ∃ t m, exec (.movScalar (.fm n) a) s = .next t ∧
        RegsBecome s t i.core i.who { whoRegs s i.core i.who with fm := m } ∧
        ∀ j, mget 0 m j = if j = n then ssrc s i a else mget 0 (whoRegs s i.core i.who).fm j) ∧
      (∀ n c g, GroupRuns s i c g → ffmtOf (ssrc s i a) = none →
        ∃ t, exec (.movScalar (.fm n) a) s = .next t ∧ Traps s t i c 3 (plainLanes (activeLanes g)))) ∧
    (∀ d n, 0 ≤ n → n ≤ 6 → ∃ t, exec (.ext d n) s = .next t ∧
      ScalarDone s t i d (match n with
        | 0 => (launchTcb s (whoLid s i.core i.who)).nx
        | 1 => (launchTcb s (whoLid s i.core i.who)).ny
        | 2 => (launchTcb s (whoLid s i.core i.who)).nz
        | 3 => (launchHdr s (whoLid s i.core i.who)).T
        | 4 => (launchHdr s (whoLid s i.core i.who)).w
        | 5 => liveCoreCount s (dieOf i.core)
        | _ => (liveDieList s).length))

/-- The scalar instructions of blocks 0 and 1, `mov`, `ext` and `li` (R217 to R221); the scalar `nop` does nothing. -/
def Obligations.ScalarResult : Prop :=
  ScalarTable ∧ MovAndExt ∧ ∀ (s : State) (i : Issue), Runs s i → exec .nopScalar s = .next s

/-- The address-register instructions of R221 to R223 complete with the register that the spec gives and touch nothing else;
`aadv` outside base to limit + 1 raises the translation fault with cause bounds in every active lane (R46), and `aperm` with
a trit of - the illegal-form trap. -/
def Obligations.AddressRegisterResult : Prop :=
  ∀ (s : State) (i : Issue) (d : Nat) (a b : Opd), Runs s i →
    (∀ m, ∃ t, exec (.ali d m) s = .next t ∧
      AWritten s t i d { getA s i d with ptr := m, base := m, limit := m }) ∧
    (∀ n, ∃ t, exec (.amov d n) s = .next t ∧ AWritten s t i d (getA s i n)) ∧
    (ReadsPlace i [b] →
      let p := (getA s i d).ptr + ssrc s i b
      ((getA s i d).base ≤ p → p ≤ (getA s i d).limit + 1 → outOfSpace p = false →
        ∃ t, exec (.aadv d b) s = .next t ∧ AWritten s t i d { getA s i d with ptr := p }) ∧
      (∀ c g, GroupRuns s i c g → p < (getA s i d).base ∨ (getA s i d).limit + 1 < p →
        ∃ t, exec (.aadv d b) s = .next t ∧ Traps s t i c 5
          ((activeLanes g).map fun l => { slot := l, addr := p, cause := 1, level := 3 }))) ∧
    (ReadsPlace i [a, b] →
      (∃ t, exec (.awin d a b) s = .next t ∧ AWritten s t i d
        { getA s i d with base := sat 36 ((getA s i d).ptr + ssrc s i a)
                          limit := sat 36 ((getA s i d).ptr + ssrc s i b) }) ∧
      (∃ t, exec (.acat d a b) s = .next t ∧
        let p := ssrc s i a + 3 ^ 27 * trits (ssrc s i b) 8 0
        AWritten s t i d { getA s i d with ptr := p, base := p, limit := p })) ∧
    (ReadsPlace i [a] →
      ((∀ j, j < 5 → trit (ssrc s i a) j ≠ -1) → ∃ t v, exec (.aperm d a) s = .next t ∧ AWritten s t i d v ∧
        v.ptr = (getA s i d).ptr ∧ v.base = (getA s i d).base ∧ v.limit = (getA s i d).limit ∧
        permTrits v = trits (ssrc s i a) 4 0) ∧
      (∀ c g j, GroupRuns s i c g → j < 5 → trit (ssrc s i a) j = -1 →
        ∃ t, exec (.aperm d a) s = .next t ∧ Traps s t i c 2 (plainLanes (activeLanes g)))) ∧
    (∀ n k dst, 0 ≤ k → k ≤ 4 → ∃ t, exec (.aget dst n k) s = .next t ∧
      ScalarDone s t i dst (match k with
        | 0 => trits (getA s i n).ptr 26 0
        | 1 => trits (getA s i n).ptr 35 27
        | 2 => sat 27 ((getA s i n).ptr - (getA s i n).base)
        | 3 => sat 27 ((getA s i n).limit - (getA s i n).ptr)
        | _ => permTrits (getA s i n)))

/-! ## Vector arithmetic -/

namespace Sys2Proof.Claims

/-- An integer function, and a function on T27 values, of the values of one lane. -/
def int1 (f : Int → Int) : List Int → Int × Flags := on1 (fun a => (f a, Flags.none)) (0, Flags.none)
def int2 (f : Int → Int → Int) : List Int → Int × Flags := on2 (fun a b => (f a b, Flags.none)) (0, Flags.none)
def int3 (f : Int → Int → Int → Int) : List Int → Int × Flags :=
  on3 (fun a b c => (f a b c, Flags.none)) (0, Flags.none)
def flt1 (f : FVal → FRes) : List Int → Int × Flags := on1 (fun a => fres (f (t27 a))) (0, Flags.none)
def flt2 (f : FVal → FVal → FRes) : List Int → Int × Flags :=
  on2 (fun a b => fres (f (t27 a) (t27 b))) (0, Flags.none)
def flt3 (f : FVal → FVal → FVal → FRes) : List Int → Int × Flags :=
  on3 (fun a b c => fres (f (t27 a) (t27 b) (t27 c))) (0, Flags.none)

/-- The destination, the sources and the function of a lane's values of each vector arithmetic instruction (R221, R251, R253
to R255), with the flags it raises. -/
def vectorLaw : Instr → Option (Dst × List Opd × (List Int → Int × Flags))
  | .addVector d a b => some (d, [a, b], int2 fun a b => wrap 27 (a + b))
  | .subVector d a b => some (d, [a, b], int2 fun a b => wrap 27 (a - b))
  | .mulVector d a b => some (d, [a, b], int2 fun a b => wrap 27 (a * b))
  | .mulhVector d a b => some (d, [a, b], int2 fun a b => (a * b - wrap 27 (a * b)) / 3 ^ 27)
  | .divVector d a b => some (d, [a, b], int2 divq)
  | .remVector d a b => some (d, [a, b], int2 remq)
  | .addsVector d a b => some (d, [a, b], int2 fun a b => sat 27 (a + b))
  | .subsVector d a b => some (d, [a, b], int2 fun a b => sat 27 (a - b))
  | .mulsVector d a b => some (d, [a, b], int2 fun a b => sat 27 (a * b))
  | .minVector d a b => some (d, [a, b], int2 min)
  | .maxVector d a b => some (d, [a, b], int2 max)
  | .satnVector d a b =>
    some (d, [a, b], int2 fun a b => if b ≤ 0 then 0 else if 27 ≤ b then a else sat b.toNat a)
  | .wrapnVector d a b =>
    some (d, [a, b], int2 fun a b => if b ≤ 0 then 0 else if 27 ≤ b then a else wrap b.toNat a)
  | .tminVector d a b => some (d, [a, b], int2 tmin)
  | .tmaxVector d a b => some (d, [a, b], int2 tmax)
  | .negVector d a => some (d, [a], int1 fun a => wrap 27 (-a))
  | .tsumVector d a b => some (d, [a, b], int2 tsum)
  | .tmulVector d a b => some (d, [a, b], int2 tmul)
  | .absVector d a => some (d, [a], int1 fun a => if a < 0 then -a else a)
  | .shVector d a b => some (d, [a, b], int2 shift)
  | .shsVector d a b => some (d, [a, b], int2 fun a b => if 0 < b then sat 27 (a * 3 ^ b.toNat) else shift a b)
  | .movVector d a => some (d, [a], int1 id)
  | .sgn d a => some (d, [a], int1 fun a => if a < 0 then -1 else if a = 0 then 0 else 1)
  | .liv d m => some (d, [], fun _ => (m, Flags.none))
  | .armx (.reg n l) m => some (.reg n l, [.reg n, .shared 84], int2 fun v x => wrap 27 (v + m * x))
  | .army (.reg n l) m => some (.reg n l, [.reg n, .shared 85], int2 fun v y => wrap 27 (v + m * y))
  | .armz (.reg n l) m => some (.reg n l, [.reg n, .shared 86], int2 fun v z => wrap 27 (v + m * z))
  | .mad d a b c => some (d, [a, b, c], int3 fun a b c => wrap 27 (a * b + c))
  | .mads d a b c => some (d, [a, b, c], int3 fun a b c => sat 27 (a * b + c))
  | .clamp d a b c => some (d, [a, b, c], int3 fun a b c => min (max a b) c)
  | .fadd d a b => some (d, [a, b], flt2 (faddV fmtT27))
  | .fsub d a b => some (d, [a, b], flt2 fun a b => faddV fmtT27 a (fvNeg b))
  | .fmul d a b => some (d, [a, b], flt2 t27Mul)
  | .fdiv d a b => some (d, [a, b], flt2 (fdivV fmtT27))
  | .fsqrt d a => some (d, [a], flt1 (fsqrtV fmtT27))
  | .fmin d a b => some (d, [a, b], flt2 fun a b => fput fmtT27 (fminV a b))
  | .fmax d a b => some (d, [a, b], flt2 fun a b => fput fmtT27 (fmaxV a b))
  | .fneg d a => some (d, [a], flt1 fun a => fput fmtT27 (fvNeg a))
  | .fabs d a => some (d, [a], flt1 fun a => fput fmtT27 (fvAbs a))
  | .fscl d a b => some (d, [a, b], on2 (fun a b => fres (fsclV fmtT27 (t27 a) b)) (0, Flags.none))
  | .fint d a => some (d, [a], flt1 (fintV fmtT27))
  | .fexp d a => some (d, [a], flt1 (ftrans fmtT27 .exp))
  | .fexp3 d a => some (d, [a], flt1 (ftrans fmtT27 .exp3))
  | .flog d a => some (d, [a], flt1 (ftrans fmtT27 .log))
  | .flog3 d a => some (d, [a], flt1 (ftrans fmtT27 .log3))
  | .frcp d a => some (d, [a], flt1 (fdivV fmtT27 (.fin 1 0)))
  | .frsqrt d a => some (d, [a], flt1 (ftrans fmtT27 .rsqrt))
  | .fsin d a => some (d, [a], flt1 (ftrans fmtT27 .sin))
  | .fcos d a => some (d, [a], flt1 (ftrans fmtT27 .cos))
  | .ftanh d a => some (d, [a], flt1 (ftrans fmtT27 .tanh))
  | .fma d a b c => some (d, [a, b, c], flt3 (fmaV fmtT27))
  | .fms d a b c => some (d, [a, b, c], flt3 fun a b c => fmaV fmtT27 a b (fvNeg c))
  | .fnma d a b c => some (d, [a, b, c], flt3 fun a b c => fmaV fmtT27 (fvNeg a) b c)
  | .fclamp d a b c => some (d, [a, b, c], flt3 fun a b c => fput fmtT27 (fminV (fmaxV a b) c))
  | _ => none

/-- Are all the sources uniform, for a group or (with width 0) for a range? -/
def AllUniform (s : State) (i : Issue) (w : Nat) (ops : List Opd) : Prop :=
  ∀ o ∈ ops, isU (vsrc s i w o) = true

end Sys2Proof.Claims

/-- Every vector arithmetic instruction completes in a group with, in each occupied lane of the guard, the function of that
lane's values that the spec gives, whatever the forms of its sources (R134, R135); the other lanes, the other registers and
the rest of the package stay as they were, but for the flags that its lanes raise (R28). The register must admit form F, or
the write must cover the group with uniform sources (R136, R198). -/
def Sys2Proof.Claims.VectorInGroup : Prop :=
  ∀ (x : Instr) (n : Nat) (ops : List Opd) (f : List Int → Int × Flags) (s : State) (i : Issue) (c : Nat) (g : Group),
    vectorLaw x = some (.reg n false, ops, f) → GroupRuns s i c g → WriteFree g n →
    (n < g.nf ∨ covers g i = true ∧ AllUniform s i g.width ops) →
    ∃ t, exec x s = .next t ∧
      VectorDone s t i c g n (fun k => (f (laneVals s i g ops k)).1)
        (allFlags (i.guard.map fun k => (f (laneVals s i g ops k)).2))

/-- With uniform sources and a write that covers the group, the result enters the vector pipe's latches too, or them alone,
where the mode asks for it (R203). -/
def Sys2Proof.Claims.VectorIntoLatches : Prop :=
  ∀ (x : Instr) (d : Dst) (ops : List Opd) (f : List Int → Int × Flags) (s : State) (i : Issue) (c : Nat) (g : Group),
    vectorLaw x = some (d, ops, f) → GroupRuns s i c g → covers g i = true → AllUniform s i g.width ops →
    let r := f (ops.map fun o => uVal (vsrc s i g.width o))
    (d = .latchOnly → ∃ t u, exec x s = .next t ∧ FlagsDone s u i r.2 ∧ LatchTakes u t i true r.1) ∧
    ∀ n, d = .reg n true → WriteFree g n →
      ∃ t u, exec x s = .next t ∧ VectorDone s u i c g n (fun _ => r.1) r.2 ∧ LatchTakes u t i true r.1

/-- Vector instructions in a group, into registers and into latches (R198, R203, R251 to R253). -/
def Obligations.VectorResult : Prop := VectorInGroup ∧ VectorIntoLatches

/-- In a range, a vector arithmetic instruction of uniform sources completes with a uniform result, and nothing else changes
(R135, R139). -/
def Obligations.RangeVectorResult : Prop :=
  ∀ (x : Instr) (n : Nat) (ops : List Opd) (f : List Int → Int × Flags) (s : State) (i : Issue) (e : Nat) (q : Range),
    vectorLaw x = some (.reg n false, ops, f) → RangeRuns s i e q → ops.any vCasts = false → AllUniform s i 0 ops →
    let r := f (ops.map fun o => uVal (vsrc s i 0 o))
    ∃ t m, exec x s = .next t ∧
      t = setRange s i.core e { q with r := { q.r with v := m, sticky := q.r.sticky.or r.2 } } ∧
      ∀ j, mget (.u 0) m j = if j = n then .u r.1 else mget (.u 0) q.r.v j

/-- Sums, differences, negations, products and left shifts by a uniform value, and moves of uniform and armature sources give
an armature, in a range and, where the write covers it, in a group of any register count: base and strides are combined and
wrapped, and an armature without strides is uniform (R134, R135). -/
def Obligations.ArmatureResult : Prop :=
  ∀ (s : State) (i : Issue) (n : Nat) (a b : Opd) (p q : Int × Int × Int × Int) (m : Int), Runs s i →
    (inRange i = true → [a, b].any vCasts = false) →
    (∀ c, i.who = .group c → ∃ g, getGroup s i.core c = some g ∧ covers g i = true ∧ WriteFree g n) →
    let w := match i.who with
      | .group c => match getGroup s i.core c with | some g => g.width | none => 0
      | .range _ => 0
    let gives (x : Instr) (r : Int × Int × Int × Int) : Prop := ∃ t v, exec x s = .next t ∧
      RegsBecome s t i.core i.who { whoRegs s i.core i.who with v := v } ∧
      ∀ j, mget (.u 0) v j =
        if j = n then mkA r.1 r.2.1 r.2.2.1 r.2.2.2 else mget (.u 0) (whoRegs s i.core i.who).v j
    let each (f : Int → Int) : Int × Int × Int × Int := (f p.1, f p.2.1, f p.2.2.1, f p.2.2.2)
    let pair (f : Int → Int → Int) : Int × Int × Int × Int :=
      (f p.1 q.1, f p.2.1 q.2.1, f p.2.2.1 q.2.2.1, f p.2.2.2 q.2.2.2)
    armParts (vsrc s i w a) = some p →
      (armParts (vsrc s i w b) = some q →
        gives (.addVector (.reg n false) a b) (pair fun x y => wrap 27 (x + y)) ∧
        gives (.subVector (.reg n false) a b) (pair fun x y => wrap 27 (x - y))) ∧
      (vsrc s i w b = .u m →
        gives (.mulVector (.reg n false) a b) (each fun x => wrap 27 (x * m)) ∧
        gives (.mulVector (.reg n false) b a) (each fun x => wrap 27 (m * x)) ∧
        (0 ≤ m → gives (.shVector (.reg n false) a b) (each fun x => shift x m))) ∧
      gives (.negVector (.reg n false) a) (each fun x => wrap 27 (-x)) ∧
      gives (.movVector (.reg n false) a) p

/-- The range casts at an instruction that it cannot execute, which then stands for its cast groups, and changes nothing: a
read of `lane`, `grp` or `team`, a read or write of a system register from number 10 on, a memory access, a cross-lane
operation, an instruction of an engine or of the mailbox, a trap, a breakpoint, a return from a handler, an invalidation, a request for
a bank mode (R139, R215, R250, R284). -/
def Obligations.RangeCasts : Prop :=
  ∀ (s : State) (i : Issue) (e : Nat) (q : Range), RangeRuns s i e q →
    (∀ d ops f x, scalarLaw x = some (d, ops, f) → ops.any sCasts = true →
      ∃ t, exec x s = .next t ∧ Casts s t i e q) ∧
    (∀ d ops f x, vectorLaw x = some (d, ops, f) → ops.any vCasts = true →
      ∃ t, exec x s = .next t ∧ Casts s t i e q) ∧
    (∀ d a b n sel x, x ∈ [Instr.rot d a b, .slide d a b, .shfl d a b, .bcast d a b, .radd d a, .radds d a, .rmin d a,
        .rmax d a, .rfadd d a, .rfmin d a, .rfmax d a, .sadd d a, .sadds d a, .smin d a, .smax d a, .sfadd d a,
        .kcnt d n sel, .kfirst d n] → ∃ t, exec x s = .next t ∧ Casts s t i e q) ∧
    (∀ d r n (a b : Opd) (m p : Int) (o : Option Nat) x,
      x ∈ [Instr.ld9 d r a, .ld27 d r a, .ldb8 d r a, .ldb16 d r a, .ldb32 d r a, .ldw9 d r a, .ldw27 d r a,
        .lds27 d r a, .lds54 d r a, .ldsp d r a, .st9 d r a, .st27 d r a, .stb8 d r a, .stb16 d r a, .stb32 d r a,
        .stnt9 d r a, .stnt27 d r a, .sts27 d r a, .sts54 d r a, .stsp d r a, .pf r a, .ldx9 d a r p, .ldx27 d a r p,
        .ldxb8 d a r p, .ldxb16 d a r p, .ldxb32 d a r p, .ldwx9 d a m r p, .ldwx27 d a m r p, .ld27Rlx d a m r p,
        .ld27Acq d a m r p, .ldpk d a m r p, .stx9 a b r p, .stx27 a b r p, .stxb8 a b r p, .stxb16 a b r p, .stxb32 a b r p,
        .stpk a b m r p, .st27Rlx a b m r p, .st27Rel a b m r p, .atmAdd d a b m r p, .atmAdds d a b m r p, .atmMin d a b m r p,
        .atmMax d a b m r p, .atmTmin d a b m r p, .atmTmax d a b m r p, .atmSwap d a b m r p, .atmCas d a b m r p,
        .atmFadd d a b m r p, .fenceAcq m p, .fenceRel m p, .fenceFull m p, .fenceSc m p, .mpass o r d, .mpassx o n r p,
        .mdrain o r d, .mdrainx o n r p, .cpy o r, .cpyx o r p, .mzero d m, .mpin o r, .munpin r, .nbinit d a, .nbarr o d a,
        .nbarrx o d a m, .nbwait d a, .nbwaitx d a m, .nbget d r, .fpush a d, .fpop d a, .pclr r a,
        .qpost o r, .qstat o a, .leave a, .unleave, .launch d r, .mbox d r, .share d r a, .pcomp r a, .tcbsig r,
        .prog a, .trap a, .bkpt m, .rft, .inval d r m, .bkmode a b] → ∃ t, exec x s = .next t ∧ Casts s t i e q) ∧
    (∀ d a b, 10 ≤ ssrc s i a ∨ sCasts a = true →
      (∃ t, exec (.srd d a) s = .next t ∧ Casts s t i e q) ∧ ∃ t, exec (.swr a b) s = .next t ∧ Casts s t i e q)

namespace Sys2Proof.Claims

/-- Does R135 give the result in form A or U where no source is in form F, though some is in form A? -/
def KeepsArmature (s : State) (i : Issue) (w : Nat) : Instr → Prop
  | .addVector .. | .subVector .. | .negVector .. | .movVector .. | .armx .. | .army .. | .armz .. => True
  | .mulVector _ a b => isU (vsrc s i w a) = true ∨ isU (vsrc s i w b) = true
  | .shVector _ _ b => ∃ m, vsrc s i w b = .u m ∧ 0 ≤ m
  | _ => False
/-- Is the result in form F: a source is, or a source is not uniform and the operation keeps no armature (R135)? -/
def ResultF (s : State) (i : Issue) (w : Nat) (x : Instr) (ops : List Opd) : Prop :=
  (∃ o ∈ ops, isF (vsrc s i w o) = true) ∨ (∃ o ∈ ops, isU (vsrc s i w o) = false) ∧ ¬ KeepsArmature s i w x

end Sys2Proof.Claims

/-- A result that would take form F, by its sources or because its write does not cover the group, in a register beyond the group's
full registers, and a latch write of a result that is not uniform or does not cover the group, raise the illegal-form trap, class 2, in
every active lane, and write nothing (R135, R136, R198, R203). -/
def Obligations.IllegalFormTraps : Prop :=
  ∀ (x : Instr) (d : Dst) (ops : List Opd) (f : List Int → Int × Flags) (s : State) (i : Issue) (c : Nat) (g : Group),
    GroupRuns s i c g →
    (vectorLaw x = some (d, ops, f) → ResultF s i g.width x ops ∨ covers g i = false →
      (∀ n l, d = .reg n l → g.nf ≤ n ∨ l = true) →
      ∃ t, exec x s = .next t ∧ Traps s t i c 2 (plainLanes (activeLanes g))) ∧
    ∀ a p, armParts (vsrc s i g.width a) = some p → p.2 ≠ (0, 0, 0) → wantsLatch d = true →
      ∃ t, exec (.movVector d a) s = .next t ∧ Traps s t i c 2 (plainLanes (activeLanes g))

/-- `sel3` takes, in each lane of the guard, the source that the lane's mask trit selects; in a range, the chosen source with its
form (R255). -/
def Obligations.Sel3Result : Prop :=
  ∀ (s : State) (i : Issue) (n x : Nat) (a b c' : Opd),
    (∀ c g, GroupRuns s i c g → WriteFree g n → n < g.nf →
      ∃ t, exec (.sel3 (.reg n false) a b c' x) s = .next t ∧
        VectorDone s t i c g n (fun k =>
          if maskTrit (srcRegs s i) x k < 0 then laneVal (vsrc s i g.width a) g.items k
          else if maskTrit (srcRegs s i) x k = 0 then laneVal (vsrc s i g.width b) g.items k
          else laneVal (vsrc s i g.width c') g.items k) Flags.none) ∧
    (∀ e q o, RangeRuns s i e q → [a, b, c'].any vCasts = false →
      o = (if maskTrit (srcRegs s i) x 0 < 0 then a else if maskTrit (srcRegs s i) x 0 = 0 then b else c') →
      isF (vsrc s i 0 o) = false →
      ∃ t m, exec (.sel3 (.reg n false) a b c' x) s = .next t ∧ t = setRange s i.core e { q with r := { q.r with v := m } } ∧
        ∀ j, mget (.u 0) m j = if j = n then vsrc s i 0 o else mget (.u 0) q.r.v j)

/-! ## Masks -/

namespace Sys2Proof.Claims

/-- What each compare leaves in a lane's mask trit, of the lane's values (R256). -/
def compareLaw : Instr → Option (Nat × List Opd × (List Int → Int))
  | .cmpVector k a b => some (k, [a, b], on2 (fun a b => if a < b then -1 else if a = b then 0 else 1) 0)
  | .fcmp k a b => some (k, [a, b], on2 (fun a b => fcmpV (t27 a) (t27 b)) 0)
  | .fcls k a =>
    some (k, [a], on1 (fun a => match t27 a with | .nan => 1 | .inf _ => -1 | .fin _ _ => 0) 0)
  | .sgnMask k a => some (k, [a], on1 (fun a => if a < 0 then -1 else if a = 0 then 0 else 1) 0)
  | _ => none

/-- What each operation on masks leaves, of the lane's trits (R256). -/
def maskLaw : Instr → Option (Nat × List Nat × (List Int → Int))
  | .kmin k a b => some (k, [a, b], on2 min 0)
  | .kmax k a b => some (k, [a, b], on2 max 0)
  | .kneg k a => some (k, [a], on1 (fun a => -a) 0)
  | .ksum k a b => some (k, [a, b], on2 (fun a b => wrap 1 (a + b)) 0)
  | .kmul k a b => some (k, [a, b], on2 (fun a b => a * b) 0)
  | _ => none

end Sys2Proof.Claims

/-- Compares and mask operations complete in a group: each lane of the guard takes its trit, the other lanes of the mask and the
rest of the package stay as they were, and no flag is raised (R256). In a range, with uniform sources, the one trit is
written. -/
def Sys2Proof.Claims.MaskWrites : Prop :=
  ∀ (x : Instr) (n : Nat) (s : State) (i : Issue), n ≠ 0 →
    (∀ ops f c g, compareLaw x = some (n, ops, f) → GroupRuns s i c g →
      ∃ t, exec x s = .next t ∧ MaskDone s t i c g n (fun k => f (laneVals s i g ops k))) ∧
    (∀ ms f c g, maskLaw x = some (n, ms, f) → GroupRuns s i c g →
      ∃ t, exec x s = .next t ∧ MaskDone s t i c g n (fun k => f (ms.map fun m => maskTrit (srcRegs s i) m k))) ∧
    (∀ ops f e q, compareLaw x = some (n, ops, f) → RangeRuns s i e q → ops.any vCasts = false → AllUniform s i 0 ops →
      ∃ t m, exec x s = .next t ∧ t = setRange s i.core e { q with r := { q.r with k := m } } ∧
        ∀ j, mget (.u 0) m j =
          if j = n then .u (f (ops.map fun o => uVal (vsrc s i 0 o))) else mget (.u 0) q.r.k j)

/-- `kval`, `kcnt` and `kfirst` read masks into a vector register: the lane's trit, the number of lanes of the guard whose trit
is the one asked for, the lowest lane of the guard whose trit is + or -1 (R256, R263). -/
def Sys2Proof.Claims.MaskReads : Prop :=
  ∀ (s : State) (i : Issue) (c : Nat) (g : Group) (n a : Nat) (b : Int), GroupRuns s i c g → WriteFree g n →
    (n < g.nf → ∃ t, exec (.kval n a) s = .next t ∧
      VectorDone s t i c g n (fun k => maskTrit (srcRegs s i) a k) Flags.none) ∧
    (n < g.nf ∨ covers g i = true →
      (∃ t, exec (.kcnt (.reg n false) a b) s = .next t ∧ VectorDone s t i c g n
        (fun _ => ((i.guard.filter fun l => decide (maskTrit (srcRegs s i) a l = b)).length : Int)) Flags.none) ∧
      (∀ l, l ∈ i.guard → maskTrit (srcRegs s i) a l = 1 → (∀ k ∈ i.guard, maskTrit (srcRegs s i) a k = 1 → l ≤ k) →
        i.guard.Pairwise (· < ·) → ∃ t, exec (.kfirst (.reg n false) a) s = .next t ∧
          VectorDone s t i c g n (fun _ => (l : Int)) Flags.none) ∧
      ((∀ k ∈ i.guard, maskTrit (srcRegs s i) a k ≠ 1) → ∃ t, exec (.kfirst (.reg n false) a) s = .next t ∧
        VectorDone s t i c g n (fun _ => -1) Flags.none))

/-- Compares, mask operations and reads of masks (R256, R263). -/
def Obligations.MaskResult : Prop := MaskWrites ∧ MaskReads

/-! ## Conversions and special values -/

/-- `cvt` converts each lane's value from one format to the other under R31; a format of itself keeps the trits of its width; a
format register with an invalid value raises the format trap, class 3 (R24, R258). -/
def Sys2Proof.Claims.FormatConversion : Prop :=
  ∀ (s : State) (i : Issue) (c : Nat) (g : Group) (n f t : Nat) (a : Opd), GroupRuns s i c g → f ≤ 13 → t ≤ 13 →
    let x := Instr.cvt (.reg n false) a (14 * f + t - 98)
    let v := fun k => laneVal (vsrc s i g.width a) g.items k
    (∀ ff tf, fmtOfCode (srcRegs s i) f = some ff → fmtOfCode (srcRegs s i) t = some tf → WriteFree g n →
      (n < g.nf ∨ covers g i = true ∧ isU (vsrc s i g.width a) = true) →
      (f ≠ t → ∃ u, exec x s = .next u ∧ VectorDone s u i c g n (fun k => (convert tf (tdecode ff (v k))).enc)
        (allFlags (i.guard.map fun k => (convert tf (tdecode ff (v k))).fl))) ∧
      (f = t → ∃ u, exec x s = .next u ∧ VectorDone s u i c g n (fun k => wrap (tfmtWidth ff) (v k)) Flags.none)) ∧
    (fmtOfCode (srcRegs s i) f = none ∨ fmtOfCode (srcRegs s i) t = none →
      ∃ u, exec x s = .next u ∧ Traps s u i c 3 (plainLanes (activeLanes g)))

namespace Sys2Proof.Claims

/-- What a crossing conversion gives for a lane's value, none where it meets the range fault (R33, R34, R260). -/
def crossing (from_ : Bool) (b : Nat) (t : TFmt) (x : Int) : Option (Int × Flags) :=
  if from_ then (convertBin (btyOf b) t (patternOf (btyOf b) x)).map fun r => (r.enc, r.fl)
  else (convertToBin (btyOf b) (tdecode t x)).map fun p => ((p : Int), Flags.none)

end Sys2Proof.Claims

/-- `frombin` and `tobin`: where every lane of the guard converts, each takes its value; where some do not, those keep their
values, the others are written, and the range fault, class 11, with just those lanes stands to be taken after the bundle
(R260). -/
def Sys2Proof.Claims.BinaryCrossing : Prop :=
  ∀ (s : State) (i : Issue) (c : Nat) (g : Group) (n b t : Nat) (a : Opd) (way : Bool) (tf : TFmt),
    GroupRuns s i c g → b ≤ 8 → t ≤ 13 → fmtOfCode (srcRegs s i) t = some tf → WriteFree g n → n < g.nf →
    i.broke = false → i.after = none →
    let x := if way then Instr.frombin (.reg n false) a (14 * b + t - 63) else Instr.tobin (.reg n false) a (14 * b + t - 63)
    let r := fun k => crossing way b tf (laneVal (vsrc s i g.width a) g.items k)
    let bad := i.guard.filter fun k => (r k).isNone
    ∃ u w, exec x s = .next w ∧
      VectorDone s u { i with guard := i.guard.filter fun k => (r k).isSome } c g n (fun k => ((r k).map (·.1)).getD 0)
        (allFlags ((i.guard.filter fun k => (r k).isSome).map fun k => ((r k).map (·.2)).getD Flags.none)) ∧
      (bad = [] → w = u) ∧
      let due : Trap := { cls := 11, detail := 0, lanes := plainLanes bad, pc := i.pc, ret := i.pc }
      (bad ≠ [] → isU (vsrc s i g.width a) = false → w = { u with issue := some { i with after := some due } }) ∧
      (bad ≠ [] → isU (vsrc s i g.width a) = true → w = { s with issue := some { i with after := some due } })

/-- Conversions between formats and to and from binary patterns (R257 to R259). -/
def Obligations.ConversionResult : Prop := FormatConversion ∧ BinaryCrossing

/-- The special cases of R27: a NaN operand gives NaN without a flag; `Inf - Inf`, `0 * Inf`, `0 / 0`, `Inf / Inf` and the
square root of a value below 0 give NaN with the invalid flag; a finite nonzero value by 0 gives Inf of its sign with the
overflow flag (R253). -/
def Obligations.FloatSpecialCases : Prop :=
  ∀ (a : FVal) (m k : Int) (p : Bool),
    faddV fmtT27 .nan a = { enc := fNaN fmtT27 } ∧ faddV fmtT27 a .nan = { enc := fNaN fmtT27 } ∧
    t27Mul .nan a = { enc := fNaN fmtT27 } ∧ t27Mul a .nan = { enc := fNaN fmtT27 } ∧
    fdivV fmtT27 .nan a = { enc := fNaN fmtT27 } ∧ fdivV fmtT27 a .nan = { enc := fNaN fmtT27 } ∧
    fsqrtV fmtT27 .nan = { enc := fNaN fmtT27 } ∧
    faddV fmtT27 (.inf p) (.inf (!p)) = { enc := fNaN fmtT27, fl := { invalid := true } } ∧
    t27Mul (.fin 0 k) (.inf p) = { enc := fNaN fmtT27, fl := { invalid := true } } ∧
    t27Mul (.inf p) (.fin 0 k) = { enc := fNaN fmtT27, fl := { invalid := true } } ∧
    fdivV fmtT27 (.fin 0 m) (.fin 0 k) = { enc := fNaN fmtT27, fl := { invalid := true } } ∧
    fdivV fmtT27 (.inf p) (.inf (!p)) = { enc := fNaN fmtT27, fl := { invalid := true } } ∧
    (m < 0 → fsqrtV fmtT27 (.fin m k) = { enc := fNaN fmtT27, fl := { invalid := true } }) ∧
    (m ≠ 0 → fdivV fmtT27 (.fin m k) (.fin 0 0) =
      { enc := fInf fmtT27 (decide (m < 0)), fl := { overflow := true } }) ∧
    fdecode fmtT27 (fNaN fmtT27) = .nan ∧ fdecode fmtT27 (fInf fmtT27 p) = .inf p

/-! ## Cross-lane operations -/

namespace Sys2Proof.Claims

/-- Does a cross-lane operation see the slot? In a trap handler it sees those active at the trap (R317; DEDUCED, log 64). -/
def seesSlot (g : Group) (k : Nat) : Bool :=
  !g.r.tr.inHandler || match g.kept with | some h => h.active.contains k | none => true
/-- What a permutation reads in a slot: the source's value, and of one that is not uniform 0 in a slot that it does not see (R261). -/
def permVal (s : State) (i : Issue) (g : Group) (a : Opd) (k : Int) : Int :=
  if isU (vsrc s i g.width a) || seesSlot g k.toNat then laneVal (vsrc s i g.width a) g.items k.toNat else 0

end Sys2Proof.Claims

/-- The permutations read the lane that R262 names; a uniform source stays uniform, but for a `slide` that leaves lanes without
one. An operand that must be uniform and is not raises the illegal-form trap. -/
def Sys2Proof.Claims.PermutationResult : Prop :=
  ∀ (s : State) (i : Issue) (c : Nat) (g : Group) (n : Nat) (a b : Opd), GroupRuns s i c g → WriteFree g n → n < g.nf →
    let v := permVal s i g a
    let w : Int := g.width
    (∀ x r, x ∈ [Instr.rot (.reg n false) a (.reg r), .slide (.reg n false) a (.reg r), .bcast (.reg n false) a (.reg r)] →
      isU (vsrc s i g.width (.reg r)) = false → ∃ t, exec x s = .next t ∧ Traps s t i c 2 (plainLanes (activeLanes g))) ∧
    (isU (vsrc s i g.width b) = true →
      let y := uVal (vsrc s i g.width b)
      (∃ t, exec (.rot (.reg n false) a b) s = .next t ∧
        VectorDone s t i c g n (fun k => v (((k : Int) - y) % w)) Flags.none) ∧
      (∃ t, exec (.slide (.reg n false) a b) s = .next t ∧
        VectorDone s t i c g n (fun k => if 0 ≤ (k : Int) - y ∧ (k : Int) - y < w then v ((k : Int) - y) else 0)
          Flags.none) ∧
      ∃ t, exec (.bcast (.reg n false) a b) s = .next t ∧ VectorDone s t i c g n (fun _ => v (y % w)) Flags.none) ∧
    ∃ t, exec (.shfl (.reg n false) a b) s = .next t ∧
      VectorDone s t i c g n (fun k => v (laneVal (vsrc s i g.width b) g.items k % w)) Flags.none

namespace Sys2Proof.Claims

/-- The combination of each reduction and scan, of the values of the lanes of the guard in ascending slot (R263). -/
def leastOf (l : List Int) : Int := l.foldl min (l.headD 0)
def greatestOf (l : List Int) : Int := l.foldl max (l.headD 0)
def reduceLaw : Instr → Option (Dst × Opd × (List Int → Int × Flags))
  | .radd d a => some (d, a, fun l => (wrap 27 l.sum, Flags.none))
  | .radds d a => some (d, a, fun l => (sat 27 l.sum, Flags.none))
  | .rmin d a => some (d, a, fun l => (leastOf l, Flags.none))
  | .rmax d a => some (d, a, fun l => (greatestOf l, Flags.none))
  | .rfadd d a => some (d, a, fun l => fres (fsum (l.map t27)))
  | .rfmin d a => some (d, a, fun l => fres (fput fmtT27 (listF fminV (l.map t27))))
  | .rfmax d a => some (d, a, fun l => fres (fput fmtT27 (listF fmaxV (l.map t27))))
  | _ => none
def scanLaw : Instr → Option (Dst × Opd × (List Int → Int × Flags))
  | .sadd d a => some (d, a, fun l => (wrap 27 l.sum, Flags.none))
  | .sadds d a => some (d, a, fun l => (sat 27 l.sum, Flags.none))
  | .smin d a => some (d, a, fun l => (leastOf l, Flags.none))
  | .smax d a => some (d, a, fun l => (greatestOf l, Flags.none))
  | .sfadd d a => some (d, a, fun l => fres (fsum (l.map t27)))
  | _ => none

end Sys2Proof.Claims

/-- A reduction writes its one result to every lane of the guard, a scan to each lane the combination of the lanes of the guard
at its slot and below; lanes outside the guard do not enter, and keep their values (R261, R263). -/
def Sys2Proof.Claims.ReductionResult : Prop :=
  ∀ (x : Instr) (n : Nat) (a : Opd) (f : List Int → Int × Flags) (s : State) (i : Issue) (c : Nat) (g : Group),
    GroupRuns s i c g → WriteFree g n →
    let v := fun k => laneVal (vsrc s i g.width a) g.items k
    (reduceLaw x = some (.reg n false, a, f) → n < g.nf ∨ covers g i = true →
      ∃ t, exec x s = .next t ∧ VectorDone s t i c g n (fun _ => (f (i.guard.map v)).1) (f (i.guard.map v)).2) ∧
    (scanLaw x = some (.reg n false, a, f) → n < g.nf →
      ∃ t, exec x s = .next t ∧
        VectorDone s t i c g n (fun k => (f ((i.guard.filter fun l => decide (l ≤ k)).map v)).1)
          (allFlags (i.guard.map fun k => (f ((i.guard.filter fun l => decide (l ≤ k)).map v)).2)))

/-- Uniform results of cross-lane operations enter the latches, or them alone, where the mode asks for it and the write covers the
group; a scan's result, which is in form F, raises the illegal-form trap there (R136, R203). -/
def Sys2Proof.Claims.CrossLaneIntoLatches : Prop :=
  ∀ (s : State) (i : Issue) (c : Nat) (g : Group) (a b : Opd) (d : Dst), GroupRuns s i c g →
    (∀ n, d = .reg n true → WriteFree g n) → (∀ n, d ≠ .reg n false) →
    let done (x : Instr) (r : Int × Flags) : Prop := covers g i = true → ∃ t, exec x s = .next t ∧
      (d = .latchOnly → ∃ u, FlagsDone s u i r.2 ∧ LatchTakes u t i true r.1) ∧
      ∀ n, d = .reg n true → ∃ u, VectorDone s u i c g n (fun _ => r.1) r.2 ∧ LatchTakes u t i true r.1
    (isU (vsrc s i g.width b) = true →
      let y := uVal (vsrc s i g.width b)
      done (.bcast d a b) (permVal s i g a (y % g.width), Flags.none) ∧
      (isU (vsrc s i g.width a) = true →
        done (.rot d a b) (uVal (vsrc s i g.width a), Flags.none) ∧
        (y = 0 → done (.slide d a b) (uVal (vsrc s i g.width a), Flags.none)))) ∧
    (isU (vsrc s i g.width a) = true → done (.shfl d a b) (uVal (vsrc s i g.width a), Flags.none)) ∧
    (∀ x f, reduceLaw x = some (d, a, f) → done x (f (i.guard.map fun k => laneVal (vsrc s i g.width a) g.items k))) ∧
    ∀ x f, scanLaw x = some (d, a, f) → ∃ t, exec x s = .next t ∧ Traps s t i c 2 (plainLanes (activeLanes g))

/-- Permutations, reductions and scans of a group, into registers and into latches (R203, R261 to R263). -/
def Obligations.CrossLaneResult : Prop := PermutationResult ∧ ReductionResult ∧ CrossLaneIntoLatches

/-! ## Memory accesses -/

namespace Sys2Proof.Claims

/-- The form of an access: destination or data, address register, offset, displacement, view, units of a lane, alignment, whether it
waits for presence and for which paths, its scope where it is strong, and its mask where it acquires or releases. -/
structure Form where
  d : Nat := 0
  data : Opd := .imm 0
  a : Nat
  off : Opd
  disp : Int := 0
  binary : Bool := false
  n : Nat
  word : Bool := false
  waits : Bool := false
  paths : List Path := []
  strong : Nat := 0
  order : Option (List Path) := none

/-- Every vector load but `ldpk` (R267 to R269, R275). -/
def loadLaw : Instr → Option Form
  | .ld9 d a b => some { d := d, a := a, off := b, n := 1 }
  | .ld27 d a b => some { d := d, a := a, off := b, n := 3 }
  | .ldb8 d a b => some { d := d, a := a, off := b, n := 1, binary := true }
  | .ldb16 d a b => some { d := d, a := a, off := b, n := 2, binary := true }
  | .ldb32 d a b => some { d := d, a := a, off := b, n := 4, binary := true }
  | .ldw9 d a b => some { d := d, a := a, off := b, n := 1, waits := true, paths := [.core, .copy, .matrix] }
  | .ldw27 d a b => some { d := d, a := a, off := b, n := 3, waits := true, paths := [.core, .copy, .matrix] }
  | .ldx9 d o a e => some { d := d, a := a, off := o, disp := e, n := 1 }
  | .ldx27 d o a e => some { d := d, a := a, off := o, disp := e, n := 3 }
  | .ldxb8 d o a e => some { d := d, a := a, off := o, disp := e, n := 1, binary := true }
  | .ldxb16 d o a e => some { d := d, a := a, off := o, disp := e, n := 2, binary := true }
  | .ldxb32 d o a e => some { d := d, a := a, off := o, disp := e, n := 4, binary := true }
  | .ldwx9 d o c a e => some { d := d, a := a, off := o, disp := e, n := 1, waits := true, paths := maskPaths c }
  | .ldwx27 d o c a e => some { d := d, a := a, off := o, disp := e, n := 3, waits := true, paths := maskPaths c }
  | .ld27Rlx d o c a e => some { d := d, a := a, off := o, disp := e, n := 3, word := true, strong := c.toNat }
  | .ld27Acq d o c a e =>
    some { d := d, a := a, off := o, disp := e, n := 3, word := true, strong := orderScope c, order := some (orderMask c) }
  | _ => none

/-- Every vector store but `stpk` (R267, R268, R272, R275). -/
def storeLaw : Instr → Option Form
  | .st9 d a b => some { data := .reg d, a := a, off := b, n := 1 }
  | .st27 d a b => some { data := .reg d, a := a, off := b, n := 3 }
  | .stb8 d a b => some { data := .reg d, a := a, off := b, n := 1, binary := true }
  | .stb16 d a b => some { data := .reg d, a := a, off := b, n := 2, binary := true }
  | .stb32 d a b => some { data := .reg d, a := a, off := b, n := 4, binary := true }
  | .stnt9 d a b => some { data := .reg d, a := a, off := b, n := 1 }
  | .stnt27 d a b => some { data := .reg d, a := a, off := b, n := 3 }
  | .stx9 o v a e => some { data := v, a := a, off := o, disp := e, n := 1 }
  | .stx27 o v a e => some { data := v, a := a, off := o, disp := e, n := 3 }
  | .stxb8 o v a e => some { data := v, a := a, off := o, disp := e, n := 1, binary := true }
  | .stxb16 o v a e => some { data := v, a := a, off := o, disp := e, n := 2, binary := true }
  | .stxb32 o v a e => some { data := v, a := a, off := o, disp := e, n := 4, binary := true }
  | .st27Rlx o v c a e => some { data := v, a := a, off := o, disp := e, n := 3, word := true, strong := c.toNat }
  | .st27Rel o v c a e =>
    some { data := v, a := a, off := o, disp := e, n := 3, word := true, strong := orderScope c, order := some (orderMask c) }
  | _ => none

/-- The effective address of a lane (R264). -/
def ea (s : State) (i : Issue) (g : Group) (f : Form) (k : Nat) : Int :=
  (getA s i f.a).ptr + laneVal (vsrc s i g.width f.off) g.items k + f.disp
/-- The accesses of the lanes of the guard, in ascending slot. -/
def lanes (s : State) (i : Issue) (g : Group) (f : Form) : List Lane :=
  i.guard.map fun k => { slot := k, e := ea s i g f k, n := f.n }

/-- No watchpoint of the die halts or signals the accesses: the group is in supervisor mode or exempt at this bundle, or none matches
(R330). -/
def Unwatched (s : State) (i : Issue) (g : Group) (scratch : Bool) (kind : AccKind) (ls : List Lane) : Prop :=
  g.r.super = true ∨ g.exempt = some i.pc ∨ ∀ l ∈ ls, ∀ n, n < 2 →
    watchHit (getDie s (dieOf i.core)) n i.core scratch kind l = false

/-- The accesses pass the checks of R265: alignment, then register check and translation in every lane, whose places are `ok`
and which leave the state `t`; none lies outside the scratchpad; no watchpoint matches. -/
def Clear (s : State) (i : Issue) (g : Group) (a : AReg) (kind : AccKind) (binary : Bool) (aligned : Int → Bool)
    (ls : List Lane) (ok : List Checked) (t : State) : Prop :=
  (∀ l ∈ ls, aligned l.e = true) ∧
  checkLanes (xlOf i.core (srcRegs s i)) (clusterOf i.core) a kind binary ls s = (ok, [], t) ∧
  (∀ k ∈ ok, k.place ≠ .out) ∧ Unwatched t i g a.scratch kind ls

/-- The lanes of the scratchpad that an access through a scratch register touches: inside the register's window, in settled
scratch banks, unwatched (R45, R74). -/
def ScratchClear (s : State) (i : Issue) (g : Group) (a : AReg) (kind : AccKind) (ls : List Lane) : Prop :=
  a.scratch = true ∧ Unwatched s i g true kind ls ∧ ∀ l ∈ ls, regCheck a kind l.e l.n = true ∧
    spIn s (clusterOf i.core) l.e = true ∧ spIn s (clusterOf i.core) (l.e + l.n - 1) = true

/-- A destination of the group is pending: the register is in form F with its old values, and what lands in it is bound; nothing
else has changed (R208). -/
def Posted (s t : State) (i : Issue) (c : Nat) (g : Group) (kind : PendKind) (d : Nat) (land : Landing) : Prop :=
  ∃ (m : SMap VReg) (rg : List Reg),
    t = push { setGroup s i.core c { g with
        r := { g.r with v := m }, region := rg
        pending := g.pending ++ [{ id := s.nextId, kind := kind, regs := [.v d], slots := i.guard, land := some land
                                   inHandler := g.r.tr.inHandler, pc := i.pc }] } with nextId := s.nextId + 1 }
      (.valueLanding i.core c s.nextId) ∧
    (∀ j, j ≠ d → mget (.u 0) m j = mget (.u 0) g.r.v j) ∧ isF (mget (.u 0) m d) = true ∧
    ∀ k, k < g.width → (mfind g.items k).isSome = true →
      laneVal (mget (.u 0) m d) g.items k = laneVal (mget (.u 0) g.r.v d) g.items k

/-- What caches may change between `s` and `t`: the lines that they hold, and messages about them. No register, scratchpad, host
memory or table has changed. -/
def CachesMove (s t : State) : Prop :=
  (∀ c, getCore t c = { getCore s c with l1 := (getCore t c).l1 }) ∧ t.clusters = s.clusters ∧ t.host = s.host ∧
  t.teams = s.teams ∧ t.launches = s.launches ∧ t.queues = s.queues ∧ t.keys = s.keys ∧ t.issue = s.issue
/-- Memory holds what it held: every block has the contents and the tags that it had, but for one that is uncorrectable at its device,
which is rewritten as it was read there (R86, R88). -/
def MemKept (s t : State) : Prop :=
  ∀ b, (atomAt t b).key = (atomAt s b).key ∧ (atomAt t b).epoch = (atomAt s b).epoch ∧
    ((atomAt t b).payload = (atomAt s b).payload ∨ ∃ k, atomCause s (atomAt s b) k = some 1)
/-- The core has seen the last write to each location: no earlier value is left for it to read (R104). -/
def UpToDate (s : State) (i : Issue) (ks : List Nat) : Prop :=
  ∀ k ∈ ks, ∀ e, (lateAt s k).head? = some e → Machine.sees e (onPath i.core .core) = true
/-- A waiting load that is performed has no absent blocks left (R73). -/
def begun (g : Group) (f : Form) : Group := if f.waits then { g with absent := [] } else g
def loadBegun (s : State) (i : Issue) (c : Nat) (g : Group) (f : Form) : State :=
  if f.waits then setGroup s i.core c (begun g f) else s
/-- A load that waits for presence follows the writes that set it (R108). -/
def afterPresence (s : State) (i : Issue) (c : Nat) (f : Form) (ok : List Checked) : State :=
  if f.waits then meetPresence s i.core c f.paths ok else s

/-- A nonet or byte of a block of regions +1 to +3 under a key index and a view, as the last write left it; none where the block
cannot be read so. -/
def unitAt (s : State) (key : Nat) (binary : Bool) (pa : Int) : Option Int :=
  let a := atomAt s (pa / 27)
  if a.epoch = keySeal s key then
    match lineRead a false key binary with
    | .ok l => some (l.getD (pa % 27).toNat 0)
    | .error _ => none
  else none
/-- No line on chip and no write that is on its way marks the block as poisoned. -/
def Unmarked (s : State) (b : Int) : Prop :=
  (∀ d, blockIn b ∉ (getLine s d (lineOf b)).poison) ∧ (∀ c l, getL1 s c (lineOf b) = some l → blockIn b ∉ l.poison) ∧
  (∀ l, getSlice s (lineHome s (lineOf b)) (lineOf b) = some l → blockIn b ∉ l.poison) ∧
  ∀ f ∈ s.flights, f.block = b → f.bad = false
/-- A unit of plain memory: in a region of memory, no line that the access meets held under another key index or view, and a block that
passes its checks, on chip and at its device. -/
def PlainUnit (s : State) (u : Machine.PUnit) : Prop :=
  0 ≤ u.pa ∧ 1 ≤ frameRegion (frameOf u.pa) ∧ frameRegion (frameOf u.pa) ≤ 3 ∧ lineClash s (u.pa / 27) u.attr = false ∧
  Unmarked s (u.pa / 27) ∧ (atomRead s (atomAt s (u.pa / 27)) u.attr.key u.attr.binary).isOk = true
/-- The policies under which a store acts on memory at once: write-back, home only and uncached; write-combining for a strong store,
which is uncached there (R77, R275). -/
def StorePolicy (p : Int) (strong : Nat) : Prop := p = 0 ∨ p = 1 ∨ p = -1 ∨ p = 2 ∧ 0 < strong
/-- A store to an uncached or write-combining page sets the restart address after its bundle (R235). -/
def restartsAfter (s : State) (i : Issue) (p : Int) : State :=
  if p = -1 ∨ p = 2 then { s with issue := some { i with restart := true } } else s

/-- The value of `n` nonets of the scratchpad of a cluster. -/
def scratchValue (s : State) (cl : Nat) (e : Int) (n : Nat) : Int :=
  ofNonets ((List.range n).map fun (j : Nat) => spRead s cl (e + j))

end Sys2Proof.Claims

/-- A vector load whose accesses pass the checks of R265 completes: its destination is pending in form F (R136, R208), and each
lane lands the value of the units that its address names in the page's view, or the entry of a failing read. Nothing is
stored: memory reads as before, and scratchpads, host memory and every other register are as they were. -/
def Sys2Proof.Claims.LoadAnyPlace : Prop :=
  ∀ (x : Instr) (f : Form) (s : State) (i : Issue) (c : Nat) (g : Group) (ok : List Checked) (t : State),
    loadLaw x = some f → GroupRuns s i c g → f.d < g.nf → WriteFree g f.d →
    Clear s i g (getA s i f.a) .load f.binary (fun e => !f.word || decide (e % 3 = 0)) (lanes s i g f) ok t →
    (f.waits = true → ∀ k ∈ ok, laneReady t (clusterOf i.core) k = true) →
    ∃ vs bad u v w,
      readLanes i.core f.strong ok (requestLoad (afterPresence t i c f ok) i.core (formF s i g f.off) (memUnits ok)) = (vs, bad, u) ∧
      exec x s = .next w ∧
      Posted v w i c (begun g f) .load f.d { lanes := vs.map fun p => (p.1, unitsVal f.binary p.2), fails := bad } ∧
      CachesMove (loadBegun s i c g f) v ∧ MemKept s v

/-- A vector load from plain memory lands, in each lane of the guard, the value of the units at its address as the last writes left
them, where the core has seen those; it reads no other (R97, R98, R264, R267). -/
def Sys2Proof.Claims.LoadMemory : Prop :=
  ∀ (x : Instr) (f : Form) (s : State) (i : Issue) (c : Nat) (g : Group) (ok : List Checked) (t : State),
    loadLaw x = some f → GroupRuns s i c g → f.d < g.nf → WriteFree g f.d →
    Clear s i g (getA s i f.a) .load f.binary (fun e => !f.word || decide (e % 3 = 0)) (lanes s i g f) ok t →
    ∀ (at_ : Attr) (us : Checked → List Machine.PUnit), at_.binary = f.binary →
      (∀ k ∈ ok, k.place = .mem (us k) ∧ ∀ u ∈ us k, PlainUnit t u ∧ u.attr = at_) →
      UpToDate t i ((ok.flatMap us).map fun u => memKey u.pa) →
      ∃ v w, exec x s = .next w ∧ CachesMove (loadBegun s i c g f) v ∧ MemKept s v ∧
        Posted v w i c (begun g f) .load f.d { lanes := ok.map fun k =>
          (k.lane.slot, unitsVal f.binary ((us k).map fun u => (unitAt t at_.key f.binary u.pa).getD 0)) }

/-- A vector load from the scratchpad lands, in each lane of the guard, the trits of the nonets at its address, the first the
lowest, where the core has seen the last writes to them; nothing else changes but what is known of earlier writes (R13, R264,
R267). A waiting load needs its blocks present (R73). -/
def Sys2Proof.Claims.LoadScratch : Prop :=
  ∀ (x : Instr) (f : Form) (s : State) (i : Issue) (c : Nat) (g : Group),
    loadLaw x = some f → f.binary = false → GroupRuns s i c g → f.d < g.nf → WriteFree g f.d →
    (f.word = true → ∀ l ∈ lanes s i g f, l.e % 3 = 0) →
    ScratchClear s i g (getA s i f.a) .load (lanes s i g f) →
    (∀ l ∈ lanes s i g f, ∀ j : Nat, j < l.n → spParity s (clusterOf i.core) (l.e + j) = false) →
    (f.waits = true → ∀ l ∈ lanes s i g f, spPresent s (clusterOf i.core) l.e = true ∧
      spPresent s (clusterOf i.core) (l.e + l.n - 1) = true) →
    UpToDate s i ((lanes s i g f).flatMap fun l =>
      (List.range f.n).map fun (j : Nat) => spKey (clusterOf i.core) (l.e + j)) →
    ∃ w known took, exec x s = .next w ∧
      Posted { loadBegun s i c g f with late := known, taken := took } w i c (begun g f) .load f.d
      { lanes := i.guard.map fun k => (k, scratchValue s (clusterOf i.core) (ea s i g f k) f.n) }

/-- Vector loads: from any place, and what they read in the scratchpad (R264 to R269, R275). -/
def Obligations.VectorLoadResult : Prop := LoadAnyPlace ∧ LoadMemory ∧ LoadScratch

/-- A vector store to the scratchpad completes: each lane writes its data's low trits at its address, the highest slot last
(R97), and sets its blocks present (R72); every other nonet of every scratchpad, memory, host memory and every register
are as they were. Where a release names the stream path, the combining buffer is taken to be empty; it does not have to wait for
writes that are not yet performed at its scope (R351). -/
def Sys2Proof.Claims.ScratchStoreResult : Prop :=
  ∀ (x : Instr) (f : Form) (s : State) (i : Issue) (c : Nat) (g : Group),
    storeLaw x = some f → f.binary = false → GroupRuns s i c g →
    (f.word = true → ∀ l ∈ lanes s i g f, l.e % 3 = 0) →
    (∀ a b o r e, x = .st27Rel a b o r e → mustWait s i.core (orderScope o) = false ∧
      (Path.stream ∈ orderMask o → (getCore s i.core).comb = [])) →
    ScratchClear s i g (getA s i f.a) .store (lanes s i g f) →
    ∃ w, exec x s = .next w ∧
      (∀ k j (l : List Nat) (r : List Nat), i.guard = l ++ k :: r → j < f.n →
        (∀ k' ∈ r, ea s i g f k' + f.n ≤ ea s i g f k + j ∨ ea s i g f k + j < ea s i g f k') →
        spRead w (clusterOf i.core) (ea s i g f k + j) =
          trits (laneVal (vsrc s i g.width f.data) g.items k) (9 * j + 8) (9 * j) ∧
        spPresent w (clusterOf i.core) (ea s i g f k + j) = true) ∧
      (∀ cl a, 0 ≤ a → (cl ≠ clusterOf i.core ∨
          ∀ k ∈ i.guard, a < ea s i g f k ∨ ea s i g f k + f.n ≤ a) → spRead w cl a = spRead s cl a) ∧
      w.mem = s.mem ∧ w.host = s.host ∧ (∀ j, getGroup w i.core j = getGroup s i.core j) ∧ w.dies = s.dies ∧ w.teams = s.teams ∧ w.launches = s.launches

namespace Sys2Proof.Claims

/-- The writes of the units of checked accesses of a store to memory, in ascending slot. -/
def laneWrites (s : State) (i : Issue) (g : Group) (f : Form) (ok : List Checked) : List (Machine.PUnit × Int) :=
  ok.flatMap fun k => match k.place with
    | .mem us => us.zip (valUnits f.binary f.n (laneVal (vsrc s i g.width f.data) g.items k.lane.slot))
    | _ => []
/-- Is it a non-temporal store? -/
def nonTemporal : Instr → Bool
  | .stnt9 .. | .stnt27 .. => true
  | _ => false
/-- What writes to one block leave: at each place the last value written there, else what stood there. -/
def LastWrites (b : Int) (ws : List (Machine.PUnit × Int)) (old : Nat → Option Int) (ps : SMap Int) : Prop :=
  (∀ l u v r, ws = l ++ (u, v) :: r → (∀ p ∈ r, p.1.pa ≠ u.pa) → mfind ps (u.pa % 27).toNat = some v) ∧
  ∀ j : Nat, j < 27 → (∀ p ∈ ws, p.1.pa ≠ 27 * b + j) → mfind ps j = old j
/-- Do writes cover a block, with what stands there? -/
def CoverBlock (b : Int) (ws : List (Machine.PUnit × Int)) (old : Nat → Option Int) : Prop :=
  ∀ j : Nat, j < 27 → (∃ p ∈ ws, p.1.pa = 27 * b + j) ∨ (old j).isSome = true
/-- A nonet of a host window's block; none where the block's codes are rejected (R37, R49). -/
def hostNonet (s : State) (pa : Int) : Option Int :=
  match readHostBlock s (pa / 27) with
  | .ok l => some (l.getD (pa % 27).toNat 0)
  | .error _ => none
/-- An address of a host window: its frame is one of 24 trits, of the region given, with an index from 0 on (R47, R49). -/
def InHost (r pa : Int) : Prop :=
  InTrits 24 (frameOf pa) ∧ frameRegion (frameOf pa) = r ∧ 0 ≤ frameIndex (frameOf pa)

end Sys2Proof.Claims

/-- A core-path vector store to plain memory, of a write-back, home-only or uncached page, completes: the units that its lanes'
addresses translate to hold the lanes' data, where two lanes meet that of the higher slot (R97), and every other unit that such a page
shows reads as before; scratchpads, host memory and registers are as they were. A release does not have to wait for writes not yet
performed at its scope, and does not name the stream path (R110, R351). -/
def Sys2Proof.Claims.MemoryStoreResult : Prop :=
  ∀ (x : Instr) (f : Form) (s : State) (i : Issue) (c : Nat) (g : Group) (ok : List Checked) (t : State),
    storeLaw x = some f → nonTemporal x = false →
    (∀ a b o r e, x = .st27Rel a b o r e → mustWait s i.core (orderScope o) = false ∧
      mustWait t i.core (orderScope o) = false ∧ Path.stream ∉ orderMask o) → GroupRuns s i c g →
    Clear s i g (getA s i f.a) .store f.binary (fun e => !f.word || decide (e % 3 = 0)) (lanes s i g f) ok t →
    ∀ (at_ : Attr) (ws : List (Machine.PUnit × Int)),
      (∀ k ∈ ok, ∃ us, k.place = .mem us) → ws = laneWrites s i g f ok → StorePolicy at_.policy f.strong →
      (∀ p ∈ ws, PlainUnit t p.1 ∧ p.1.attr = at_ ∧ at_.binary = f.binary) →
      ∃ w, exec x s = .next w ∧
        (∀ l u v r, ws = l ++ (u, v) :: r → (∀ p ∈ r, p.1.pa ≠ u.pa) → unitAt w at_.key f.binary u.pa = some v) ∧
        (∀ pa, (∀ p ∈ ws, p.1.pa ≠ pa) → unitAt w at_.key f.binary pa = unitAt t at_.key f.binary pa) ∧
        CachesMove (restartsAfter s i at_.policy) w

/-- A stream store, non-temporal or to a write-combining page, whose lanes write one block of memory (R77, R78, R110, R272): it begins an
entry of the core's combining buffer, or joins its block's entry under the same key index and view, and nothing else changes; one that
covers its block alone is sent, memory then holds it, and every other block reads as before. -/
def Sys2Proof.Claims.StreamStoreResult : Prop :=
  ∀ (x : Instr) (f : Form) (s : State) (i : Issue) (c : Nat) (g : Group) (ok : List Checked) (t : State) (at_ : Attr) (b : Int)
    (ws : List (Machine.PUnit × Int)),
    storeLaw x = some f → f.order = none → GroupRuns s i c g →
    Clear s i g (getA s i f.a) .store f.binary (fun e => !f.word || decide (e % 3 = 0)) (lanes s i g f) ok t →
    (∀ k ∈ ok, ∃ us, k.place = .mem us) → ws = laneWrites s i g f ok → (∀ p ∈ ws, p.1.pa / 27 = b ∧ p.1.attr = at_) →
    at_.binary = f.binary → 1 ≤ frameRegion (blockFrame b) → frameRegion (blockFrame b) ≤ 3 → 0 ≤ b →
    nonTemporal x = true ∨ at_.policy = 2 ∧ f.strong = 0 →
    let es := (getCore t i.core).comb
    let buffer (l : List CombEntry) : State := updCore (restartsAfter t i at_.policy) i.core fun k => { k with comb := l }
    let new : CombEntry := { block := b, key := at_.key, binary := at_.binary, super := at_.super, places := [] }
    ((∀ e ∈ es, e.block ≠ b) → es.length < 9 → ¬ CoverBlock b ws (fun _ => none) →
      ∃ ps, LastWrites b ws (fun _ => none) ps ∧ exec x s = .next (buffer (es ++ [{ new with places := ps }]))) ∧
    (∀ l e r, es = l ++ e :: r → e.block = b → (∀ h ∈ l ++ r, h.block ≠ b) → e.key = at_.key → e.binary = at_.binary →
      e.cover = [] → ¬ CoverBlock b ws (mfind e.places) →
      ∃ ps, LastWrites b ws (mfind e.places) ps ∧ exec x s = .next (buffer (l ++ { e with places := ps } :: r))) ∧
    ((∀ e ∈ es, e.block ≠ b) → es.length < 9 → CoverBlock b ws (fun _ => none) →
      ∃ w, exec x s = .next w ∧ (getCore w i.core).comb = es ∧
        (∀ l u v r, ws = l ++ (u, v) :: r → (∀ p ∈ r, p.1.pa ≠ u.pa) → unitAt w at_.key f.binary u.pa = some v) ∧
        ∀ pa, pa / 27 ≠ b → unitAt w at_.key f.binary pa = unitAt t at_.key f.binary pa)

/-- A store to a host window that does not gather (R49, R77): to region -1 it rewrites its T-image blocks, in which the places that it
writes hold the data and the others what they held; to region -2 it writes its bytes. Every other byte of host memory, and everything
else but the code versions kept for launches, is as before. -/
def Sys2Proof.Claims.HostStoreResult : Prop :=
  ∀ (x : Instr) (f : Form) (s : State) (i : Issue) (c : Nat) (g : Group) (ok : List Checked) (t : State) (at_ : Attr)
    (ws : List (Machine.PUnit × Int)),
    storeLaw x = some f → f.order = none → nonTemporal x = false → GroupRuns s i c g →
    Clear s i g (getA s i f.a) .store f.binary (fun e => !f.word || decide (e % 3 = 0)) (lanes s i g f) ok t →
    (∀ k ∈ ok, ∃ us, k.place = .mem us) → ws = laneWrites s i g f ok → StorePolicy at_.policy f.strong → at_.binary = f.binary →
    ((∀ p ∈ ws, InHost (-1) p.1.pa ∧ p.1.attr = at_ ∧ (readHostBlock t (p.1.pa / 27)).isOk = true) → f.binary = false →
      ∃ h code, let w := { restartsAfter t i at_.policy with host := h, code := code }
        exec x s = .next w ∧
        (∀ l u v r, ws = l ++ (u, v) :: r → (∀ p ∈ r, p.1.pa ≠ u.pa) → hostNonet w u.pa = some v) ∧
        (∀ pa, InHost (-1) pa → (∀ p ∈ ws, p.1.pa ≠ pa) → hostNonet w pa = hostNonet t pa) ∧
        ∀ a, (∀ p ∈ ws, a < hostBlockAddr t (p.1.pa / 27) ∨ hostBlockAddr t (p.1.pa / 27) + 49 ≤ a) →
          hostByte w a = hostByte t a) ∧
    ((∀ p ∈ ws, InHost (-2) p.1.pa ∧ p.1.attr = at_) → f.binary = true →
      ∃ h code, let w := { restartsAfter t i at_.policy with host := h, code := code }
        exec x s = .next w ∧
        (∀ l u v r, ws = l ++ (u, v) :: r → (∀ p ∈ r, p.1.pa ≠ u.pa) → ((hostByte w (hostByteAddr t u.pa)).toNat : Int) = v) ∧
        ∀ a, (∀ p ∈ ws, hostByteAddr t p.1.pa ≠ a) → hostByte w a = hostByte t a)

/-- A store to one block of a peer's window leaves the package as one request for the peer's block: a full write where it covers the
block, else a partial write, with the data of its lanes (R364). -/
def Sys2Proof.Claims.PeerStoreResult : Prop :=
  ∀ (x : Instr) (f : Form) (s : State) (i : Issue) (c : Nat) (g : Group) (ok : List Checked) (t : State) (at_ : Attr) (b : Int)
    (ws : List (Machine.PUnit × Int)),
    storeLaw x = some f → f.order = none → nonTemporal x = false → GroupRuns s i c g →
    Clear s i g (getA s i f.a) .store f.binary (fun e => !f.word || decide (e % 3 = 0)) (lanes s i g f) ok t →
    (∀ k ∈ ok, ∃ us, k.place = .mem us) → ws = laneWrites s i g f ok → (∀ p ∈ ws, p.1.pa / 27 = b ∧ p.1.attr = at_) →
    StorePolicy at_.policy f.strong → frameRegion (blockFrame b) < -2 → peerReached (getPort t (peerPort b)) b = true →
    let p := getPort t (peerPort b)
    ∃ ps m op part, LastWrites b ws (fun _ => none) ps ∧
      exec x s = .next (setPort (restartsAfter t i at_.policy) (peerPort b) { p with out := p.out ++ [(msgBytes 0 op m, part)] }) ∧
      m.line = lineOf (peerBlock p b) ∧ m.blocks = [blockIn (peerBlock p b)] ∧
      (CoverBlock b ws (fun _ => none) → op = 4 ∧ part = [] ∧ ∃ l, m.block = some l ∧ ∀ j : Nat, j < 27 → l[j]? = mfind ps j) ∧
      (¬ CoverBlock b ws (fun _ => none) → op = 5 ∧ part = ps ∧ m.block = none)

/-- Vector stores to the scratchpad, to memory on the core's path and on the stream path, and to the windows of the host and of peers
(R49, R72, R77, R78, R97, R110, R264 to R268, R272, R275, R364). -/
def Obligations.VectorStoreResult : Prop :=
  ScratchStoreResult ∧ MemoryStoreResult ∧ StreamStoreResult ∧ HostStoreResult ∧ PeerStoreResult

namespace Sys2Proof.Claims

/-- The address of an access made once for the group (R270). -/
def uniAddr (s : State) (i : Issue) (a : Nat) (off : Opd) : Int := (getA s i a).ptr + uVal (vsrc s i 0 off)

/-- The uniform loads: address register, offset, nonets, alignment, the registers that wait and what lands in them (R270, R271). -/
def uniLoadLaw : Instr → Option (Nat × Opd × Nat × (Int → Bool) × List Reg × (Int → Landing))
  | .lds27 d a b => some (a, b, 3, fun _ => true, [.s d], fun v => { words := [(.s d, v)] })
  | .lds54 d a b =>
    some (a, b, 6, fun e => decide (e % 6 = 0 ∧ e % 27 ≤ 21), [.s d, .s (d + 1)],
      fun v => { words := [(.s d, trits v 26 0), (.s (d + 1), trits v 53 27)] })
  | .ldsp d a b => some (a, b, 4, fun e => decide (e % 27 ≤ 23), [.a d], fun v => { ptr := some v })
  | _ => none

/-- The uniform stores: address register, offset, nonets, alignment and the value stored (R270, R271). -/
def uniStoreLaw (s : State) (i : Issue) : Instr → Option (Nat × Opd × Nat × (Int → Bool) × Int)
  | .sts27 d a b => some (a, b, 3, fun _ => true, mget 0 (srcRegs s i).s d)
  | .sts54 d a b =>
    some (a, b, 6, fun e => decide (e % 6 = 0 ∧ e % 27 ≤ 21),
      mget 0 (srcRegs s i).s d + 3 ^ 27 * mget 0 (srcRegs s i).s (d + 1))
  | .stsp d a b => some (a, b, 4, fun e => decide (e % 27 ≤ 23), (getA s i d).ptr)
  | _ => none

/-- Registers of the group are pending and `land` is bound to land in them; nothing else has changed (R208). -/
def WordsPosted (s t : State) (i : Issue) (c : Nat) (g : Group) (kind : PendKind) (regs : List Reg) (land : Landing) : Prop :=
  t = push { setGroup s i.core c { g with
      pending := g.pending ++ [{ id := s.nextId, kind := kind, regs := regs, land := some land
                                 inHandler := g.r.tr.inHandler, pc := i.pc }] } with nextId := s.nextId + 1 }
    (.valueLanding i.core c s.nextId)

/-- The nonets of a scratchpad other than `n` from `e` are as they were. -/
def ScratchKept (s t : State) (cl : Nat) (e : Int) (n : Nat) : Prop :=
  ∀ k a, 0 ≤ a → (k ≠ cl ∨ a < e ∨ e + n ≤ a) → spRead t k a = spRead s k a

/-- Memory, host memory, contexts, dies, teams and launches are as they were. -/
def RestKept (s t : State) : Prop :=
  t.mem = s.mem ∧ t.host = s.host ∧ (∀ core j, getGroup t core j = getGroup s core j) ∧ t.dies = s.dies ∧
  t.teams = s.teams ∧ t.launches = s.launches

end Sys2Proof.Claims

/-- A uniform load whose one access passes the checks completes: its registers are pending and the value of its nonets lands in
them: from the scratchpad and from plain memory what the last writes left, where the core has seen those (R98, R270, R271). -/
def Sys2Proof.Claims.UniformLoad : Prop :=
  ∀ (x : Instr) (a : Nat) (off : Opd) (n : Nat) (al : Int → Bool) (regs : List Reg) (land : Int → Landing) (s : State)
    (i : Issue) (c : Nat) (g : Group) (k : Checked) (t : State),
    uniLoadLaw x = some (a, off, n, al, regs, land) → GroupRuns s i c g →
    Clear s i g (getA s i a) .load false al [{ slot := 0, e := uniAddr s i a off, n := n }] [k] t →
    (∀ l u, readChecked (requestLoad t i.core false (memUnits [k])) i.core 0 false k = (.ok l, u) →
      ∃ w, exec x s = .next w ∧ WordsPosted u w i c g .load regs (land (ofNonets l)) ∧ CachesMove s u ∧ MemKept s u) ∧
    (∀ us at_, k.place = .mem us → at_.binary = false → (∀ u ∈ us, PlainUnit t u ∧ u.attr = at_) →
      UpToDate t i (us.map fun u => memKey u.pa) →
      ∃ u w, exec x s = .next w ∧ CachesMove s u ∧ MemKept s u ∧
        WordsPosted u w i c g .load regs (land (ofNonets (us.map fun u => (unitAt t at_.key false u.pa).getD 0)))) ∧
    (k.place = .sp → (∀ j : Nat, j < n → spParity t (clusterOf i.core) (uniAddr s i a off + j) = false) →
      UpToDate t i ((List.range n).map fun (j : Nat) => spKey (clusterOf i.core) (uniAddr s i a off + j)) →
      ∃ w known, exec x s = .next w ∧ WordsPosted { t with late := known } w i c g .load regs
        (land (scratchValue t (clusterOf i.core) (uniAddr s i a off) n)))

/-- A uniform store completes: through a scratch register its nonets hold the value and every other nonet is as before; in
plain memory the units that its address translates to hold it and every other unit that such a page shows reads as before; no
register changes (R270, R271). -/
def Sys2Proof.Claims.UniformStore : Prop :=
  ∀ (x : Instr) (a : Nat) (off : Opd) (n : Nat) (al : Int → Bool) (v : Int) (s : State) (i : Issue) (c : Nat) (g : Group),
    uniStoreLaw s i x = some (a, off, n, al, v) → GroupRuns s i c g → al (uniAddr s i a off) = true →
    (ScratchClear s i g (getA s i a) .store [{ slot := 0, e := uniAddr s i a off, n := n }] →
      ∃ t, exec x s = .next t ∧
        (∀ j, j < n → spRead t (clusterOf i.core) (uniAddr s i a off + j) = trits v (9 * j + 8) (9 * j)) ∧
        ScratchKept s t (clusterOf i.core) (uniAddr s i a off) n ∧ RestKept s t) ∧
    (∀ us t at_, Clear s i g (getA s i a) .store false al [{ slot := 0, e := uniAddr s i a off, n := n }]
        [{ lane := { slot := 0, e := uniAddr s i a off, n := n }, place := .mem us }] t →
      (∀ u ∈ us, PlainUnit t u ∧ u.attr = at_) → at_.binary = false → StorePolicy at_.policy 0 → (us.map (·.pa)).Nodup →
      ∃ w, exec x s = .next w ∧
        (∀ j u, j < n → us[j]? = some u → unitAt w at_.key false u.pa = some (trits v (9 * j + 8) (9 * j))) ∧
        (∀ pa, (∀ u ∈ us, u.pa ≠ pa) → unitAt w at_.key false pa = unitAt t at_.key false pa) ∧
        CachesMove (restartsAfter s i at_.policy) w)

/-- Uniform loads and stores (R270, R271). -/
def Obligations.UniformAccess : Prop := UniformLoad ∧ UniformStore

/-! ## Packed accesses -/

/-- An element of a packed block read from the nonets that it touches is the element at its stream positions (R38, R266). -/
def Sys2Proof.Claims.PackedElement : Prop :=
  ∀ (l : List Int) (w p : Nat), l.length = 27 → (∀ x ∈ l, InTrits 9 x) → 2 ≤ w → w ≤ 9 → p + w ≤ 243 →
    trits (ofNonets ((l.drop (p / 9)).take ((p + w - 1) / 9 - p / 9 + 1))) (p % 9 + w - 1) (p % 9) =
      trits (ofNonets l) (p + w - 1) p

namespace Sys2Proof.Claims

/-- Where the element of a lane of a packed access stands: its block's address and its first stream position (R266). -/
def elemBlock (ptr : Int) (w : Nat) (j : Int) : Int := ptr + 27 * (j / (243 / w : Nat))
def elemPos (w : Nat) (j : Int) : Nat := (j % (243 / w : Nat)).toNat * w
/-- The element number of a lane: offset and displacement. -/
def elemNum (s : State) (i : Issue) (g : Group) (off : Opd) (disp : Int) (k : Nat) : Int :=
  laneVal (vsrc s i g.width off) g.items k + disp
/-- The lanes of a packed access: the nonets that each element touches. -/
def elemLanes (s : State) (i : Issue) (g : Group) (a : AReg) (off : Opd) (disp : Int) (w : Nat) : List Lane :=
  i.guard.map fun k =>
    let p := elemPos w (elemNum s i g off disp k)
    { slot := k, e := elemBlock a.ptr w (elemNum s i g off disp k) + (p / 9 : Nat), n := (p + w - 1) / 9 - p / 9 + 1 }
/-- Trit `p` of the stream of a scratchpad block. -/
def scratchTrit (s : State) (cl : Nat) (base : Int) (p : Nat) : Int := trit (spRead s cl (base + (p / 9 : Nat))) (p % 9)

end Sys2Proof.Claims

/-- `ldpk` completes: each lane lands the trits of its element (R266). -/
def Sys2Proof.Claims.PackedLoad : Prop :=
  ∀ (d : Nat) (off : Opd) (w x : Nat) (disp : Int) (s : State) (i : Issue) (c : Nat) (g : Group) (ok : List Checked)
    (t : State), 2 ≤ w → w ≤ 9 → GroupRuns s i c g → d < g.nf → WriteFree g d → (getA s i x).ptr % 27 = 0 →
    Clear s i g (getA s i x) .load false (fun _ => true) (elemLanes s i g (getA s i x) off disp w) ok t →
    ∃ vs bad u v r, readLanes i.core 0 ok (requestLoad t i.core (formF s i g off) (memUnits ok)) = (vs, bad, u) ∧
      exec (.ldpk d off w x disp) s = .next r ∧
      Posted v r i c g .load d { lanes := vs.map fun p =>
        let q := elemPos w (elemNum s i g off disp p.1) % 9
        (p.1, trits (ofNonets p.2) (q + w - 1) q), fails := bad } ∧
      CachesMove s v ∧ MemKept s v

/-- `stpk` to the scratchpad completes: in each block that it touches every lane's element stands at its positions, the highest
slot last where two lanes meet, the spare trits are 0, and every other trit of it is as before; every other block and the
rest of the package are as before (R38, R266). -/
def Sys2Proof.Claims.PackedStore : Prop :=
  ∀ (off v : Opd) (w x : Nat) (disp : Int) (s : State) (i : Issue) (c : Nat) (g : Group), 2 ≤ w → w ≤ 9 → GroupRuns s i c g →
    (getA s i x).ptr % 27 = 0 →
    ScratchClear s i g (getA s i x) .store (elemLanes s i g (getA s i x) off disp w) →
    let num := elemNum s i g off disp
    let blk (k : Nat) := elemBlock (getA s i x).ptr w (num k)
    (∀ k ∈ i.guard, ∀ a, blk k ≤ a → a < blk k + 27 → InTrits 9 (spRead s (clusterOf i.core) a)) →
    ∃ t, exec (.stpk off v w x disp) s = .next t ∧
      (∀ k l r, i.guard = l ++ k :: r → (∀ k' ∈ r, num k' ≠ num k) → ∀ j, j < w →
        scratchTrit t (clusterOf i.core) (blk k) (elemPos w (num k) + j) =
          trit (laneVal (vsrc s i g.width v) g.items k) j) ∧
      (∀ k ∈ i.guard, ∀ p, p < 243 → 243 / w * w ≤ p → scratchTrit t (clusterOf i.core) (blk k) p = 0) ∧
      (∀ k ∈ i.guard, ∀ p, p < 243 / w * w →
        (∀ k' ∈ i.guard, blk k' = blk k → p < elemPos w (num k') ∨ elemPos w (num k') + w ≤ p) →
        scratchTrit t (clusterOf i.core) (blk k) p = scratchTrit s (clusterOf i.core) (blk k) p) ∧
      (∀ cl a, 0 ≤ a → (cl ≠ clusterOf i.core ∨ ∀ k ∈ i.guard, a < blk k ∨ blk k + 27 ≤ a) →
        spRead t cl a = spRead s cl a) ∧ RestKept s t

/-- `stpk` to plain memory, of a write-back, home-only or uncached page, completes in the same way in the blocks that its lanes'
addresses translate to: every lane's element stands at its positions, the highest slot last where two meet, through whatever addresses
(R97), the spare trits are 0, every other trit of such a block and every other block are as before (R38, R266). -/
def Sys2Proof.Claims.PackedStoreMemory : Prop :=
  ∀ (off v : Opd) (w x : Nat) (disp : Int) (s : State) (i : Issue) (c : Nat) (g : Group) (ok : List Checked) (t : State)
    (at_ : Attr) (pb : Nat → Int), 2 ≤ w → w ≤ 9 → GroupRuns s i c g → (getA s i x).ptr % 27 = 0 →
    Clear s i g (getA s i x) .store false (fun _ => true) (elemLanes s i g (getA s i x) off disp w) ok t →
    at_.binary = false → StorePolicy at_.policy 0 →
    (∀ k ∈ ok, ∃ u us, k.place = .mem (u :: us) ∧ u.pa / 27 = pb k.lane.slot ∧ PlainUnit t u ∧ u.attr = at_) →
    let at0 (k : Nat) : Nat := elemPos w (elemNum s i g off disp k)
    let memTrit (s : State) (b : Int) (p : Nat) : Int := trit ((unitAt s at_.key false (27 * b + (p / 9 : Nat))).getD 0) (p % 9)
    ∃ r, exec (.stpk off v w x disp) s = .next r ∧
      (∀ k l r', i.guard = l ++ k :: r' → (∀ k' ∈ r', ¬ (pb k' = pb k ∧ at0 k' = at0 k)) → ∀ j, j < w →
        memTrit r (pb k) (at0 k + j) = trit (laneVal (vsrc s i g.width v) g.items k) j) ∧
      (∀ k ∈ i.guard, ∀ p, p < 243 → 243 / w * w ≤ p → memTrit r (pb k) p = 0) ∧
      (∀ k ∈ i.guard, ∀ p, p < 243 / w * w →
        (∀ k' ∈ i.guard, pb k' = pb k → p < at0 k' ∨ at0 k' + w ≤ p) → memTrit r (pb k) p = memTrit t (pb k) p) ∧
      (∀ pa, (∀ k ∈ i.guard, pa / 27 ≠ pb k) → unitAt r at_.key false pa = unitAt t at_.key false pa) ∧
      CachesMove (restartsAfter s i at_.policy) r

/-- Packed loads and stores, and where a packed element stands (R38, R266). -/
def Obligations.PackedResult : Prop := PackedElement ∧ PackedLoad ∧ PackedStore ∧ PackedStoreMemory

/-! ## Atomics -/

namespace Sys2Proof.Claims

/-- What an atomic writes, of the old value, the operand and the destination's old value: none where it writes nothing; with
the flags it raises (R276); before it the destination, the operands, the order, the address register, the displacement. -/
def atomLaw : Instr → Option (Nat × Opd × Opd × Int × Nat × Int × (Int → Int → Int → Option Int × Flags))
  | .atmAdd d a b o x e => some (d, a, b, o, x, e, fun m b _ => (some (wrap 27 (m + b)), {}))
  | .atmAdds d a b o x e => some (d, a, b, o, x, e, fun m b _ => (some (sat 27 (m + b)), {}))
  | .atmMin d a b o x e => some (d, a, b, o, x, e, fun m b _ => (some (if m ≤ b then m else b), {}))
  | .atmMax d a b o x e => some (d, a, b, o, x, e, fun m b _ => (some (if m ≤ b then b else m), {}))
  | .atmTmin d a b o x e => some (d, a, b, o, x, e, fun m b _ => (some (tmin m b), {}))
  | .atmTmax d a b o x e => some (d, a, b, o, x, e, fun m b _ => (some (tmax m b), {}))
  | .atmSwap d a b o x e => some (d, a, b, o, x, e, fun _ b _ => (some b, {}))
  | .atmCas d a b o x e => some (d, a, b, o, x, e, fun m b v => (if m = b then some v else none, {}))
  | .atmFadd d a b o x e => some (d, a, b, o, x, e, fun m b _ =>
      (some (faddV fmtT27 (t27 m) (t27 b)).enc, (faddV fmtT27 (t27 m) (t27 b)).fl))
  | _ => none

/-- Atomics one after another over words: a lane's slot, address, operand and destination's old value; what each returns, the
words they leave and the flags raised. -/
def atomRun (f : Int → Int → Int → Option Int × Flags) :
    List (Nat × Int × Int × Int) → (Int → Int) → Flags → List (Nat × Int) × (Int → Int) × Flags
  | [], m, fl => ([], m, fl)
  | (k, e, b, x) :: l, m, fl =>
    let r := f (m e) b x
    let q := atomRun f l (fun a => if a = e then wrap 27 (r.1.getD (m e)) else m a) (fl.or r.2)
    ((k, m e) :: q.1, q.2)

/-- The atomics of the lanes of the guard, in ascending slot. -/
def atomLanes (s : State) (i : Issue) (g : Group) (d : Nat) (off b : Opd) (x : Nat) (disp : Int) :
    List (Nat × Int × Int × Int) :=
  i.guard.map fun k => (k, (getA s i x).ptr + laneVal (vsrc s i g.width off) g.items k + disp,
    laneVal (vsrc s i g.width b) g.items k, laneVal (vsrc s i g.width (.reg d)) g.items k)

end Sys2Proof.Claims

/-- The atomics complete in the scratchpad, where the core has seen the last writes to their words and a release does not have to
wait for writes not yet performed at its scope: the lanes read and write their words one after another in ascending slot,
each landing the value it met, and every other nonet, memory and every other register are as before (R97, R276, R277). -/
def Sys2Proof.Claims.AtomicScratch : Prop :=
  ∀ (y : Instr) (d : Nat) (off b : Opd) (o : Int) (x : Nat) (disp : Int) (f : Int → Int → Int → Option Int × Flags) (s : State)
    (i : Issue) (c : Nat) (g : Group), atomLaw y = some (d, off, b, o, x, disp, f) → GroupRuns s i c g → d < g.nf →
    WriteFree g d → (atmReleases o = true → mustWait s i.core (atmScope o) = false) →
    let ls := atomLanes s i g d off b x disp
    let cl := clusterOf i.core
    (∀ l ∈ ls, l.2.1 % 3 = 0) →
    ScratchClear s i g (getA s i x) .atomic (ls.map fun l => { slot := l.1, e := l.2.1, n := 3 }) →
    (∀ l ∈ ls, ∀ j : Nat, j < 3 → spParity s cl (l.2.1 + j) = false) →
    (∀ l ∈ ls, ∀ j : Nat, j < 3 → InTrits 9 (spRead s cl (l.2.1 + j))) →
    UpToDate s i (ls.flatMap fun l => (List.range 3).map fun (j : Nat) => spKey cl (l.2.1 + j)) →
    let q := atomRun f ls (fun e => scratchValue s cl e 3) {}
    ∃ u t, exec y s = .next t ∧ Posted u t i c g .atomic d { lanes := q.1, flags := q.2.2 } ∧ u.cores = s.cores ∧
      (∀ l ∈ ls, scratchValue t cl l.2.1 3 = q.2.1 l.2.1) ∧
      (∀ k a, 0 ≤ a → (k ≠ cl ∨ ∀ l ∈ ls, a < l.2.1 ∨ l.2.1 + 3 ≤ a) → spRead t k a = spRead s k a) ∧
      t.mem = s.mem ∧ t.host = s.host ∧ t.dies = s.dies

/-- The atomics complete in plain memory in the same way: the words that the lanes' addresses translate to are read and written
one after another in ascending slot, and every other unit that such a page shows is as before (R97, R276, R277). -/
def Sys2Proof.Claims.AtomicMemory : Prop :=
  ∀ (y : Instr) (d : Nat) (off b : Opd) (o : Int) (x : Nat) (disp : Int) (f : Int → Int → Int → Option Int × Flags) (s : State)
    (i : Issue) (c : Nat) (g : Group) (ok : List Checked) (t : State), atomLaw y = some (d, off, b, o, x, disp, f) →
    GroupRuns s i c g → d < g.nf → WriteFree g d → (atmReleases o = true → mustWait s i.core (atmScope o) = false) →
    Clear s i g (getA s i x) .atomic false (fun e => decide (e % 3 = 0))
      ((atomLanes s i g d off b x disp).map fun l => { slot := l.1, e := l.2.1, n := 3 }) ok t →
    ∀ (at_ : Attr) (pa : Nat → Int), at_.binary = false →
      (∀ k ∈ ok, ∃ us, k.place = .mem us ∧ us.map (·.pa) = [pa k.lane.slot, pa k.lane.slot + 1, pa k.lane.slot + 2] ∧
        ∀ u ∈ us, PlainUnit t u ∧ u.attr = at_) →
      UpToDate t i (ok.flatMap fun k => (List.range 3).map fun (j : Nat) => memKey (pa k.lane.slot + j)) →
      let word (s : State) (e : Int) : Int :=
        ofNonets ((List.range 3).map fun (j : Nat) => (unitAt s at_.key false (e + j)).getD 0)
      let ls := (atomLanes s i g d off b x disp).map fun l => (l.1, pa l.1, l.2.2)
      let q := atomRun f ls (word t) {}
      ∃ u w, exec y s = .next w ∧ Posted u w i c g .atomic d { lanes := q.1, flags := q.2.2 } ∧
        CachesMove s { u with issue := s.issue } ∧ (∀ l ∈ ls, word w l.2.1 = q.2.1 l.2.1) ∧
        ∀ p, (∀ l ∈ ls, p < l.2.1 ∨ l.2.1 + 3 ≤ p) → unitAt w at_.key false p = unitAt t at_.key false p

/-! ## Checks, waits, fences -/

/-- The state with the combining buffer sent, for a release that names the stream path (R102, R275). -/
def Sys2Proof.Claims.sent (s : State) (i : Issue) : Instr → State
  | .st27Rel _ _ o _ _ => if Path.stream ∈ orderMask o then drainBuffer s i.core else s
  | _ => s

/-- The checks of R265 in their order: a destination beyond the full registers (class 2), a misaligned word (class 6), a failing
register check or translation (class 5, each lane with its cause and level), an access outside the scratchpad (class 8,
unless suppressed). The trap names the lanes that meet the class, and no lane has accessed anything. -/
def Sys2Proof.Claims.AccessChecks : Prop :=
  ∀ (x : Instr) (f : Form) (load : Bool) (s : State) (i : Issue) (c : Nat) (g : Group),
    (if load then loadLaw x = some f else storeLaw x = some f) → GroupRuns s i c g →
    (∀ a b o r e, x = .st27Rel a b o r e → mustWait (sent s i x) i.core (orderScope o) = false) →
    let kind := if load then AccKind.load else .store
    let bad := (lanes s i g f).filter fun l => f.word && decide (l.e % 3 ≠ 0)
    (load = true → g.nf ≤ f.d → ∃ t, exec x s = .next t ∧ Traps s t i c 2 (plainLanes (activeLanes g))) ∧
    ((load = true → f.d < g.nf ∧ WriteFree g f.d) →
      (bad ≠ [] → ∃ t, exec x s = .next t ∧ Traps (sent s i x) t i c 6 (bad.map fun l => { slot := l.slot, addr := l.e })) ∧
      (∀ ok es u, bad = [] → checkLanes (xlOf i.core (srcRegs s i)) (clusterOf i.core) (getA s i f.a) kind f.binary
          (lanes s i g f) (sent s i x) = (ok, es, u) →
        (es ≠ [] → ∃ t, exec x s = .next t ∧ Traps u t i c 5 es) ∧
        (es = [] → g.r.suppress = false → (∃ k ∈ ok, k.place = .out) → ∃ t, exec x s = .next t ∧
          Traps u t i c 8 ((ok.filter fun k => k.place == .out).map fun k => { slot := k.lane.slot, addr := k.lane.e }))))

/-- An atomic whose target lies outside regions +1 to +3 raises the atomic-target fault, class 7, in the lanes concerned, and
performs nothing (R265, R277). -/
def Sys2Proof.Claims.AtomicTargetTraps : Prop :=
  ∀ (y : Instr) (d : Nat) (off b : Opd) (o : Int) (x : Nat) (disp : Int) (f : Int → Int → Int → Option Int × Flags) (s : State)
    (i : Issue) (c : Nat) (g : Group) (ok : List Checked) (u : State),
    atomLaw y = some (d, off, b, o, x, disp, f) → GroupRuns s i c g → d < g.nf → WriteFree g d →
    (atmReleases o = true → mustWait s i.core (atmScope o) = false) →
    let ls : List Lane := (atomLanes s i g d off b x disp).map fun l => { slot := l.1, e := l.2.1, n := 3 }
    (∀ l ∈ ls, l.e % 3 = 0) →
    checkLanes (xlOf i.core (srcRegs s i)) (clusterOf i.core) (getA s i x) .atomic false ls s = (ok, [], u) →
    (∃ k ∈ ok, ∃ p l, k.place = .mem (p :: l) ∧ (frameRegion (frameOf p.pa) < 1 ∨ 3 < frameRegion (frameOf p.pa))) →
    ∃ t, exec y s = .next t ∧ Traps u t i c 7 ((ok.filter fun k => match k.place with
      | .mem (p :: _) => decide (frameRegion (frameOf p.pa) < 1 ∨ 3 < frameRegion (frameOf p.pa))
      | _ => false).map fun k => { slot := k.lane.slot, addr := k.lane.e })

/-- Atomics: their effect in the scratchpad and in memory, and the targets that they refuse (R265, R276, R277). -/
def Obligations.AtomicResult : Prop := AtomicScratch ∧ AtomicMemory ∧ AtomicTargetTraps

/-- Under the suppress policy an out-of-range lane of a scratchpad access raises nothing: a load lands 0 there, and the lane is
recorded in the sticky out-of-range mask (R74). -/
def Sys2Proof.Claims.SuppressedLoad : Prop :=
  ∀ (x : Instr) (f : Form) (s : State) (i : Issue) (c : Nat) (g : Group), loadLaw x = some f → f.binary = false →
    f.word = false → f.waits = false → GroupRuns s i c g → f.d < g.nf → WriteFree g f.d → g.r.suppress = true →
    (getA s i f.a).scratch = true → Unwatched s i g true .load (lanes s i g f) →
    (∀ l ∈ lanes s i g f, regCheck (getA s i f.a) .load l.e l.n = true) →
    (∀ k ∈ i.guard, k < 81) →
    (∀ l ∈ lanes s i g f, spIn s (clusterOf i.core) l.e = false) →
    ∃ t h, exec x s = .next t ∧ getGroup t i.core c = some h ∧
      (∀ k, k ∈ h.r.oob ↔ k < 81 ∧ (k ∈ g.r.oob ∨ k ∈ i.guard)) ∧
      h.pending = g.pending ++ [{ id := s.nextId, kind := .load, regs := [.v f.d], slots := i.guard, inHandler := g.r.tr.inHandler
                                  pc := i.pc, land := some { lanes := i.guard.map fun k => (k, 0) } }] ∧
      t.clusters = s.clusters ∧ t.mem = s.mem

/-- The checks of an access, and the suppress policy (R74, R265). -/
def Obligations.AccessTraps : Prop := AccessChecks ∧ SuppressedLoad

/-- A waiting load parks its group at its bundle while a block it reads is not present, and notes which are absent (R108); the group checks again when it is woken,
and executes the bundle again (R73, R269). -/
def Obligations.WaitingLoadParks : Prop :=
  (∀ (x : Instr) (f : Form) (s : State) (i : Issue) (c : Nat) (g : Group), loadLaw x = some f → f.waits = true →
    GroupRuns s i c g → f.d < g.nf → WriteFree g f.d →
    ScratchClear s i g (getA s i f.a) .load (lanes s i g f) →
    (∃ l ∈ lanes s i g f, spPresent s (clusterOf i.core) l.e = false) →
    ∃ t l, exec x s = .next t ∧ Waits s t i c { g with absent := l } .park 5 ∧
      ∀ b, b ∈ l ↔ b ∈ g.absent ∨ ∃ k ∈ lanes s i g f, ∃ j : Nat, j < k.n ∧
        spPresent s (clusterOf i.core) (k.e + j) = false ∧ b = ((k.e + j) / 27).toNat) ∧
  (∀ (s : State) (core c : Nat) (g : Group), getGroup s core c = some g → g.wait = some .park → g.st = .stalled →
    g.raised = none → g.stopped = false → g.rolling = false →
    exec (.waitingLoadRetry core c) s = .next (setGroup s core c { g with wait := none, st := .ready }))

/-- Fences complete, and change nothing but what is known of earlier writes and which releases later writes publish; one whose mask
names the stream path first empties the core's combining buffer, and the places of an entry that covers its block are then what memory
holds (R110, R278). A release of package or system scope waits while writes of its core are not yet performed there (R351). -/
def Sys2Proof.Claims.FencesComplete : Prop :=
  ∀ (s : State) (i : Issue) (c : Nat) (g : Group) (k m : Int) (x : Instr), GroupRuns s i c g →
    let u := if m / 2 % 2 = 1 then drainBuffer s i.core else s
    (x ∈ [Instr.fenceRel k m, .fenceFull k m, .fenceSc k m] → mustWait u i.core k.toNat = true →
      ∃ t, exec x s = .next t ∧ Waits u t i c g .own 8) ∧
    (x ∈ [Instr.fenceAcq k m, .fenceRel k m, .fenceFull k m, .fenceSc k m] →
      (x ≠ .fenceAcq k m → mustWait u i.core k.toNat = false) →
      ∃ known made n, exec x s = .next { u with late := known, made := made, fresh := n }) ∧
    (m / 2 % 2 = 1 → (getCore u i.core).comb = [] ∧ (∀ j, getGroup u i.core j = getGroup s i.core j) ∧
      u.clusters = s.clusters ∧
      ∀ e, (getCore s i.core).comb = [e] → e.binary = false → e.cover = [] → 1 ≤ frameRegion (blockFrame e.block) →
        frameRegion (blockFrame e.block) ≤ 3 → 0 ≤ e.block → (∀ p ∈ e.places, InTrits 9 p.2) → msorted e.places = true →
        ∀ j : Nat, j < 27 → (∀ j', j' < 27 → (mfind e.places j').isSome = true) →
          unitAt u e.key false (27 * e.block + (j : Int)) = mfind e.places j)

/-- A release fence of one core, a strong write of that core after it, a strong read of another core that takes its value from that
write, and an acquire fence of the other core after that: where each fence's scope contains the other core and each mask names the core
path, the fences synchronise. What the release covers, the other core's path then sees: it reads nothing older there any more, and no
agent knows of fewer writes (R100 to R102). -/
def Sys2Proof.Claims.FencesSynchronise : Prop :=
  ∀ (s t w u : State) (i j : Issue) (c c' : Nat) (g g' : Group) (k k' m m' old r : Int) (n strong strong' : Nat)
    (before after : List Late) (e : Late) (l : Loc),
    GroupRuns s i c g → exec (.fenceRel k m) s = .next t → mustWait s i.core k.toNat = false → m / 2 % 2 = 0 →
    lateAt s n = before ++ e :: after → onPath i.core .core ∈ e.knows → n ≠ l.key → 0 < strong → 0 < strong' →
    let v := noteWrite t (onPath i.core .core) strong false l.binary [l.key] (fun _ => some old)
    seeLocs v (onPath j.core .core) strong' false true [l] = ([r], w) → r = l.val → (∀ h ∈ lateAt v l.key, h.old ≠ l.val) →
    GroupRuns { w with issue := some j } j c' g' → exec (.fenceAcq k' m') { w with issue := some j } = .next u → m' / 2 % 2 = 0 →
    m % 2 = 1 → m' % 2 = 1 → scopeHas k.toNat (onPath i.core .core) (onPath j.core .core) = true →
    scopeHas k'.toNat (onPath j.core .core) (onPath i.core .core) = true →
    ∃ before' h after', lateAt u n = before' ++ h :: after' ∧ before'.length = before.length ∧ h.stamp = e.stamp ∧
      h.old = e.old ∧ Machine.sees h (onPath j.core .core) = true ∧ ∀ a ∈ e.knows, a ∈ h.knows

/-- Without such a read an acquire fence meets no release: where its core has taken no strong write's value, and has followed nothing by
an earlier acquire or release, it makes no write known (R101, R102). -/
def Sys2Proof.Claims.FencesNeedALink : Prop :=
  ∀ (s : State) (i : Issue) (c : Nat) (g : Group) (k m : Int), GroupRuns s i c g → m / 2 % 2 = 0 →
    (∀ p ∈ s.taken, p.1 ≠ onPath i.core .core) → (∀ p ∈ s.late, ∀ e ∈ p.2, onPath i.core .sync ∉ e.knows) →
    exec (.fenceAcq k m) s = .next s

/-- The prefetch completes, and writes no register, no scratchpad and no memory (R273). -/
def Sys2Proof.Claims.PrefetchCompletes : Prop :=
  ∀ (s : State) (i : Issue) (c : Nat) (g : Group) (a : Nat) (b : Opd), GroupRuns s i c g →
    ∃ t, exec (.pf a b) s = .next t ∧ t.cores = s.cores ∧ t.clusters = s.clusters ∧
      t.mem = s.mem ∧ t.host = s.host ∧ t.teams = s.teams ∧ t.launches = s.launches

/-- Fences and the prefetch (R100 to R102, R110, R273, R278). -/
def Obligations.FencesAndPrefetch : Prop :=
  FencesComplete ∧ FencesSynchronise ∧ FencesNeedALink ∧ PrefetchCompletes

/-! ## Translation -/

/-- Translation: the privilege of the whole access first (R42, R59); then, where neither a translation nor an upper entry is cached
and a walker is free, the walk through the tables named by the root register of the address's half, an entry at each level,
and the permission and view of the leaf, which is the page's own entry or one that another entry of its span gives (R57 to R61). -/
def Obligations.TranslationResult : Prop :=
  ∀ (s : State) (x : XlCtx) (kind : AccKind) (bin : Bool) (va : Int),
    let q := va / 19683
    ((va < 0 ∧ x.super = false) ∨ (0 ≤ va ∧ x.super = true ∧ x.userOk = false) →
      translatePage s x kind bin va = (.error ⟨2, 3⟩, s)) ∧
    (∀ n : Nat, outOfSpace va = false → outOfSpace (va + n - 1) = false →
      privilegeFault x va = true ∨ privilegeFault x (va + n - 1) = true →
      translate s x kind bin va n = (.error ⟨2, 3⟩, s)) ∧
    (∀ (root e2 e1 e0 : Int) (s2 s1 s0 : State), ¬ privilegeFault x va = true →
      ((getDie s x.die).tlb.filter (tlbServes x va)) = [] → (getDie s x.die).tables.filter (tableServes x q) = [] →
      joinable s x q = none → (getDie s x.die).walks.length < 27 →
      root = (if va < 0 then x.sroot else x.uroot) → tableOk s root = true →
      readUnits s (physUnits (frameBase root + 6 * (q / 19683 / 19683 + if va < 0 then 9842 else 0)) 6) =
        (.ok (toNonets 6 e2), s2) →
      readUnits s2 (physUnits (frameBase (trits e2 26 3) + 6 * (q / 19683 % 19683)) 6) = (.ok (toNonets 6 e1), s1) →
      readUnits s1 (physUnits (frameBase (trits e1 26 3) + 6 * (q % 19683)) 6) = (.ok (toNonets 6 e0), s0) →
      InTrits 54 e2 → InTrits 54 e1 → InTrits 54 e0 →
      trit e2 27 = 1 → trit e1 27 = 1 → trit e0 27 = 1 → entryMalformed s2 2 va q e2 = false →
      entryMalformed s1 1 va q e1 = false → entryMalformed s0 0 va q e0 = false →
      ∃ l t, (l = leafOf e0 ∨ ∃ (j : Nat) (b : List Int) (u : State), j < 81 ∧
          readUnits s0 (physUnits (frameBase (trits e1 26 3) + 6 * (q % 19683 - q % 81 + j)) 6) = (.ok b, u) ∧
          trit (ofNonets b) 27 = 1 ∧ (leafOf (ofNonets b)).span = true ∧
          l = { leafOf (ofNonets b) with frame := (leafOf (ofNonets b)).frame - j + q % 81 }) ∧
        ((∀ j : Nat, j < 81 → (j : Int) ≠ q % 81 → spanMarked s0 (trits e1 26 3) (q % 19683 - q % 81 + j) = false) → l = leafOf e0) ∧
        t.mem = s0.mem ∧ t.cores = s0.cores ∧
        translatePage s x kind bin va =
          (if leafAllows l kind = false then .error ⟨6, 0⟩ else if l.binary ≠ bin then .error ⟨7, 0⟩ else .ok l, t))

/-! ## Control -/

namespace Sys2Proof.Claims

/-- Where a transfer takes a lane of the guard, and the rank of that target: 0 negative, 1 zero or taken, 2 positive (R224). -/
def targetLaw (s : State) (i : Issue) (g : Group) : Instr → Option (Nat → Nat × Int)
  | .br b => some fun _ => (1, i.pc + 6 * b)
  | .jmp b => some fun _ => (1, i.pc + 6 * b)
  | .call _ b => some fun _ => (1, i.pc + 6 * b)
  | .ret a => some fun _ => (1, (getA s i a).ptr)
  | .loop d b =>
    some fun _ => (1, if 0 < wrap 27 (mget 0 (srcRegs s i).s d - 1) then i.pc + 6 * b else i.pc + 6)
  | .br3 v n z p =>
    some fun k =>
      let x := laneVal (mget (.u 0) (srcRegs s i).v v) g.items k
      if x < 0 then (0, i.pc + 6 * n) else if x = 0 then (1, i.pc + 6 * z) else (2, i.pc + 6 * p)
  | .br3s r n z p =>
    let x := ssrc s i (.reg r)
    some fun _ => (1, i.pc + 6 * (if x < 0 then n else if x = 0 then z else p))
  | _ => none

/-- The registers that a transfer writes: the counter of `loop`, the link register of `call`, which permits nothing (R228,
R229). -/
def linkLaw (s : State) (i : Issue) (r : Regs) : Instr → Regs
  | .loop d _ => { r with s := mput 0 r.s d (wrap 27 (mget 0 (srcRegs s i).s d - 1)) }
  | .call a _ => { r with a := mput {} r.a a { ptr := i.pc + 6, base := i.pc + 6, limit := i.pc + 6 } }
  | _ => r

/-- Where an active lane goes, with its rank: those outside the guard go on in sequence, ranked last. -/
def goes (i : Issue) (f : Nat → Nat × Int) (k : Nat) : Nat × Int := if k ∈ i.guard then f k else (3, i.pc + 6)
/-- The active lanes that go to a target. -/
def goers (i : Issue) (g : Group) (f : Nat → Nat × Int) (t : Int) : List Nat :=
  (activeLanes g).filter fun k => decide ((goes i f k).2 = t)
/-- The first of each of equal elements. -/
def firsts : List Int → List Int
  | [] => []
  | a :: l => a :: (firsts l).filter fun b => decide (b ≠ a)
/-- The targets that active lanes have, in their rank: one for each path (R224). Lanes whose targets coincide take one path, of the lowest
ranked among their signs: the model's choice, DEDUCED (log 50). -/
def pathTargets (i : Issue) (g : Group) (f : Nat → Nat × Int) : List Int :=
  firsts ([0, 1, 2, 3].flatMap fun r =>
    ((activeLanes g).filter fun k => decide ((goes i f k).1 = r)).map fun k => (goes i f k).2)
/-- The target with most lanes, the first ranked among equals (R152). -/
def majorityTarget (i : Issue) (g : Group) (f : Nat → Nat × Int) : List Int → Int → Int
  | [], m => m
  | t :: l, m => majorityTarget i g f l (if (goers i g f m).length < (goers i g f t).length then t else m)

end Sys2Proof.Claims

/-- A transfer of a group. With one path the group goes there, the counter of `loop` and the link of `call` written. A target that
is no multiple of 6 raises the illegal-opcode trap and writes nothing (R195, R224, R226 to R230). Lanes whose targets coincide take one
path (the model's choice, log 50). -/
def Sys2Proof.Claims.GroupTransfer : Prop :=
  ∀ (x : Instr) (f : Nat → Nat × Int) (s : State) (i : Issue) (c : Nat) (g : Group),
    targetLaw s i g x = some f → GroupRuns s i c g → i.broke = false → (∀ k ∈ i.guard, k ∈ activeLanes g) →
    (∀ t, (∀ k ∈ activeLanes g, (goes i f k).2 = t) → t % 6 = 0 →
      ∃ u rg, exec x s = .next u ∧ u = setGroup s i.core c { g with pc := t, r := linkLaw s i g.r x, region := rg }) ∧
    ((∃ k ∈ activeLanes g, (goes i f k).2 % 6 ≠ 0) →
      ∃ u, exec x s = .next u ∧ Traps s u i c 1 (plainLanes (activeLanes g)))

/-- A divergent transfer in no-spawn mode pushes an entry with the active mask, the highest target as reconvergence address and
the paths but the first, and runs the first; with 27 entries it raises the divergence-depth fault and pushes nothing (R157,
R224, R225). The rank of a path whose lanes' targets coincide is the model's choice (log 50). -/
def Sys2Proof.Claims.DivergencePushes : Prop :=
  ∀ (x : Instr) (f : Nat → Nat × Int) (s : State) (i : Issue) (c : Nat) (g : Group),
    targetLaw s i g x = some f → GroupRuns s i c g → i.broke = false → (∀ k ∈ i.guard, k ∈ activeLanes g) →
    (∀ k ∈ g.active, k < 81) → g.nospawn = true →
    (∀ k ∈ activeLanes g, (goes i f k).2 % 6 = 0) → 2 ≤ (pathTargets i g f).length →
    (g.mstack.length < 27 →
      ∃ u rg e, exec x s = .next u ∧ ∃ pc act,
        u = setGroup s i.core c { g with
          pc := pc, active := act, mstack := e :: g.mstack, r := linkLaw s i g.r x, region := rg } ∧
        e.saved = g.active ∧ (∀ t ∈ pathTargets i g f, t ≤ e.reconv) ∧ e.reconv ∈ pathTargets i g f ∧
        ((pc, act) :: e.paths).map (·.1) = pathTargets i g f ∧
        ∀ p ∈ (pc, act) :: e.paths, ∀ k, k ∈ p.2 ↔ k ∈ goers i g f p.1) ∧
    (27 ≤ g.mstack.length → ∃ u, exec x s = .next u ∧ Traps s u i c 10 (plainLanes (activeLanes g)))

/-- A divergent transfer outside no-spawn mode, with room in the spawn store and in the team's pool: the group goes on at the
target with most lanes, and every item of another target leaves its slot for a build with its index and target (R152,
R153). The rank of a target that coincides for lanes of several signs, which decides among targets of equally many lanes, is the
model's choice (log 50). -/
def Obligations.DivergenceSpawns : Prop :=
  ∀ (x : Instr) (f : Nat → Nat × Int) (s : State) (i : Issue) (c : Nat) (g : Group) (tm : Team),
    targetLaw s i g x = some f → GroupRuns s i c g → i.broke = false → (∀ k ∈ i.guard, k ∈ activeLanes g) →
    (∀ k ∈ g.active, k < 81) → g.nospawn = false → g.pending = [] → getTeam s g.team = some tm →
    (∀ k ∈ activeLanes g, (goes i f k).2 % 6 = 0) → 2 ≤ (pathTargets i g f).length →
    storeUsed (getCore s i.core) + (activeLanes g).length ≤ 729 → (activeLanes g).length ≤ tm.pool.length →
    ∀ m, m = majorityTarget i g f (pathTargets i g f) ((pathTargets i g f).headD 0) →
      ∃ u h, exec x s = .next u ∧ getGroup u i.core c = some h ∧ h.pc = m ∧ h.restart = m ∧
        (∀ k it, mfind h.items k = some it ↔ mfind g.items k = some it ∧ (k ∈ activeLanes g → (goes i f k).2 = m)) ∧
        (∀ k, k ∈ activeLanes h ↔ k ∈ goers i g f m) ∧
        (∀ k it, k ∈ activeLanes g → (goes i f k).2 ≠ m → mfind g.items k = some it →
          ∃ b ∈ (getCore u i.core).builds, ∃ st ∈ b.items, b.target = (goes i f k).2 ∧ b.team = g.team ∧ st.item = it ∧
            st.target = (goes i f k).2 ∧ st.role = g.role) ∧
        u.mem = s.mem ∧ u.host = s.host ∧ u.clusters = s.clusters ∧ u.dies = s.dies

/-- A range goes as a whole: each transfer but a cutting `br3` takes it to its one target (R197, R224, R230). -/
def Sys2Proof.Claims.RangeTransfer : Prop :=
  ∀ (s : State) (i : Issue) (e : Nat) (q : Range) (n z p : Int) (a v : Nat), RangeRuns s i e q → i.broke = false →
    let goesTo (r : Regs) (t : Int) := setRange s i.core e { q with r := r, pc := t }
    (∀ x ∈ [Instr.br n, .jmp n, .call a n, .loop a n],
      let t := match x with | .loop d b => (if 0 < wrap 27 (mget 0 (srcRegs s i).s d - 1) then i.pc + 6 * b else i.pc + 6)
                            | _ => i.pc + 6 * n
      t % 6 = 0 → exec x s = .next (goesTo (linkLaw s i q.r x) t)) ∧
    ((getA s i a).ptr % 6 = 0 → exec (.ret a) s = .next (goesTo q.r (getA s i a).ptr)) ∧
    (∀ b, mget (.u 0) (srcRegs s i).v v = .u b → i.pc % 6 = 0 →
      exec (.br3 v n z p) s = .next (goesTo q.r (i.pc + 6 * (if b < 0 then n else if b = 0 then z else p)))) ∧
    (v < 81 → i.pc % 6 = 0 →
      exec (.br3s v n z p) s =
        .next (goesTo q.r (i.pc + 6 * (if ssrc s i (.reg v) < 0 then n else if ssrc s i (.reg v) = 0 then z else p))))

/-- Transfers of control of groups and of ranges (R195, R197, R224 to R230). -/
def Obligations.TransferResult : Prop := GroupTransfer ∧ RangeTransfer

/-! ## Cuts -/

namespace Sys2Proof.Claims

/-- Is an item among those of a range? Inside its box, at a position of its run (R132). -/
def Holds (q : Range) (it : Item) : Prop :=
  q.box.x0 ≤ it.x ∧ it.x ≤ q.box.x1 ∧ q.box.y0 ≤ it.y ∧ it.y ≤ q.box.y1 ∧ q.box.z0 ≤ it.z ∧ it.z ≤ q.box.z1 ∧
  q.p0 ≤ boxPos q.box it ∧ boxPos q.box it ≤ q.p1

/-- The sign. -/
def sign3 (v : Int) : Int := if v < 0 then -1 else if v = 0 then 0 else 1

/-- A register that cuts a range: one stride is not 0, and no value inside the box wraps (R141). -/
def CutsBy (q : Range) (b sx sy sz : Int) : Prop :=
  ((sx ≠ 0 ∧ sy = 0 ∧ sz = 0) ∨ (sx = 0 ∧ sy ≠ 0 ∧ sz = 0) ∨ (sx = 0 ∧ sy = 0 ∧ sz ≠ 0)) ∧
  q.box.x0 ≤ q.box.x1 ∧ q.box.y0 ≤ q.box.y1 ∧ q.box.z0 ≤ q.box.z1 ∧ 0 ≤ q.p0 ∧ q.p0 ≤ q.p1 ∧ q.p1 < boxSize q.box ∧
  ∀ it : Item, q.box.x0 ≤ it.x → it.x ≤ q.box.x1 → q.box.y0 ≤ it.y → it.y ≤ q.box.y1 → q.box.z0 ≤ it.z → it.z ≤ q.box.z1 →
    InTrits 27 (b + sx * it.x + sy * it.y + sz * it.z)

/-- The range is divided by the sign of an armature: each item of it is in a range with the item's sign, whose items all have
that sign; no item is added; other ranges stay; but for what `P` says of each piece nothing else has changed. -/
def Divided (s t : State) (core e : Nat) (q : Range) (b sx sy sz : Int) (P : Int → Range → Prop) : Prop :=
  (∀ it, Holds q it → ∃ e' r, getRange t core e' = some r ∧ (e' = e ∨ getRange s core e' = none) ∧ Holds r it ∧
    P (sign3 (b + sx * it.x + sy * it.y + sz * it.z)) r) ∧
  (∀ e' r, getRange t core e' = some r → (e' = e ∨ getRange s core e' = none) →
    ∃ sg, P sg r ∧ ∀ it, Holds r it → Holds q it ∧ sign3 (b + sx * it.x + sy * it.y + sz * it.z) = sg) ∧
  (∀ e', e' ≠ e → getRange s core e' ≠ none → getRange t core e' = getRange s core e') ∧
  t.mem = s.mem ∧ t.host = s.host ∧ t.clusters = s.clusters ∧ t.dies = s.dies ∧ t.teams = s.teams ∧
  ∀ j, getGroup t core j = getGroup s core j

end Sys2Proof.Claims

/-- A range with free entries for the pieces cuts at `br3` and at `cut`: its items are divided by the sign of the register, which
for `br3` is where they go and for `cut` is what the mask holds; the registers are otherwise unchanged (R141, R230, R231). -/
def Sys2Proof.Claims.CutDivides : Prop :=
  ∀ (s : State) (i : Issue) (e : Nat) (q : Range) (v k : Nat) (n z p b sx sy sz : Int), RangeRuns s i e q → e < 27 → k ≠ 0 →
    mget (.u 0) (srcRegs s i).v v = .a b sx sy sz → CutsBy q b sx sy sz →
    2 ≤ (((List.range 27).filter fun e' => (getRange s i.core e').isNone).length) → i.pc % 6 = 0 →
    (∃ t, exec (.br3 v n z p) s = .next t ∧ Divided s t i.core e q b sx sy sz fun sg r =>
      r.pc = i.pc + 6 * (if sg < 0 then n else if sg = 0 then z else p) ∧ r.r = q.r ∧ r.family = q.family ∧
        r.st = q.st ∧ r.lid = q.lid) ∧
    (∃ t, exec (.cut k v) s = .next t ∧ Divided s t i.core e q b sx sy sz fun sg r =>
      r.pc = q.pc ∧ r.r = { q.r with k := r.r.k } ∧ r.family = q.family ∧ r.st = q.st ∧ r.lid = q.lid ∧
        ∀ j, mget (.u 0) r.r.k j = if j = k then .u sg else mget (.u 0) q.r.k j)

/-- `cut` in a group, and in a range of a uniform value, writes signs into its mask (R231). -/
def Sys2Proof.Claims.CutSigns : Prop :=
  ∀ (s : State) (i : Issue) (v k : Nat), k ≠ 0 →
    (∀ c g, GroupRuns s i c g → ∃ t, exec (.cut k v) s = .next t ∧ MaskDone s t i c g k fun l =>
      sign3 (laneVal (mget (.u 0) (srcRegs s i).v v) g.items l)) ∧
    (∀ e q b, RangeRuns s i e q → mget (.u 0) (srcRegs s i).v v = .u b →
      ∃ t m, exec (.cut k v) s = .next t ∧ t = setRange s i.core e { q with r := { q.r with k := m } } ∧
        ∀ j, mget (.u 0) m j = if j = k then .u (sign3 b) else mget (.u 0) q.r.k j)

/-- Cuts of ranges, and the signs that `cut` writes (R141, R230, R231). -/
def Obligations.CutResult : Prop := CutDivides ∧ CutSigns

/-! ## Joins, ends, markers -/

/-- `nop` does nothing; `join` does nothing in a group and stops a range until its family is there (R146, R232); `join.d` clears
the registers from the live count upward and makes the group wait for its team (R147); `exit` retires the items of the guard,
and a range with all its items (R233). -/
def Obligations.JoinAndExit : Prop :=
  ∀ (s : State) (i : Issue), Runs s i →
    exec .nopScalar s = .next s ∧ exec .nopVector s = .next s ∧
    (∀ e q, i.who = .range e → getRange s i.core e = some q →
      exec .join s = .next (setRange s i.core e { q with st := .atJoin }) ∧
      (∀ n : Int, 0 ≤ n → n ≤ 243 → exec (.joinD (.imm n)) s = .next (setRange s i.core e { q with st := .atJoin })) ∧
      ∃ t, exec .exit s = .next t ∧ getRange t i.core e = none ∧ (∀ e', e' ≠ e → getRange t i.core e' = getRange s i.core e') ∧
        (∀ j, getGroup t i.core j = getGroup s i.core j) ∧ t.mem = s.mem ∧ t.teams = s.teams) ∧
    (∀ c g, i.who = .group c → getGroup s i.core c = some g →
      exec .join s = .next s ∧
      (∀ a, (ssrc s i a < 0 ∨ 243 < ssrc s i a) →
        ∃ t, exec (.joinD a) s = .next t ∧ Traps s t i c 1 (plainLanes (activeLanes g))) ∧
      (∀ a, 0 ≤ ssrc s i a → ssrc s i a ≤ 243 → g.r.tr.inHandler = false → ∃ m t, exec (.joinD a) s = .next t ∧
        (let h := { g with r := { g.r with v := m }, st := .stalled, wait := some (.join (ssrc s i a).toNat) }
         t = push (setGroup s i.core c h) (.teamDissolve g.team) ∧ Reports h 4) ∧
        ∀ j, mget (.u 0) m j = if ssrc s i a ≤ j then .u 0 else mget (.u 0) g.r.v j) ∧
      ∀ tm, getTeam s g.team = some tm → ∃ t, exec .exit s = .next t ∧
        t = setTeam (setGroup s i.core c { g with
          items := g.items.filter fun p => decide (p.1 ∉ i.guard), active := g.active.filter fun l => decide (l ∉ i.guard) })
          g.team { tm with exited := true })

/-- At the end of a bundle a group that runs a path of its mask stack goes on with it; at the reconvergence address, or when its
lanes have exited, the next path runs with its lanes; when no path remains the saved mask, without the items that exited, runs
on from the reconvergence address (R157 steps 3 and 4). -/
def Sys2Proof.Claims.MaskStackReconverges : Prop :=
  ∀ (g : Group) (e : MEntry) (l : List MEntry), g.mstack = e :: l →
    let live (m : List Nat) := m.filter fun k => (g.items.map (·.1)).contains k
    (activeLanes g ≠ [] → g.pc ≠ e.reconv → settle g = g) ∧
    (activeLanes g = [] ∨ g.pc = e.reconv →
      (∀ a ls ps, e.paths = (a, ls) :: ps → a ≠ e.reconv → live ls ≠ [] →
        settle g = { g with mstack := { e with paths := ps } :: l, pc := a, active := live ls }) ∧
      (e.paths = [] → l = [] → settle g = { g with mstack := [], pc := e.reconv, active := live e.saved }) ∧
      (∀ f l', e.paths = [] → l = f :: l' → f.reconv ≠ e.reconv → live e.saved ≠ [] →
        settle g = { g with mstack := l, pc := e.reconv, active := live e.saved }))

/-- Divergence under the mask stack: the push and the way back (R157, R225). -/
def Obligations.DivergenceStacks : Prop := DivergencePushes ∧ MaskStackReconverges

/-- Markers: with no request for the launch on the die `safe` and `yield` do nothing, unless a bulk launch yields to one that
waits; with one the group stops at the marker (R188, R234). `region` makes the next bundle's address the restart address
(R235). -/
def Obligations.MarkersResult : Prop :=
  ∀ (s : State) (i : Issue) (c : Nat) (g : Group), GroupRuns s i c g →
    let die := dieOf i.core
    let h := { g with pc := i.pc, stopped := true, st := .stalled }
    let stopped (u : State) := push (setGroup { u with issue := some { i with broke := true } } i.core c h) (.shareSave die g.lid)
    reasonOf h = 2 ∧
    (requested s die g.lid = false → exec .safe s = .next s ∧
      ((launchTcb s g.lid).serving = true ∨ dieWanted s die g.lid = false → exec .yield s = .next s) ∧
      ((launchTcb s g.lid).serving = false → dieWanted s die g.lid = true → (findShare s die g.lid).isSome = true →
        ∃ u, exec .yield s = .next (stopped u) ∧ requested u die g.lid = true ∧ u.cores = s.cores ∧ u.mem = s.mem)) ∧
    (requested s die g.lid = true → exec .safe s = .next (stopped s) ∧ exec .yield s = .next (stopped s)) ∧
    exec .region s = .next { s with issue := some { i with restart := true } }

/-! ## System registers -/

namespace Sys2Proof.Claims

/-- The state once the restart address is to move past the bundle (R235). -/
def restarts (s : State) (i : Issue) : State := { s with issue := some { i with restart := true } }

/-- + where the condition holds. -/
def plusIf (b : Bool) (v : Int) : Int := if b then v else 0

/-- What each numbered register reads, of a context's registers, its core and its die; none where no register has the number
(R28, R53, R68, R74, R236, R238, R248, R315, R324 to R337). -/
def sysLaw (r : Regs) (c : Core) (d : Die) : Int → Option Int
  | 1 => some (plusIf r.sticky.overflow 1 + plusIf r.sticky.underflow 3 + plusIf r.sticky.nanLost 9 + plusIf r.sticky.invalid 27)
  | 2 => some (plusIf r.suppress 1)
  | 3 => some (slotWord r.oob 0 27)
  | 4 => some (slotWord r.oob 27 27)
  | 5 => some (slotWord r.oob 54 27)
  | 6 => some (plusIf r.super 1 + plusIf r.userOk 3)
  | 7 => some r.uroot
  | 8 => some r.sroot
  | 9 => some r.asid
  | 10 => some c.modelo
  | 11 => some c.modehi
  | 12 => some (ofTrits ((List.range 27).map fun i => plusIf (c.busy.contains i) 1))
  | 13 => some (ofTrits ((List.range 9).map fun i => plusIf (c.busy.contains (27 + i)) 1))
  | 14 => some (trits d.cycle 26 0)
  | 15 => some r.ckhi
  | 16 => some (mget 0 d.pg 0) | 17 => some (mget 0 d.pg 1) | 18 => some (mget 0 d.pg 2)
  | 19 => some (mget 0 d.pg 3) | 20 => some (mget 0 d.pg 4) | 21 => some (mget 0 d.pg 5)
  | 22 => some (mget 0 d.pg 6) | 23 => some (mget 0 d.pg 7) | 24 => some (mget 0 d.pg 8)
  | 27 => some (trits r.tr.vec 26 0)
  | 28 => some (trits r.tr.vec 35 27)
  | 29 => some (trits r.tr.fp 26 0)
  | 30 => some (trits r.tr.fp 35 27)
  | 31 => some r.tr.cause
  | 32 => some (trits r.tr.ret 26 0)
  | 33 => some (trits r.tr.ret 35 27)
  | 34 => some (slotWord r.tr.lanes 0 27)
  | 35 => some (slotWord r.tr.lanes 27 27)
  | 36 => some (slotWord r.tr.lanes 54 27)
  | 37 => some (3 * (r.tr.rollbacks : Int) + plusIf r.tr.inHandler 1)
  | 40 => some d.dbgctl | 41 => some d.dbgsel | 42 => some d.dbgcmd | 43 => some d.dbgdata
  | 44 => some d.w0ctl | 45 => some d.w0lo | 46 => some d.w0len
  | 47 => some d.w1ctl | 48 => some d.w1lo | 49 => some d.w1len
  | 50 => some d.mbox | 51 => some d.tsq
  | 52 => some (mget 0 d.tr 0) | 53 => some (mget 0 d.tr 1) | 54 => some (mget 0 d.tr 2) | 55 => some (mget 0 d.tr 3)
  | 56 => some d.fzctl | 57 => some d.fzseq | 58 => some d.fzsmp
  | 60 => some d.ctctl | 61 => some d.ctlo | 62 => some d.cthi | 63 => some d.ctpaid | 64 => some d.cthits
  | 65 => some d.ctcount
  | _ => none

/-- What a system register reads in the executing context: the registers before the bundle (R204). -/
def sysSource (s : State) (i : Issue) (n : Int) : Option Int :=
  sysLaw (srcRegs s i) (getCore s i.core) (getDie s (dieOf i.core)) n
/-- What a system register of the executing context holds. -/
def sysValue (s : State) (i : Issue) (n : Int) : Option Int :=
  sysLaw (whoRegs s i.core i.who) (getCore s i.core) (getDie s (dieOf i.core)) n
/-- A value of a debug register as it is kept: its reserved trits are ignored (R8, R330 to R337). -/
def keeps (n v : Int) : Int :=
  if n = 44 ∨ n = 47 then setTrits v 12 3 0 else if n = 50 then setTrits v 26 25 0
  else if n = 51 ∨ n = 58 then setTrits v 26 3 0 else if 52 ≤ n ∧ n ≤ 55 then setTrits v 9 0 0
  else if n = 56 then setTrits v 25 24 0 else v

/-- The registers of a context that take the whole of a value written, and the values that they take: the translation registers
in supervisor mode (R53), the suppress policy (R74), the trap registers that are writable (R315). That `tr.fp` and `tr.ret` take any value that fits them is the
model's choice (log 30). -/
def TakesWhole (r : Regs) (n v : Int) : Prop :=
  (n = 2 ∧ (v = 0 ∨ v = 1)) ∨
  (r.super = true ∧ ((n = 6 ∧ (v = 0 ∨ v = 1 ∨ v = 3 ∨ v = 4)) ∨ ((n = 7 ∨ n = 8) ∧ InTrits 24 v) ∨ (n = 9 ∧ InTrits 9 v))) ∨
  ((n = 27 ∨ n = 29 ∨ n = 32) ∧ InTrits 27 v) ∨ ((n = 28 ∨ n = 30 ∨ n = 33) ∧ InTrits 9 v) ∨
  ((n = 3 ∨ n = 4 ∨ n = 5) ∧ ∃ l, v = slotWord l 0 27) ∨
  (n = 1 ∧ ∃ a b c d : Bool, v = plusIf a 1 + plusIf b 3 + plusIf c 9 + plusIf d 27)

end Sys2Proof.Claims

/-- `srd` reads the register that its number names; the read of `ck.lo` latches the upper trits of the count for `ck.hi`; a number
without a register raises the illegal-opcode trap (R236 to R238). -/
def Obligations.SystemReadResult : Prop :=
  ∀ (s : State) (i : Issue) (d : Dst) (a : Opd) (n : Int), Runs s i → ssrc s i a = n →
    (inRange i = true → sCasts a = false ∧ n < 10) →
    (∀ v, sysSource s i n = some v → n ≠ 14 → ∃ t, exec (.srd d a) s = .next t ∧ ScalarDone s t i d v) ∧
    (n = 14 → ∃ u t, exec (.srd d a) s = .next t ∧
      RegsBecome s u i.core i.who { whoRegs s i.core i.who with ckhi := trits (getDie s (dieOf i.core)).cycle 53 27 } ∧
      ScalarDone u t i d (trits (getDie s (dieOf i.core)).cycle 26 0)) ∧
    (sysSource s i n = none → ∀ c g, i.who = .group c → getGroup s i.core c = some g →
      ∃ t, exec (.srd d a) s = .next t ∧ Traps s t i c 1 (plainLanes (activeLanes g)))

/-- `swr` to a register of the context: the register reads the value written and every other as before; to a read-only one
nothing is written; a value that the register does not take raises the format fault, and in user mode the translation, progress
and debug registers raise the privilege trap, with nothing written (R53, R74, R237, R248, R315, R324). That `tr.fp` and `tr.ret` take any value that fits (log 30), and that every debug
register, watchpoints and read-only ones among them, raises the privilege trap in user mode (log 31), is the model's choice. -/
def Obligations.SystemWriteResult : Prop :=
  ∀ (s : State) (i : Issue) (a b : Opd) (n v : Int) (c : Nat) (g : Group), GroupRuns s i c g → ssrc s i a = n → ssrc s i b = v →
    (TakesWhole g.r n v → ∃ t r, exec (.swr a b) s = .next t ∧ RegsBecome (restarts s i) t i.core i.who r ∧
      sysValue t i n = some v ∧ ∀ m, m ≠ n → sysValue t i m = sysValue s i m) ∧
    (n ∈ [12, 13, 14, 15, 31, 34, 35, 36, 37] → ∃ t, exec (.swr a b) s = .next t ∧ getGroup t i.core c = some g ∧
      (∀ m, sysValue t i m = sysValue s i m) ∧ t.mem = s.mem) ∧
    (n ∈ [43, 57, 63, 64, 65] → g.r.super = true → ∃ t, exec (.swr a b) s = .next t ∧
      (∀ m, sysValue t i m = sysValue s i m) ∧ t.mem = s.mem ∧ t.cores = s.cores) ∧
    (n ∈ [40, 41, 42] → g.r.super = true → dbgValid s (getDie s (dieOf i.core)) n.toNat v = false →
      ∃ t, exec (.swr a b) s = .next t ∧ Traps s t i c 3 (plainLanes (activeLanes g))) ∧
    (16 ≤ n → n ≤ 24 → g.r.super = true → ∃ t, exec (.swr a b) s = .next t ∧ sysValue t i n = some v ∧
      (∀ m, m ≠ n → sysValue t i m = sysValue s i m) ∧ t.mem = s.mem ∧ t.cores = s.cores) ∧
    (n ∈ [40, 41, 44, 45, 46, 47, 48, 49, 50, 51, 52, 53, 54, 55, 56, 58, 61, 62] → g.r.super = true →
      dbgValid s (getDie s (dieOf i.core)) n.toNat v = true → ∃ t, exec (.swr a b) s = .next t ∧ sysValue t i n = some (keeps n v) ∧
      (∀ m, m ≠ n → sysValue t i m = sysValue s i m) ∧ t.mem = s.mem ∧ t.cores = s.cores) ∧
    ((n = 2 ∧ v ≠ 0 ∧ v ≠ 1 ∧ InTrits 27 v) ∨ ((n = 28 ∨ n = 30 ∨ n = 33) ∧ ¬ InTrits 9 v ∧ InTrits 27 v) →
      ∃ t, exec (.swr a b) s = .next t ∧ Traps s t i c 3 (plainLanes (activeLanes g))) ∧
    (g.r.super = false → (6 ≤ n ∧ n ≤ 9) ∨ (16 ≤ n ∧ n ≤ 24) ∨ (40 ≤ n ∧ n ≤ 65 ∧ n ≠ 59) →
      ∃ t, exec (.swr a b) s = .next t ∧ Traps s t i c 4 (plainLanes (activeLanes g)))

/-- A request for a bank's mode: the register's trit changes and no other; the bank leaves its mode and converts; settling
clears it (R68, R70, R243). `bkmode` makes it where the group may, else raises the privilege trap. -/
def Obligations.BankModeResult : Prop :=
  (∀ (s : State) (i : Issue) (c : Nat) (g : Group) (a b : Opd) (n : Nat) (m : Int), GroupRuns s i c g → ssrc s i a = n →
    ssrc s i b = m → n ≤ 35 → -1 ≤ m → m ≤ 1 →
    let ctl := g.r.super = true ∨ (launchTcb s g.lid).bankControl = true
    (¬ ctl → ∃ t u, exec (.bkmode a b) s = .next t ∧ Traps s u i c 4 (plainLanes (activeLanes g)) ∧
      t = { u with issue := t.issue }) ∧
    (ctl → bankWanted (getCore s i.core) n = m → exec (.bkmode a b) s = .next (restarts s i)) ∧
    (ctl → bankWanted (getCore s i.core) n ≠ m →
      (getBank s (clusterOf i.core) (36 * coreInCluster i.core + n)).held = [] →
      ∃ t, exec (.bkmode a b) s = .next t ∧ bankWanted (getCore t i.core) n = m ∧
      (∀ k, k ≤ 35 → k ≠ n → bankWanted (getCore t i.core) k = bankWanted (getCore s i.core) k) ∧
      n ∈ (getCore t i.core).busy ∧ bankMode t (clusterOf i.core) (36 * coreInCluster i.core + n) = none)) ∧
  (∀ (s : State) (core n : Nat), n ≤ 35 → n ∈ (getCore s core).busy →
    ∃ t, exec (.bankConversion core n) s = .next t ∧
      bankMode t (clusterOf core) (36 * coreInCluster core + n) = some (bankWanted (getCore s core) n) ∧
      getBank t (clusterOf core) (36 * coreInCluster core + n) = {} ∧
      (∀ k, k ∈ (getCore t core).busy ↔ k ≠ n ∧ k ∈ (getCore s core).busy) ∧ t.mem = s.mem) ∧
  (∀ (s : State) (core : Nat) (hi : Bool) (v : Int), (∀ b, (getBank s (clusterOf core) b).held = []) → InTrits 27 (getCore s core).modelo → InTrits 9 (getCore s core).modehi →
    (hi = true → InTrits 9 v) → InTrits 27 v → ∃ t, exec (.bkModeloWrite core hi v) s = .next t ∧
      (if hi then (getCore t core).modehi else (getCore t core).modelo) = v)

/-! ## Traps -/

namespace Sys2Proof.Claims

/-- The nonet that runs of nonets give at an address. -/
def nonetAt : List (Int × List Int) → Int → Option Int
  | [], _ => none
  | (a, l) :: t, x => if a ≤ x ∧ x < a + l.length then l[(x - a).toNat]? else nonetAt t x

/-- A trap as it is entered: that of a load which failed as it landed returns to the first bundle that has not been issued (R314, R316). -/
def entered (g : Group) (t : Trap) : Trap := if t.cls = 12 then { t with ret := g.pc } else t
/-- The registers after a trap has been entered: cause and detail, the lanes, the return address, the in-handler trit (R315, R316). -/
def trapRegs (g : Group) (t : Trap) : TrapRegs :=
  { g.r.tr with cause := t.cls + 3 ^ 9 * t.detail, ret := (entered g t).ret, lanes := t.lanes.map (·.slot), inHandler := true }

/-- A double fault has halted the group, and queue 0 is told (R319). -/
def DoubleFaulted (s t : State) (core c : Nat) (g : Group) : Prop :=
  ∃ h, getGroup t core c = some h ∧ h.st = .halted ∧ h.haltCause = 5 ∧ h.r = g.r ∧ h.items = g.items ∧
    (∃ l, t.events = l ++ [{ kind := 2, code := 3, addr := 0 }]) ∧
    (∀ v, getLaunch s g.lid = some v → ∃ w, getLaunch t g.lid = some w ∧ w.doubleFault = true) ∧
    (mboxOn (getDie s (dieOf core)) = false → t.mem = s.mem)

end Sys2Proof.Claims

/-- The trap frame (R316): block 0, and the entry of each trapping lane of a class that has entries; nothing else is written. -/
def Sys2Proof.Claims.TrapFrame : Prop :=
  ∀ (f : Int) (t : Trap), (t.lanes.map (·.slot)).Nodup → (∀ e ∈ t.lanes, e.slot < 81) →
    let at_ (j : Int) := nonetAt (frameRuns f t) (f + j)
    let entries := t.cls ∈ [5, 6, 7, 8, 12]
    at_ 0 = some (t.cls : Int) ∧ at_ 1 = some t.detail ∧
    (∀ j : Nat, j < 4 → at_ (2 + j) = some (trits t.pc (9 * j + 8) (9 * j)) ∧
      at_ (6 + j) = some (trits t.ret (9 * j + 8) (9 * j))) ∧
    (∀ k : Nat, k < 81 → ∃ v, at_ (10 + (k / 9 : Nat)) = some v ∧
      trit v (k % 9) = if k ∈ t.lanes.map (·.slot) then 1 else 0) ∧
    (∀ j : Int, 19 ≤ j → j < 27 → at_ j = some 0) ∧
    (entries → ∀ e ∈ t.lanes, (∀ j : Nat, j < 4 → at_ (27 + 6 * (e.slot : Int) + j) = some (trits e.addr (9 * j + 8) (9 * j))) ∧
      at_ (27 + 6 * (e.slot : Int) + 4) = some e.cause ∧ at_ (27 + 6 * (e.slot : Int) + 5) = some e.level) ∧
    (∀ j : Int, (j < 0 ∨ 27 ≤ j) → (¬ entries ∨ ∀ e ∈ t.lanes, j < 27 + 6 * (e.slot : Int) ∨ 27 + 6 * (e.slot : Int) + 6 ≤ j) →
      at_ j = none)

/-- Taking a trap (R316): the trap registers, the frame in memory, the kept state, no-spawn mode, the latches; the group goes on
at the handler's address. Everything else of the group, and every other context of the core, is as it was. -/
def Sys2Proof.Claims.TrapTaken : Prop :=
  ∀ (s : State) (core c : Nat) (g : Group) (t : Trap) (ws : List (Machine.PUnit × Int)) (u : State) (at_ : Attr),
    getGroup s core c = some g → g.r.tr.inHandler = false → g.r.tr.vec ≠ 0 → g.r.tr.vec % 6 = 0 →
    g.haltPending = false → g.stepping = false → msorted g.r.v = true →
    (g.r.super = true ∨ trit (getDie s (dieOf core)).tsq 2 ≠ 1) →
    let g0 := { g with hold := none, holdCharge := 0, leaveGranted := false, raised := none, wait := none, st := .ready, exempt := none }
    translateRuns (xlOf core g.r) (frameRuns g.r.tr.fp (entered g t))
      (setGroup (dropHold s core c) core c { g0 with r := { g.r with tr := { trapRegs g t with inHandler := false } } }) =
      (some ws, u) →
    (∀ p ∈ ws, PlainUnit u p.1 ∧ p.1.attr = at_ ∧ InTrits 9 p.2) → at_.binary = false →
    ∃ h, getGroup (takeTrap s core c t) core c = some h ∧
      h = { g0 with
        pc := g.r.tr.vec, r := { g.r with tr := trapRegs g t }, mstack := [], nospawn := true
        kept := some { active := g.active, mstack := g.mstack, nospawn := g.nospawn, forms := (h.kept.getD ⟨[], [], false, []⟩).forms } } ∧
      (∀ n, mget 0 ((h.kept.getD ⟨[], [], false, []⟩).forms) n = 2 ↔ isF (mget (.u 0) g.r.v n) = true) ∧
      (getCore (takeTrap s core c t) core).vlatch = [0, 0, 0] ∧ (getCore (takeTrap s core c t) core).slatch = [0, 0, 0] ∧
      (∀ l p r, ws = l ++ p :: r → (∀ q ∈ r, q.1.pa ≠ p.1.pa) →
        unitAt (takeTrap s core c t) at_.key false p.1.pa = some p.2) ∧
      (∀ j, j ≠ c → getGroup (takeTrap s core c t) core j = getGroup s core j)

/-- Trap entry and its frame (R316). -/
def Obligations.TrapEntryResult : Prop := TrapFrame ∧ TrapTaken

/-- When a trap is entered (R314, R319, R326): with a load, an atomic or a copy into registers pending the group waits, stalled,
and enters at the landing that it waits for, unless it stands in the shadow bank; without, at once; a halted group when it is resumed; a handler's trap is a double
fault, and so is a trap without a handler, which is taken with its registers written. -/
def Obligations.TrapWhenEntered : Prop :=
  ∀ (s : State) (core c : Nat) (g : Group) (t : Trap), getGroup s core c = some g →
    let waits := ∃ p ∈ g.pending, p.kind ≠ .other
    (g.r.tr.inHandler = false → g.st ≠ .halted → waits →
      let h := { g with raised := some t, st := .stalled }
      raiseTrap s core c t = setGroup s core c h ∧ (g.stopped = false → g.displaced = false → reasonOf h = 3)) ∧
    (g.r.tr.inHandler = false → g.st ≠ .halted → ¬ waits → raiseTrap s core c t = takeTrap s core c t) ∧
    (g.r.tr.inHandler = false → g.st = .halted → raiseTrap s core c t = setGroup s core c { g with raised := some t }) ∧
    (g.r.tr.inHandler = true → (g.r.super = true ∨ trit (getDie s (dieOf core)).tsq 2 ≠ 1) →
      DoubleFaulted s (raiseTrap s core c t) core c g) ∧
    (g.r.tr.inHandler = false → g.r.tr.vec = 0 → (g.r.super = true ∨ trit (getDie s (dieOf core)).tsq 2 ≠ 1) →
      DoubleFaulted s (takeTrap s core c t) core c
        { g with r := { g.r with tr := { trapRegs g t with inHandler := false } } }) ∧
    (g.raised = some t → g.st = .stalled → waits → exec (.trapEntry core c) s = .next s) ∧
    (g.raised = some t → g.st = .stalled → g.displaced = true → exec (.trapEntry core c) s = .next s) ∧
    (g.raised = some t → g.st = .stalled → g.displaced = false → ¬ waits → exec (.trapEntry core c) s = .next (takeTrap s core c t))

/-- `trap` records class 14 with its code and the guard's lanes for after the bundle; `rft` restores what the trap kept, with the
registers that were in form F in that form again, clears the in-handler trit and the latches and goes on at the return address, outside a handler or under a guard test it is an illegal
opcode; `bkpt` halts a user-mode group with cause 1 where breakpoints are enabled, and does nothing elsewhere (R239 to R241,
R318, R327, R328). -/
def Obligations.TrapInstructions : Prop :=
  ∀ (s : State) (i : Issue) (c : Nat) (g : Group), GroupRuns s i c g →
    (∀ a, 0 ≤ ssrc s i a → ssrc s i a ≤ 121 → i.after = none → exec (.trap a) s = .next { s with issue := some { i with
      restart := true
      after := some { cls := 14, detail := ssrc s i a, lanes := i.guard.map fun k => { slot := k }, pc := i.pc, ret := i.pc } } }) ∧
    (∀ a, ssrc s i a < 0 ∨ 121 < ssrc s i a → ∃ t, exec (.trap a) s = .next t ∧
      ∃ u, Traps s u i c 1 (plainLanes (activeLanes g)) ∧ t = { u with issue := t.issue }) ∧
    (i.gtest ≠ 0 ∨ g.r.tr.inHandler = false → ∃ t, exec .rft s = .next t ∧ Traps s t i c 1 (plainLanes (activeLanes g))) ∧
    (∀ k, i.gtest = 0 → g.r.tr.inHandler = true → g.r.tr.ret % 6 = 0 → g.kept = some k → g.held12 = none →
      msorted k.forms = true →
      ∃ t m, exec .rft s = .next t ∧ t.issue = some { i with restart := true } ∧ getGroup t i.core c = some { g with
          active := k.active.filter fun l => (occupied g).contains l
          mstack := k.mstack, nospawn := k.nospawn, kept := none, pc := g.r.tr.ret
          r := { g.r with v := m, tr := { g.r.tr with inHandler := false } } } ∧
        (∀ n, mget 0 k.forms n ≠ 2 → mget (.u 0) m n = mget (.u 0) g.r.v n) ∧
        (∀ n, mget 0 k.forms n = 2 → isF (mget (.u 0) m n) = true ∧ ∀ l, l < g.width → l ∈ occupied g →
          laneVal (mget (.u 0) m n) g.items l = laneVal (mget (.u 0) g.r.v n) g.items l) ∧
        (getCore t i.core).vlatch = [0, 0, 0] ∧ (getCore t i.core).slatch = [0, 0, 0] ∧ t.mem = s.mem ∧
        ∀ j, j ≠ c → getGroup t i.core j = getGroup s i.core j) ∧
    (∀ a, g.r.super = true → exec (.bkpt a) s = .next s) ∧
    (∀ a, g.r.super = false → trit (getDie s (dieOf i.core)).tsq 2 ≠ 1 →
      (trit (getDie s (dieOf i.core)).dbgctl 1 ≠ 1 ∨ g.exempt = some i.pc → exec (.bkpt a) s = .next s) ∧
      (trit (getDie s (dieOf i.core)).dbgctl 1 = 1 → g.exempt ≠ some i.pc → mboxOn (getDie s (dieOf i.core)) = false →
        ∃ t, exec (.bkpt a) s = .next t ∧ t = push (setGroup { s with issue := some { i with broke := true } } i.core c { g with
          pc := i.pc, st := .halted, haltCause := 1, haltPending := false, stepping := false, stepSpawn := [] })
          (.teamDissolve g.team)))

/-! ## Requests of supervisor software -/

/-- The supervisor instructions raise the privilege trap in user mode; operands out of range raise the illegal-opcode trap; nothing
is done (R237, R242 to R248). The order of the two checks, privilege first but in `bkmode`, is the model's choice (log 32). -/
def Obligations.SystemRefusals : Prop :=
  ∀ (s : State) (i : Issue) (c : Nat) (g : Group), GroupRuns s i c g →
    let all := plainLanes (activeLanes g)
    let done (x : Instr) (cls : Nat) := ∃ t u, exec x s = .next t ∧ Traps s u i c cls all ∧ t = { u with issue := t.issue }
    (g.r.super = false → ∀ d a (b : Int) (o : Opd),
      done (.inval d a b) 4 ∧ done (.mbox d a) 4 ∧ done (.share d a o) 4 ∧ done (.pcomp a o) 4) ∧
    (∀ o, (ssrc s i o < 0 ∨ 8 < ssrc s i o) → done (.prog o) 1) ∧
    (∀ o p, (ssrc s i o < 0 ∨ 35 < ssrc s i o) ∨ (ssrc s i p < -1 ∨ 1 < ssrc s i p) → done (.bkmode o p) 1) ∧
    (g.r.super = true → ∀ d a o, (ssrc s i o < 0 ∨ 80 < ssrc s i o) → done (.share d a o) 1) ∧
    (g.r.super = true → ∀ d a (b : Int), mget 0 (srcRegs s i).s (a + 1) < 0 ∨ ¬ InTrits 9 (mget 0 (srcRegs s i).s (a + 2)) →
      InTrits 27 (mget 0 (srcRegs s i).s (a + 2)) → done (.inval d a b) 1) ∧
    (g.r.super = true → ∀ a o, ssrc s i o ≠ 1 → (ssrc s i o < -10 ∨ 0 ≤ ssrc s i o) → done (.pcomp a o) 1)

/-- Invalidation (R63 to R66, R242): the request covers what its operands say and goes to every agent; a die that it reaches drops
every cached translation that it covers and no other, with the cached upper entries that lead to its pages, and marks covered
walks stale; when the last agent has reported drained, the issuing group's destination is bound to +1 and the request is
gone. A second request of the group waits, and so does one whose core has writes not yet performed at package scope (R351). -/
def Obligations.InvalidationResult : Prop :=
  (∀ (s : State) (i : Issue) (c : Nat) (g : Group) (d a : Nat) (b : Int), GroupRuns s i c g → g.r.super = true →
    0 ≤ mget 0 (srcRegs s i).s (a + 1) → InTrits 9 (mget 0 (srcRegs s i).s (a + 2)) →
    (g.inval ≠ none → ∃ t, exec (.inval d a b) s = .next t ∧ ∃ h, getGroup t i.core c = some h ∧
      h = { g with pc := i.pc, st := .stalled, wait := some .inval } ∧ Reports h 7 ∧ t.invals = s.invals) ∧
    (g.inval = none → mustWait (drainBuffer s i.core) i.core 4 = true → ∃ t, exec (.inval d a b) s = .next t ∧ ∃ h, getGroup t i.core c = some h ∧
      h = { g with pc := i.pc, st := .stalled, wait := some .own } ∧ Reports h 8 ∧ t.invals = s.invals) ∧
    (g.inval = none → mustWait s i.core 4 = false → (getCore s i.core).comb = [] → ∃ t, exec (.inval d a b) s = .next t ∧
      mfind t.invals (s.nextId + 1) = some { core := i.core, ctx := c, team := g.team, pend := some s.nextId
                                             asid := mget 0 (srcRegs s i).s (a + 2), page := mget 0 (srcRegs s i).s a
                                             count := mget 0 (srcRegs s i).s (a + 1), glob := decide (b = 1)
                                             waiting := invalAgents s } ∧
      getGroup t i.core c = some { g with inval := some (s.nextId + 1), pending := g.pending ++
        [{ id := s.nextId, kind := .other, regs := [.s d], inHandler := g.r.tr.inHandler, pc := i.pc }] } ∧
      t.agenda = s.agenda ++ (invalAgents s).map fun e => .invalidationByRange e (s.nextId + 1))) ∧
  (∀ (s : State) (e req : Nat) (v : Inval), mfind s.invals req = some v → e ∈ v.waiting → e ∉ v.arrived → e < 9 →
    ∃ t, exec (.invalidationByRange e req) s = .next t ∧
      (∀ x : TlbEntry, x.leaf.span = false → (x ∈ (getDie t e).tlb ↔ x ∈ (getDie s e).tlb ∧
        ¬ ((if v.glob then x.leaf.glob = true else x.asid = v.asid) ∧
          (v.count = 0 ∨ (v.page ≤ x.page ∧ x.page < v.page + v.count))))) ∧
      (∀ w ∈ (getDie t e).walks, (v.glob = true ∨ w.asid = v.asid) → (v.count = 0 ∨ (v.page ≤ w.page ∧ w.page < v.page + v.count)) →
        w.stale = true) ∧
      (∀ u ∈ (getDie t e).tables, u ∈ (getDie s e).tables ∧
        let n : Int := if u.level = 1 then 3 ^ 9 else 3 ^ 18
        ¬ ((v.glob = true ∨ u.asid = v.asid) ∧
          (v.count = 0 ∨ (∃ p, n * u.pref ≤ p ∧ p < n * u.pref + n ∧ v.page ≤ p ∧ p < v.page + v.count)))) ∧
      t.mem = s.mem ∧ t.cores = s.cores) ∧
  (∀ (s : State) (e req : Nat) (v : Inval) (g : Group) (p : Pend), mfind s.invals req = some v → v.waiting = [e] →
    e ∈ v.arrived → 9 ≤ e → getGroup s v.core v.ctx = some g → g.inval = some req → v.pend = some p.id → g.wait ≠ some .inval →
    g.pending.find? (fun q => q.id == p.id) = some p →
    ∃ t h, exec (.drainedReport e req) s = .next t ∧ mfind t.invals req = none ∧ getGroup t v.core v.ctx = some h ∧
      h.inval = none ∧ (∃ q ∈ h.pending, q.id = p.id ∧ q.land = some { words := p.regs.map fun r => (r, 1), acq := some { scope := 4, mask := allPaths } }) ∧
      Event.valueLanding v.core v.ctx p.id ∈ t.agenda)

namespace Sys2Proof.Claims

/-- The scalar register of the executing context. -/
def sreg (s : State) (i : Issue) (n : Nat) : Int := mget 0 (whoRegs s i.core i.who).s n
/-- The group's other registers, its items and its lanes are as they were. -/
def OthersKept (g h : Group) (d : Nat) : Prop :=
  h = { g with r := { g.r with s := h.r.s }, region := h.region, pending := h.pending, ops := h.ops, inval := h.inval } ∧
  ∀ n, n ≠ d → mget 0 h.r.s n = mget 0 g.r.s n

/-- The block of a packet as it is delivered (R176, R245). -/
def packetTrits (p : Packet) (x : Int) : Prop :=
  trits x 242 189 = p.first ∧ trits x 188 135 = p.last ∧ trits x 134 102 = p.addr ∧ trits x 101 93 = p.kind ∧
  trits x 92 88 = p.source ∧ trits x 87 9 = 0 ∧ trits x 8 0 = (if p.kind = 4 ∨ p.kind = 5 then p.status else 0)

/-- The nonets of a block of the scratchpad. -/
def blockKeys (i : Issue) (e : Int) : List Nat := (List.range 27).map fun (j : Nat) => spKey (clusterOf i.core) (e + j)

/-- The fields of a packet fit their places. -/
def PacketFits (p : Packet) : Prop :=
  InTrits 54 p.first ∧ InTrits 54 p.last ∧ InTrits 33 p.addr ∧ p.kind ≤ 5 ∧ p.source ≤ 10 ∧ InTrits 9 p.status

end Sys2Proof.Claims

/-- The device's own requests complete, where what is released with them does not have to wait for writes that are not yet performed
(R179, R244 to R248, R351). `launch` posts a packet of kind 3 to the mailbox of its die, or to
the overflow chain, and says which; `tcbsig` lowers the block's wait count; `mbox` takes the oldest packet, of the mailbox
before the chain, stores its block and lands its kind, or waits for one, which takes the first that arrives; `share` places a
range, or says why not; `pcomp` of a host piece reports it; `prog` adds 1 to its counter. -/
def Obligations.DeviceRequests : Prop :=
  (∀ (s : State) (i : Issue) (c : Nat) (g : Group) (d a : Nat) (pa : Int) (u : State), GroupRuns s i c g →
    tcbCheck s i (getA s i a) = (.ok pa, u) → (getCore u i.core).comb = [] → mustWait u i.core 4 = false →
    let die := dieOf i.core
    ((getDie u die).mail.length < 27 → ∃ t h p, exec (.launch d a) s = .next t ∧ getGroup t i.core c = some h ∧
      OthersKept g h d ∧ sreg t i d = 1 ∧ (getDie t die).mail = (getDie u die).mail ++ [p] ∧
      (getDie t die).chain = (getDie u die).chain ∧ p.addr = pa ∧ p.kind = 3 ∧ p.source = 2 + die ∧ p.user = !g.r.super) ∧
    (27 ≤ (getDie u die).mail.length → ∃ t p, exec (.launch d a) s = .next t ∧ sreg t i d = 0 ∧
      (getDie t die).mail = (getDie u die).mail ∧ (getDie t die).chain = (getDie u die).chain ++ [p] ∧ p.addr = pa ∧ p.kind = 3)) ∧
  (∀ (s : State) (i : Issue) (c : Nat) (g : Group) (a : Nat) (pa : Int) (u v : State) (b : List Int), GroupRuns s i c g →
    tcbCheck s i (getA s i a) = (.ok pa, u) → (getCore u i.core).comb = [] → mustWait u i.core 4 = false → PlainUnit u { pa := pa + 27, attr := {} } →
    pa % 27 = 0 → readPhys u (pa + 27) = (.ok b, v) → b.length = 27 → (∀ x ∈ b, InTrits 9 x) →
    0 < trits (ofNonets b) 176 168 → ∃ t, exec (.tcbsig a) s = .next t ∧
      ∃ b' w, readPhys t (pa + 27) = (.ok b', w) ∧
        b' = blockOf (setTrits (ofNonets b) 176 168 (trits (ofNonets b) 176 168 - 1)) ∧
        (trits (ofNonets b) 176 168 = 1 → trits (ofNonets b) 158 154 ≠ 0 → ∀ lid l,
          s.launches.find? (fun e => decide (e.2.addr = pa) && e.2.st == .waiting) = some (lid, l) →
          Event.launchStart lid ∈ t.agenda)) ∧
  (∀ (s : State) (i : Issue) (c : Nat) (g : Group) (d a : Nat), GroupRuns s i c g → g.r.super = true →
    (getA s i a).scratch = true → regCheck (getA s i a) .store (getA s i a).ptr 27 = true →
    spFits s (clusterOf i.core) (getA s i a).ptr 27 = true → (∀ q ∈ g.pending, q.id < s.nextId) →
    let die := dieOf i.core
    let at_ := (getA s i a).ptr
    (∀ p, PacketFits p → (getDie s die).mboxWait = [] →
      ((∃ m, (getDie s die).mail = p :: m) ∨ ((getDie s die).mail = [] ∧ ∃ m, (getDie s die).chain = p :: m)) →
      ∃ t h q, exec (.mbox d a) s = .next t ∧ getGroup t i.core c = some h ∧ h.r = g.r ∧
        packetTrits p (ofNonets ((List.range 27).map fun (j : Nat) => spRead t (clusterOf i.core) (at_ + j))) ∧
        h.pending = g.pending ++ [q] ∧ q.regs = [.s d] ∧ q.land = some { words := [(.s d, (p.kind : Int))], acq := some { scope := 4, mask := allPaths } }) ∧
    ((getDie s die).mboxWait = [] → (getDie s die).mail = [] → (getDie s die).chain = [] →
      ∃ t h q, exec (.mbox d a) s = .next t ∧ getGroup t i.core c = some h ∧ h.r = g.r ∧ h.pending = g.pending ++ [q] ∧
        q.regs = [.s d] ∧ q.land = none ∧ (getDie t die).mboxWait =
          [{ core := i.core, ctx := c, id := q.id, scratch := some at_, asid := g.r.asid }])) ∧
  (∀ (s : State) (die : Nat) (w : MboxWait) (l : List MboxWait) (p : Packet) (m : List Packet) (a : Int) (g : Group) (q : Pend)
      (n : Nat), (getDie s die).mboxWait = w :: l → (getDie s die).mail = p :: m → w.scratch = some a → 0 ≤ a → PacketFits p →
    getGroup s w.core w.ctx = some g → g.pending.find? (fun x => x.id == w.id) = some q → q.id = w.id → q.regs = [.s n] →
    ∃ t h, exec (.mboxPacketArrival die) s = .next t ∧ (getDie t die).mboxWait = l ∧ (getDie t die).mail = m ∧
      getGroup t w.core w.ctx = some h ∧
      (∃ r ∈ h.pending, r.id = w.id ∧ r.land = some { words := [(.s n, (p.kind : Int))], acq := some { scope := 4, mask := allPaths } }) ∧
      packetTrits p (ofNonets ((List.range 27).map fun (j : Nat) => spRead t (clusterOf w.core) (a + j)))) ∧
  (∀ (s : State) (i : Issue) (c : Nat) (g : Group) (d a : Nat) (o : Opd) (n : Nat) (p : Packet) (lid : Nat) (l : Launch),
    GroupRuns s i c g → g.r.super = true → ssrc s i o = n → n ≤ 80 → (getA s i a).scratch = true →
    regCheck (getA s i a) .load (getA s i a).ptr 27 = true → spFits s (clusterOf i.core) (getA s i a).ptr 27 = true →
    (∀ j : Nat, j < 27 → spParity s (clusterOf i.core) ((getA s i a).ptr + j) = false) →
    UpToDate s i (blockKeys i (getA s i a).ptr) →
    (n ∉ liveCores (getDie s (dieOf i.core)) → ∃ t h, exec (.share d a o) s = .next t ∧ getGroup t i.core c = some h ∧
      OthersKept g h d ∧ sreg t i d = -1 ∧ t.dies = s.dies) ∧
    (n ∈ liveCores (getDie s (dieOf i.core)) →
      packetOf (spReads s (clusterOf i.core) (getA s i a).ptr 27) = some p → launchAt s p.addr = some lid →
      getLaunch s lid = some l → p.last < launchSize l.tcb → (getCore s (81 * dieOf i.core + n)).comb = [] →
      (∀ e rest, freeEntries (getCore s (81 * dieOf i.core + n)) = e :: rest → ∃ t q, exec (.share d a o) s = .next t ∧
        sreg t i d = 1 ∧ getRange t (81 * dieOf i.core + n) e = some q ∧ q.p0 = p.first ∧ q.p1 = p.last ∧ q.lid = lid ∧
        q.pc = l.hdr.entry ∧ q.st = .running) ∧
      (freeEntries (getCore s (81 * dieOf i.core + n)) = [] → ∃ t, exec (.share d a o) s = .next t ∧ sreg t i d = 0 ∧
        t.dies = s.dies))) ∧
  (∀ (s : State) (i : Issue) (c : Nat) (g : Group) (a : Nat) (o : Opd) (p : Packet) (lid : Nat) (l : Launch),
    GroupRuns s i c g → g.r.super = true → (ssrc s i o = 1 ∨ (-10 ≤ ssrc s i o ∧ ssrc s i o ≤ -1)) →
    (getA s i a).scratch = true → regCheck (getA s i a) .load (getA s i a).ptr 27 = true →
    spFits s (clusterOf i.core) (getA s i a).ptr 27 = true → (getCore s i.core).comb = [] → mustWait s i.core 4 = false →
    (∀ j : Nat, j < 27 → spParity s (clusterOf i.core) ((getA s i a).ptr + j) = false) →
    UpToDate s i (blockKeys i (getA s i a).ptr) →
    packetOf (spReads s (clusterOf i.core) (getA s i a).ptr 27) = some p → p.kind = 1 → launchAt s p.addr = some lid →
    getLaunch s lid = some l → l.pieces = [dieOf i.core] → l.st = .running → l.status = 0 →
    ∃ t m, exec (.pcomp a o) s = .next t ∧ getLaunch t lid = some m ∧ m.st = .complete ∧ m.status = ssrc s i o ∧
      Event.launchComplete lid ∈ t.agenda ∧ getGroup t i.core c = some g) ∧
  (∀ (s : State) (i : Issue) (c : Nat) (g : Group) (o : Opd) (n : Nat), GroupRuns s i c g → ssrc s i o = n → n ≤ 8 →
    ∃ t, exec (.prog o) s = .next t ∧ t.cores = s.cores ∧ t.mem = s.mem ∧
      ∀ m, mget 0 (getDie t (dieOf i.core)).pg m =
        if m = n then wrap 27 (mget 0 (getDie s (dieOf i.core)).pg n + 1) else mget 0 (getDie s (dieOf i.core)).pg m)

/-! ## Engines -/

namespace Sys2Proof.Claims

/-- The instructions that issue an engine operation: its kind, destination, address register, displacement in blocks, tile (R280,
R290, R291, R297). -/
def issueLaw : Instr → Option (EngKind × Option Nat × Nat × Int × Nat)
  | .mpass d a b => some (.pass, d, a, 0, b)
  | .mpassx d a x e => some (.pass, d, x, e, a)
  | .mdrain d a b => some (.drain, d, a, 0, b)
  | .mdrainx d a x e => some (.drain, d, x, e, a)
  | .cpy d a => some (.copy, d, a, 0, 0)
  | .cpyx d x e => some (.copy, d, x, e, 0)
  | _ => none

/-- The instruction reads its 27 nonets of parameter block through a register that lets engines load: in memory, or in the
scratchpad (R281 step 2). -/
def BlockAt (s : State) (i : Issue) (a : AReg) (e : Int) (x : Int) : Prop :=
  a.engine = true ∧ ∃ k t l u,
    checkLanes (xlOf i.core (srcRegs s i)) (clusterOf i.core) a .load false [{ slot := 0, e := e, n := 27 }] s = ([k], [], t) ∧
    k.place ≠ .out ∧ readChecked t i.core 0 false k = (.ok l, u) ∧ ofNonets l = x
/-- The group waits at its bundle for `w`, with the stall reason `n`; of the group nothing else has changed but what it holds of the
instruction. -/
def Stops (t : State) (i : Issue) (c : Nat) (g : Group) (w : Wait) (n : Nat) : Prop :=
  ∃ h, getGroup t i.core c = some h ∧ Reports h n ∧
    h = { g with pc := i.pc, st := .stalled, wait := some w, hold := h.hold, holdCharge := h.holdCharge }

/-- A status lands at once in the destination, where there is one, and the group's bundle is done. -/
def StatusLands (s t : State) (i : Issue) (c : Nat) (g : Group) (d : Option Nat) (v : Int) : Prop :=
  ∃ h, getGroup t i.core c = some h ∧ (∀ n, d = some n → sreg t i n = v ∧ OthersKept g h n) ∧
    t.ops = s.ops ∧ MemKept s t

end Sys2Proof.Claims

/-- Engine operations are accepted (R281): a well-formed block for which there is an entry and whose charge the governor grants
makes an operation, with the block as read, its destination pending, the issuer's translation registers and the performance
due; the charge is held. A malformed block gives status -1 at once, an unknown format -2, and no operation. With no entry
free the group waits at its bundle, and with no grant it waits for leave with its block held (R185 to R187). -/
def Sys2Proof.Claims.OperationAcceptance : Prop :=
  ∀ (y : Instr) (k : EngKind) (d : Option Nat) (a : Nat) (disp : Int) (tile : Nat) (s : State) (i : Issue) (c : Nat) (g : Group)
    (x : Int), issueLaw y = some (k, d, a, disp, tile) → GroupRuns s i c g → g.hold = none → g.holdCharge = 0 →
    g.leaveGranted = false → (k = .copy → trits x 239 237 ≠ 2) →
    (k = .copy ∨ findPin s (clusterOf i.core) g.lid (getA s i a).scratch ((getA s i a).ptr + 27 * disp) = none) →
    BlockAt s i (getA s i a) ((getA s i a).ptr + 27 * disp) x → friezeOn (getDie s (dieOf i.core)) = false →
    (getDie s (dieOf i.core)).leaveQ = [] → g.wait ≠ some .push →
    let charge := match k with | .pass => (trits x 239 237).toNat | .copy => 1 | _ => 0
    let room := hasEntry s (clusterOf i.core) i.core c (decide (k = .copy)) = true
    let die := getDie s (dieOf i.core)
    (blockStatus k x tile = 0 → room → (charge = 0 ∨ die.held + charge ≤ die.budget) → ∃ t h op id, exec y s = .next t ∧
      mfind t.ops id = some op ∧ getGroup t i.core c = some h ∧ h.ops = g.ops ++ [id] ∧ h.r = g.r ∧
      op.kind = k ∧ ofNonets op.block = x ∧ op.tile = tile ∧ op.core = i.core ∧ op.ctx = c ∧ op.team = g.team ∧
      op.lid = g.lid ∧ op.super = (srcRegs s i).super ∧ op.uroot = (srcRegs s i).uroot ∧ op.asid = (srcRegs s i).asid ∧
      (∀ n, d = some n → ∃ q, h.pending = g.pending ++ [q] ∧ q.regs = [.s n] ∧ q.land = none ∧ op.pend = some q.id) ∧
      (d = none → h.pending = g.pending ∧ op.pend = none) ∧
      (getDie t (dieOf i.core)).held = die.held + charge ∧ MemKept s t ∧
      opEvent k id ∈ t.agenda) ∧
    (blockStatus k x tile = 0 → ¬ room → ∃ t h b, exec y s = .next t ∧ Stops t i c g .engine 7 ∧
      getGroup t i.core c = some h ∧ h.hold = some b ∧ ofNonets b = x ∧ t.ops = s.ops) ∧
    (blockStatus k x tile = 0 → room → charge ≠ 0 → die.budget < die.held + charge → ∃ t, exec y s = .next t ∧
      Stops t i c g .leave 6 ∧
      (getDie t (dieOf i.core)).leaveQ = [{ charge := charge, core := i.core, ctx := c, team := g.team, num := g.num, explicit := false }]) ∧
    (blockStatus k x tile ≠ 0 → blockBarrier k x = 0 → ∃ t, exec y s = .next t ∧
      StatusLands s t i c g d (blockStatus k x tile))

/-- A copy into registers is accepted in the same way, by `cpy` and `cpyx` with a block of form 2: the target register of the group
that it names is pending from then on. Where that group or register does not exist the status is -1, and where the register is
pending already the group waits (R297, R298). -/
def Sys2Proof.Claims.RegisterCopyAcceptance : Prop :=
  ∀ (y : Instr) (d : Option Nat) (a : Nat) (disp : Int) (s : State) (i : Issue) (c : Nat) (g : Group) (x : Int),
    issueLaw y = some (.copy, d, a, disp, 0) → GroupRuns s i c g → g.hold = none → g.holdCharge = 0 →
    BlockAt s i (getA s i a) ((getA s i a).ptr + 27 * disp) x → friezeOn (getDie s (dieOf i.core)) = false →
    (getDie s (dieOf i.core)).leaveQ = [] → g.wait ≠ some .push → g.leaveGranted = false →
    trits x 239 237 = 2 → copyStatus x = 0 → g.r.tr.inHandler = false →
    let die := getDie s (dieOf i.core)
    let n := (trits x 108 100).toNat
    (∀ ctx h, groupNumbered s g.team (trits x 99 95).toNat = some (ctx, h) → getGroup s i.core ctx = some h →
      (getTeam s g.team).map (·.core) = some i.core → h.st ≠ .reserved → n < h.nf → regPending h n = false →
      hasEntry s (clusterOf i.core) i.core c true = true → die.held + 1 ≤ die.budget →
      ∃ t op id k q, exec y s = .next t ∧ mfind t.ops id = some op ∧ op.kind = .regCopy ∧ ofNonets op.block = x ∧
        op.core = i.core ∧ op.team = g.team ∧ getGroup t i.core ctx = some k ∧ q ∈ k.pending ∧ q.kind = .copy ∧
        q.regs = [.v n] ∧ q.slots = occupied h ∧ q.land = none ∧ Event.copyIntoRegisters id ∈ t.agenda ∧ MemKept s t) ∧
    (targetExists s g.team x = true → targetPending s g.team x = true →
      hasEntry s (clusterOf i.core) i.core c true = true →
      ∃ t, exec y s = .next t ∧ Stops t i c g .engine 7 ∧ t.ops = s.ops) ∧
    (targetExists s g.team x = false → blockBarrier .copy x = 0 → ∃ t, exec y s = .next t ∧ StatusLands s t i c g d (-1))

/-- The acceptance of passes, drains, copies and copies into registers (R281, R290, R291, R297, R298). -/
def Obligations.EngineAcceptance : Prop := OperationAcceptance ∧ RegisterCopyAcceptance

namespace Sys2Proof.Claims

/-- A barrier of a team after `n` more arrivals: the last admits the next phase (R303). -/
def arrived (b : Barrier) (n : Int) : Barrier :=
  if b.arrived + n = b.expected then { b with arrived := 0, phase := wrap 9 (b.phase + 1) } else { b with arrived := b.arrived + n }
/-- So does `c` stand after them, but for which releases the arrivals were. -/
def Arrives (b c : Barrier) (n : Int) : Prop := c = { arrived b n with rels := c.rels, met := c.met }
/-- The barrier of the group's team. -/
def barrierOf (s : State) (g : Group) (nb : Nat) : Barrier := getNb s g.team nb

/-- The entries that a group of a width pushes: nine lanes to an entry, three nonets to a lane, 0 in the lanes outside the guard
(R306). -/
def pushedEntries (i : Issue) (g : Group) (v : VReg) : List (List Int) :=
  (List.range (g.width / 9)).map fun j => (List.range 9).flatMap fun k =>
    let x := if 9 * j + k ∈ i.guard then laneVal v g.items (9 * j + k) else 0
    [trits x 8 0, trits x 17 9, trits x 26 18]

end Sys2Proof.Claims

/-- Barriers, FIFO banks, presence and leave (R300 to R312): the instructions complete as their rules say, and stop at what they
name. -/
def Obligations.BarrierFifoLeave : Prop :=
  ∀ (s : State) (i : Issue) (c : Nat) (g : Group) (tm : Team), GroupRuns s i c g → getTeam s g.team = some tm →
    let done (t : State) (h : Group) := getGroup t i.core c = some h ∧ h = { g with r := { g.r with s := h.r.s }, region := h.region }
    (∀ (d nb : Nat), ∃ t h, exec (.nbget d nb) s = .next t ∧ done t h ∧ sreg t i d =
      (barrierOf s g nb).phase * 3 ^ 18 + (barrierOf s g nb).arrived * 3 ^ 9 + (barrierOf s g nb).expected) ∧
    (∀ (nb : Nat) (o : Opd), 0 ≤ ssrc s i o → ssrc s i o ≤ 9841 →
      ((barrierOf s g nb).arrived = 0 ∨ (barrierOf s g nb).expected = ssrc s i o → ∃ t, exec (.nbinit nb o) s = .next t ∧ getGroup t i.core c = some g ∧
        barrierOf t g nb = { barrierOf s g nb with expected := ssrc s i o } ∧
        ∀ m, m ≠ nb → barrierOf t g m = barrierOf s g m) ∧
      ((barrierOf s g nb).arrived ≠ 0 → (barrierOf s g nb).expected ≠ ssrc s i o → ∃ t u, exec (.nbinit nb o) s = .next t ∧
        Traps s u i c 9 (i.guard.map fun k => { slot := k }) ∧ t = { u with issue := t.issue })) ∧
    (∀ (d : Option Nat) (nb : Nat) (o : Opd) (m : Int) (y : Instr), (y = .nbarr d nb o ∨ y = .nbarrx d nb o m) →
      1 ≤ ssrc s i o → ssrc s i o ≤ 9841 →
      ((barrierOf s g nb).expected ≠ 0 → (barrierOf s g nb).arrived + ssrc s i o ≤ (barrierOf s g nb).expected →
        g.wait = none → ∃ t h, exec y s = .next t ∧ done t h ∧ Arrives (barrierOf s g nb) (barrierOf t g nb) (ssrc s i o) ∧
          ∀ n, d = some n → sreg t i n = (barrierOf s g nb).phase) ∧
      ((barrierOf s g nb).expected = 0 ∨ (barrierOf s g nb).expected < (barrierOf s g nb).arrived + ssrc s i o →
        ∃ t u, exec y s = .next t ∧ Traps s u i c 9 (i.guard.map fun k => { slot := k }) ∧ t = { u with issue := t.issue })) ∧
    (∀ (nb : Nat) (o : Opd) (m : Int) (y : Instr), (y = .nbwait nb o ∨ y = .nbwaitx nb o m) →
      ((barrierOf s g nb).phase ≠ ssrc s i o → ∃ known, exec y s = .next { restarts s i with late := known }) ∧
      ((barrierOf s g nb).phase = ssrc s i o → ∃ t, exec y s = .next t ∧ Stops t i c g (.barrier nb (ssrc s i o)) 4)) ∧
    (∀ (o : Opd) (v n : Nat), ssrc s i o = n → n ≤ 107 → g.pushed = some i.pc → ∃ t, exec (.fpush o v) s = .next t ∧
      getGroup t i.core c = some { g with pushed := none } ∧ t.clusters = s.clusters) ∧
    (∀ (o : Opd) (v n : Nat), ssrc s i o = n → n ≤ 107 → g.pushed ≠ some i.pc →
      let k := getBank s (clusterOf i.core) n
      let es := pushedEntries i g (mget (.u 0) (srcRegs s i).v v)
      (bankMode s (clusterOf i.core) n = some (-1) → (∀ h ∈ k.held, h.push = false) → k.fifo.length + es.length ≤ 729 →
        ∃ t, exec (.fpush o v) s = .next t ∧ getGroup t i.core c = some g ∧
          getBank t (clusterOf i.core) n = { k with fifo := k.fifo ++ es } ∧ t.mem = s.mem) ∧
      (bankMode s (clusterOf i.core) n = some (-1) → 729 < k.fifo.length + es.length → ∃ t, exec (.fpush o v) s = .next t ∧ Stops t i c g .push 8 ∧
        (getBank t (clusterOf i.core) n).fifo = k.fifo ∧
        (getBank t (clusterOf i.core) n).held = k.held ++ [{ push := true, core := i.core, ctx := c, id := 0, team := g.team, num := g.num, entries := es }]) ∧
      (bankMode s (clusterOf i.core) n ≠ some (-1) → g.r.suppress = false → ∃ t u, exec (.fpush o v) s = .next t ∧
        Traps s u i c 8 (i.guard.map fun k => { slot := k }) ∧ t = { u with issue := t.issue })) ∧
    (∀ (d : Nat) (o : Opd) (n : Nat), ssrc s i o = n → n ≤ 107 → d < g.nf → WriteFree g d →
      bankMode s (clusterOf i.core) n = some (-1) → ∃ t h q, exec (.fpop d o) s = .next t ∧ getGroup t i.core c = some h ∧
        h.pending = g.pending ++ [q] ∧ q.regs = [.v d] ∧ q.slots = i.guard ∧ q.land = none ∧ isF (mget (.u 0) h.r.v d) = true ∧
        (∀ j, j ≠ d → mget (.u 0) h.r.v j = mget (.u 0) g.r.v j) ∧
        (getBank t (clusterOf i.core) n).fifo = (getBank s (clusterOf i.core) n).fifo ∧
        (getBank t (clusterOf i.core) n).held = (getBank s (clusterOf i.core) n).held ++
          [{ push := false, core := i.core, ctx := c, id := q.id, count := g.width / 9 }]) ∧
    (∀ (a : Nat) (o : Opd) (n : Nat), ssrc s i o = n → 1 ≤ n → n ≤ 729 → (getA s i a).scratch = true → (getA s i a).ptr % 27 = 0 →
      regCheck (getA s i a) .store (getA s i a).ptr (27 * n) = true →
      (∀ b : Nat, b < n → spIn s (clusterOf i.core) ((getA s i a).ptr + 27 * b) = true) →
      ∃ t, exec (.pclr a o) s = .next t ∧ getGroup t i.core c = some g ∧ t.mem = s.mem ∧
        (∀ b : Nat, b < n → spPresent t (clusterOf i.core) ((getA s i a).ptr + 27 * b) = false) ∧
        (∀ cl e, 0 ≤ e → spRead t cl e = spRead s cl e ∧
          ((cl ≠ clusterOf i.core ∨ e < (getA s i a).ptr ∨ (getA s i a).ptr + 27 * n ≤ e) →
            spPresent t cl e = spPresent s cl e))) ∧
    (∀ (o : Opd) (n : Nat), ssrc s i o = n → 1 ≤ n → n ≤ 81 →
      let die := getDie s (dieOf i.core)
      (g.leave = 0 → die.leaveQ = [] → die.held + n ≤ die.budget → ∃ t, exec (.leave o) s = .next t ∧
        getGroup t i.core c = some { g with leave := n } ∧ (getDie t (dieOf i.core)).held = die.held + n) ∧
      (g.leave = 0 → die.leaveQ = [] → die.budget < die.held + n → ∃ t, exec (.leave o) s = .next t ∧ Stops t i c g .leave 6 ∧
        (getDie t (dieOf i.core)).leaveQ = [{ charge := n, core := i.core, ctx := c, team := g.team, num := g.num, explicit := true }]) ∧
      (g.leave ≠ 0 → exec (.leave o) s = .next (restarts s i))) ∧
    (∃ t, exec .unleave s = .next t ∧ getGroup t i.core c = some { g with leave := 0 } ∧
      (getDie t (dieOf i.core)).held = (getDie s (dieOf i.core)).held - g.leave)

/-- Tiles, pins and queries (R293, R294, R310, R311): `mzero` is accepted as an operation of its own, without a charge; `mpin` of a
well-formed pass or drain block snapshots it under the launch and the address, with generation 1, or one more; `munpin` removes
it; `qpost` posts a query with the issuer's registers, its destination pending, where the team has fewer than 81, among which posts that
are not yet accepted count (the model's choice, log 17); `qstat` reads a number of the team's table. -/
def Obligations.PinsAndQueries : Prop :=
  ∀ (s : State) (i : Issue) (c : Nat) (g : Group) (tm : Team), GroupRuns s i c g → getTeam s g.team = some tm →
    let cl := clusterOf i.core
    (∀ (a n : Nat), 1 ≤ n → a + n ≤ 9 →
      (hasEntry s cl i.core c false = true → ∃ t op id, exec (.mzero a n) s = .next t ∧ mfind t.ops id = some op ∧
        op.kind = .zero ∧ op.tile = a ∧ op.count = n ∧ op.charge = 0 ∧ op.pend = none ∧
        (getCluster t cl).mtable = (getCluster s cl).mtable ++ [id] ∧ Event.drain id ∈ t.agenda ∧ t.mem = s.mem) ∧
      (hasEntry s cl i.core c false = false → ∃ t, exec (.mzero a n) s = .next t ∧ Stops t i c g .engine 7 ∧ t.ops = s.ops)) ∧
    (∀ (d a : Nat) (x : Int), BlockAt s i (getA s i a) (getA s i a).ptr x →
      ((trits x 242 240 = 1 ∧ passStatus x 0 = 0) ∨ (trits x 242 240 = 2 ∧ drainStatus x 0 = 0)) →
      let find (t : State) := findPin t cl g.lid (getA s i a).scratch (getA s i a).ptr
      (find s = none → (getCluster s cl).pins.length < 27 → ∃ t p, exec (.mpin (some d) a) s = .next t ∧ find t = some p ∧
        p.gen = 1 ∧ ofNonets p.block = x ∧ sreg t i d = 1) ∧
      (find s = none → 27 ≤ (getCluster s cl).pins.length → ∃ t, exec (.mpin (some d) a) s = .next t ∧
        (getCluster t cl).pins = (getCluster s cl).pins ∧ sreg t i d = 0) ∧
      (∀ p, find s = some p → ∃ t q, exec (.mpin (some d) a) s = .next t ∧ find t = some q ∧ ofNonets q.block = x ∧
        q.gen = (if p.gen = half 27 then 1 else p.gen + 1) ∧ sreg t i d = q.gen)) ∧
    (∀ (a : Nat), ∃ t, exec (.munpin a) s = .next t ∧ getGroup t i.core c = some g ∧
      findPin t cl g.lid (getA s i a).scratch (getA s i a).ptr = none ∧
      ∀ lid sp e, (lid ≠ g.lid ∨ sp ≠ (getA s i a).scratch ∨ e ≠ (getA s i a).ptr) → findPin t cl lid sp e = findPin s cl lid sp e) ∧
    (∀ (d a : Nat), (getA s i a).scratch = false → (getA s i a).engine = true →
      regCheck (getA s i a) .load (getA s i a).ptr 27 = true → (getA s i a).ptr % 27 = 0 →
      ((s.qrys.filter fun e => e.2.team == g.team).length < 81 → ∃ t h q v id, exec (.qpost (some d) a) s = .next t ∧
        mfind t.qrys id = some q ∧ q.addr = (getA s i a).ptr ∧ q.st = .posted ∧ q.team = g.team ∧ q.lid = g.lid ∧
        q.uroot = (srcRegs s i).uroot ∧ q.asid = (srcRegs s i).asid ∧ getGroup t i.core c = some h ∧
        h.pending = g.pending ++ [v] ∧ v.regs = [.s d] ∧ v.land = none ∧ q.pend = some v.id ∧ Event.queryAccept id ∈ t.agenda) ∧
      (81 ≤ (s.qrys.filter fun e => e.2.team == g.team).length → ∃ t, exec (.qpost (some d) a) s = .next t ∧
        Stops t i c g .engine 7 ∧ t.qrys = s.qrys)) ∧
    (∀ (d : Nat) (o : Opd) (n : Nat), ssrc s i o = n → 1 ≤ n → ∃ t h, exec (.qstat (some d) o) s = .next t ∧
      getGroup t i.core c = some h ∧ OthersKept g h d ∧
      sreg t i d = match mfind tm.queries n with | some w => 3 ^ 26 + w | none => 0)

/-! ## Events of groups -/

namespace Sys2Proof.Claims

/-- An item is in a core's spawn store: in a build of its team, role and target, or, while the team's pool is empty, in none. -/
def InStore (c : Core) (pool : List Nat) (x : Stored) : Prop :=
  (∃ b ∈ c.builds, x ∈ b.items ∧ b.target = x.target ∧ b.team = x.team ∧ b.role = x.role) ∨ (pool = [] ∧ x ∈ c.store)

/-- A build has become the group of its context: it stands at the build's target, its items in slots from 0, each with the values
it carried, and the registers that are not per lane are those that the items had in common (R154). -/
def BuiltAt (s t : State) (core : Nat) (b : Build) (old : Group) : Prop :=
  ∃ h, getGroup t core b.ctx = some h ∧ h.st = .ready ∧ h.team = old.team ∧ h.lid = old.lid ∧ h.role = b.role ∧
    h.pc = b.target ∧ h.restart = b.target ∧ h.r.s = b.shared.s ∧ h.r.a = b.shared.a ∧ h.r.fm = b.shared.fm ∧
    (∀ k, mfind h.items k = (b.items[k]?).map (·.item)) ∧ (∀ k, k ∈ activeLanes h ↔ k < b.items.length) ∧
    (∀ k it n x, b.items[k]? = some it → mfind it.v n = some x → laneVal (mget (.u 0) h.r.v n) h.items k = x) ∧
    (∀ n, (∀ it ∈ b.items, mfind it.v n = none) → mget (.u 0) h.r.v n = mget (.u 0) b.shared.v n) ∧
    (∀ x ∈ (getCore t core).builds, x ∈ (getCore s core).builds ∧ x.id ≠ b.id)

/-- The former holds a build whose context is reserved for its team. -/
def HasBuild (s : State) (core id : Nat) (b : Build) (it : Stored) (old : Group) : Prop :=
  (getCore s core).builds.find? (fun x => x.id == id) = some b ∧ b.items.head? = some it ∧ b.stepped = false ∧
  getGroup s core b.ctx = some old ∧ old.st = .reserved ∧ old.team = b.team ∧ b.items.length ≤ (launchHdr s old.lid).w

/-- Every other group of a build's team on the core waits in a way that lets the former issue early (R154). -/
def AllWait (s : State) (core : Nat) (b : Build) : Prop :=
  ∀ e ∈ (getCore s core).groups ++ shadowGroups (getCore s core),
    e.2.team = b.team → e.2.st ≠ .reserved → groupWaits e.2 = true

/-- A value lands (R161, R208, R313): in a scalar register, or in the slots of a vector register, and nothing else of the registers
changes but flags; a draining group discards it. A failing landing becomes a trap of class 12 whose detail is the cause of the
lowest failing slot; it is held where the group is in its handler, with the slots of an earlier one first; that of a load which
the handler issued is a double fault (R314, R315, R319). A group that waits to issue a copy goes on as a register lands (R281). Where an
earlier load or atomic of the group has a value that has not landed, a later one's landing stays due. The model's choices: that order
(log 92), that a draining group discards a failing landing too (log 25), that the flags of a discarded landing are set (log 63), and that
the frame names the bundle of the load (log 45). -/
def LandingLands : Prop :=
  ∀ (s : State) (core ctx id : Nat) (g : Group) (p : Pend) (l : Landing), getGroup s core ctx = some g →
    g.pending.find? (fun q => q.id == id) = some p → p.land = some l → g.rolling = false → g.displaced = false →
    (landsLater g p = true → exec (.valueLanding core ctx id) s = .next (push s (.valueLanding core ctx id))) ∧
    let rest := g.pending.filter fun q => q.id != id
    (landsLater g p = false →
    (g.st = .draining → g.wait ≠ some .engine → ∃ t h, exec (.valueLanding core ctx id) s = .next t ∧
      getGroup t core ctx = some h ∧
      h = { g with pending := rest, transit := h.transit, r := { g.r with sticky := g.r.sticky.or l.flags } } ∧
      t.mem = s.mem ∧ t.teams = s.teams) ∧
    (g.st ≠ .draining → l.fails = [] → ∃ t h, exec (.valueLanding core ctx id) s = .next t ∧ getGroup t core ctx = some h ∧
      h.pending = rest ∧ h.pc = g.pc ∧ (g.wait ≠ some .engine → h.st = g.st) ∧ h.items = g.items ∧ h.active = g.active ∧
      h.r.sticky = g.r.sticky.or l.flags ∧ t.mem = s.mem ∧
      (∀ n v, p.regs = [.s n] → l.words = [(.s n, v)] →
        (∀ m, mget 0 h.r.s m = if m = n then v else mget 0 g.r.s m) ∧ h.r.v = g.r.v ∧ h.r.a = g.r.a ∧ h.r.k = g.r.k) ∧
      (∀ n ls, p.regs = [.v n] → l.words = [] → mget (.u 0) g.r.v n = .f ls → (l.lanes.map (·.1)).Nodup →
        (∀ m, m ≠ n → mget (.u 0) h.r.v m = mget (.u 0) g.r.v m) ∧ h.r.s = g.r.s ∧ h.r.a = g.r.a ∧ h.r.k = g.r.k ∧
        ∀ k, k < ls.length → storedVal (mget (.u 0) h.r.v n) h.items k =
          match l.lanes.find? (fun e => e.1 == k) with | some e => e.2 | none => ls.getD k 0)) ∧
    (g.st ≠ .draining → g.st ≠ .halted → l.fails ≠ [] →
      (g.r.tr.inHandler = false → p.inHandler = false → g.raised = none → (∃ q ∈ rest, q.kind ≠ .other) →
        (l.fails.map (·.slot)).Nodup → ∃ t h x, exec (.valueLanding core ctx id) s = .next t ∧ getGroup t core ctx = some h ∧
          h.raised = some x ∧ x.cls = 12 ∧ x.lanes = l.fails ∧ x.pc = p.pc ∧ h.st = .stalled ∧
          (g.stopped = false → g.displaced = false → reasonOf h = 3) ∧
          ∀ e ∈ l.fails, (∀ f ∈ l.fails, e.slot ≤ f.slot) → x.detail = e.cause) ∧
      (g.r.tr.inHandler = true → p.inHandler = false → ∃ t h x, exec (.valueLanding core ctx id) s = .next t ∧
        getGroup t core ctx = some h ∧ h.held12 = some x ∧ (g.wait ≠ some .engine → h.st = g.st) ∧
        (g.held12 = none → x.cls = 12 ∧ x.lanes = l.fails) ∧
        ∀ u, g.held12 = some u → x.cls = u.cls ∧
          ∀ e, e ∈ x.lanes ↔ e ∈ u.lanes ∨ (e ∈ l.fails ∧ ∀ f ∈ u.lanes, f.slot ≠ e.slot)) ∧
      (p.inHandler = true → ∃ t h, exec (.valueLanding core ctx id) s = .next t ∧ getGroup t core ctx = some h ∧
        h.st = .halted ∧ h.haltCause = 5)))

/-- An item in transit, all its destinations landed, enters the spawn store with what it carries; a group that has then neither
items nor items in transit drains; the items of a halted group do not move (R153, R155, R326). -/
def ItemMoves : Prop :=
  ∀ (s : State) (core ctx slot : Nat) (g : Group) (x : Transit) (tm : Team), getGroup s core ctx = some g →
    g.transit.find? (fun t => t.slot == slot && t.waits == []) = some x → getTeam s x.it.team = some tm → g.displaced = false →
    let rest := g.transit.filter fun u => u.slot != slot
    (g.st = .halted → exec (.itemMove core ctx slot) s = .next s) ∧
    (g.st ≠ .halted → ∃ t h it, exec (.itemMove core ctx slot) s = .next t ∧ getGroup t core ctx = some h ∧ h.transit = rest ∧
      it = { x.it with since := it.since } ∧ InStore (getCore t core) tm.pool it ∧ t.mem = s.mem ∧
      (g.items ≠ [] ∨ rest ≠ [] → h = { g with transit := rest }) ∧
      (g.items = [] → rest = [] → g.st ≠ .draining → g.st ≠ .reserved → h.st = .draining ∧ h.leave = 0))

/-- The former's events (R154): it issues a build that is full, or whose team otherwise waits, or 729 cycles after its first item entered.
A step may also issue a build early, by a free choice; of that this says nothing. -/
def FormerIssues : Prop :=
  ∀ (s : State) (core id : Nat) (b : Build) (it : Stored) (old : Group), HasBuild s core id b it old →
    (it.width ≤ b.items.length ∨ AllWait s core b → ∃ t, exec (.formerGroupIssue core id) s = .next t ∧ BuiltAt s t core b old) ∧
    (b.items.length < it.width → ¬ AllWait s core b → exec (.formerGroupIssue core id) s = .next s) ∧
    ((∃ x ∈ b.items, x.since + 729 ≤ (getDie s (dieOf core)).cycle) →
      ∃ t, exec (.formerIssueTimeout core id) s = .next t ∧ BuiltAt s t core b old) ∧
    ((∀ x ∈ b.items, (getDie s (dieOf core)).cycle < x.since + 729) → exec (.formerIssueTimeout core id) s = .next s)

/-- A draining group of which nothing is outstanding gives its context back: to its team's pool where the register file supplies
the storage of a pool context, else held; and stays while something is outstanding (R156, R161). -/
def DrainingEnds : Prop :=
  ∀ (s : State) (core ctx : Nat) (g : Group) (tm : Team), getGroup s core ctx = some g → g.st = .draining →
    getTeam s g.team = some tm → g.displaced = false →
    (g.pending ≠ [] ∨ g.transit ≠ [] → exec (.drainingEnd core ctx) s = .next s) ∧
    (g.pending = [] → g.transit = [] → (∀ e ∈ s.qrys, e.2.team = g.team → e.2.ctx = ctx → e.2.st ≠ .posted) →
      (getCore s core).comb = [] → (∀ x ∈ (getCore s core).store, x.team ≠ g.team) →
      let need := poolRegs (launchHdr s g.lid) - g.storage
      let w := (launchHdr s g.lid).w
      (need ≤ fileFree (getCore s core) → ∃ t, exec (.drainingEnd core ctx) s = .next t ∧
        getGroup t core ctx = some
          { lid := g.lid, team := g.team, width := w, storage := g.storage + need, low := g.low + lowPart (getCore s core) need } ∧
        getTeam t g.team = some { tm with pool := tm.pool ++ [ctx] } ∧ (getCore t core).used = (getCore s core).used + need) ∧
      (fileFree (getCore s core) < need → ∃ t, exec (.drainingEnd core ctx) s = .next t ∧
        getGroup t core ctx = some { lid := g.lid, team := g.team, width := w, storage := g.storage, low := g.low } ∧
        getTeam t g.team = some tm ∧
        (getCore t core).used = (getCore s core).used))

end Sys2Proof.Claims

/-- Landings, moves of items, the former and the end of draining (R153 to R156, R161, R208). -/
def Obligations.GroupEvents : Prop := LandingLands ∧ ItemMoves ∧ FormerIssues ∧ DrainingEnds

/-! ## Events of teams -/

namespace Sys2Proof.Claims

/-- A range casts its next team (R142, R143, R148, R156): the first items of the run, in box order, as many as the kernel's team
size; each item in the slot that its place gives, at the range's address with its registers; a pool context for each spawn
context; the rest of the run stays, and no other context changes. A range that does not cast first, or whose team does not fit,
waits; for one of a serving launch that does not fit a bulk share may be requested (R191). -/
def TeamsCast : Prop :=
  ∀ (s : State) (core e : Nat) (q : Range) (h : Header) (n : Nat), getRange s core e = some q → h = launchHdr s q.lid →
    n = min h.T (q.p1 - q.p0 + 1).toNat → q.p0 ≤ q.p1 → 0 < h.w → 0 < h.T →
    (q.st = .casting → firstCaster s core e q = true → teamFits s core h n = true →
      ∃ t tm, exec (.teamCast core e) s = .next t ∧ getTeam t s.nextId = some tm ∧ tm.core = core ∧ tm.lid = q.lid ∧
        tm.box = q.box ∧ tm.p0 = q.p0 ∧ tm.size = n ∧ tm.family = q.family ∧ tm.pool.length = h.spawn ∧
        (∀ j, j < n → ∃ c g, getGroup s core c = none ∧ getGroup t core c = some g ∧ g.st = .ready ∧ g.team = s.nextId ∧
          g.num = j / h.w ∧ mfind g.items (j % h.w) = some (boxItem q.box (q.p0 + (j : Int))) ∧ g.pc = q.pc ∧ g.restart = q.pc ∧
          g.r.v = q.r.v ∧ g.r.s = q.r.s ∧ g.r.a = q.r.a ∧ g.r.k = q.r.k ∧ g.r.super = q.r.super ∧ g.r.asid = q.r.asid) ∧
        (∀ c ∈ tm.pool, getGroup s core c = none ∧ ∃ g, getGroup t core c = some g ∧ g.st = .reserved ∧ g.team = s.nextId) ∧
        (∀ c g, getGroup s core c = some g → getGroup t core c = some g) ∧
        (getCore t core).used = (getCore s core).used + teamStorage h n ∧
        getRange t core e = (if (q.p1 - q.p0 + 1).toNat ≤ n then none else some { q with p0 := q.p0 + (n : Int) }) ∧
        t.mem = s.mem ∧ ∀ e', e' ≠ e → getRange t core e' = getRange s core e') ∧
    (q.st ≠ .casting ∨ firstCaster s core e q = false ∨ teamFits s core h n = false →
      q.st ≠ .casting ∨ teamFits s core h n = true ∨ (launchTcb s q.lid).serving = false → exec (.teamCast core e) s = .next s) ∧
    (q.st = .casting → teamFits s core h n = false → (launchTcb s q.lid).serving = true →
      ∃ t, exec (.teamCast core e) s = .next t ∧ t.cores = s.cores ∧ t.teams = s.teams ∧ t.mem = s.mem)

/-- A box with items. -/
def BoxOk (b : Box) : Prop := b.x0 ≤ b.x1 ∧ b.y0 ≤ b.y1 ∧ b.z0 ≤ b.z1
/-- The whole family on a core is two ranges that wait at joins. -/
def TwoAtJoin (s : State) (core f e1 e2 : Nat) (a b : Range) : Prop :=
  msorted (getCore s core).ranges = true ∧ getRange s core e1 = some a ∧ getRange s core e2 = some b ∧ e1 < e2 ∧
  a.family = f ∧ b.family = f ∧ a.st = .atJoin ∧ b.st = .atJoin ∧ BoxOk a.box ∧ BoxOk b.box ∧
  ∀ e q, getRange s core e = some q → q.family = f → e = e1 ∨ e = e2

/-- Ranges of a family merge at a join when none of it runs (R145, R146): two with the same registers and the same join become one
where their items adjoin along `ix`, `iy` or `iz`, or in one run; it holds the items of both and runs on. Two at different joins run on
as they are. While one runs nothing merges. -/
def RangesMerge : Prop :=
  (∀ (s : State) (core f e : Nat) (q : Range), getRange s core e = some q → q.family = f → q.st = .running →
    exec (.rangeMerge core f) s = .next s) ∧
  ∀ (s : State) (core f e1 e2 : Nat) (a b : Range), TwoAtJoin s core f e1 e2 a b →
    (a.pc = b.pc → a.r = b.r →
      ((wholeRun a = true ∧ wholeRun b = true ∧
          (b.box = { a.box with x0 := a.box.x1 + 1, x1 := b.box.x1 } ∨ b.box = { a.box with y0 := a.box.y1 + 1, y1 := b.box.y1 } ∨
            b.box = { a.box with z0 := a.box.z1 + 1, z1 := b.box.z1 })) ∨
        (a.box = b.box ∧ 0 ≤ a.p0 ∧ a.p0 ≤ a.p1 ∧ a.p1 + 1 = b.p0 ∧ b.p0 ≤ b.p1)) →
      ∃ t q, exec (.rangeMerge core f) s = .next t ∧ getRange t core e1 = some q ∧ getRange t core e2 = none ∧
        q.st = .running ∧ q.pc = a.pc ∧ q.family = f ∧ q.r.v = a.r.v ∧ q.r.s = a.r.s ∧ q.r.a = a.r.a ∧ q.r.k = a.r.k ∧
        (∀ it, Holds q it ↔ Holds a it ∨ Holds b it) ∧
        ∀ e, e ≠ e1 → e ≠ e2 → getRange t core e = getRange s core e) ∧
    (a.pc ≠ b.pc → ∃ t, exec (.rangeMerge core f) s = .next t ∧ getRange t core e1 = some { a with st := .running } ∧
      getRange t core e2 = some { b with st := .running } ∧
      ∀ e, e ≠ e1 → e ≠ e2 → getRange t core e = getRange s core e)

/-- Is a group of a team at a dissolving join, with nothing that keeps the team from dissolving, and with the registers `r` in forms
U and A? (R147) -/
def JoinedWith (g : Group) (r : Regs) (pc : Int) : Prop :=
  g.st = .stalled ∧ (∃ n, g.wait = some (.join n)) ∧ g.r = r ∧ g.pc = pc ∧ g.mstack = [] ∧ g.transit = [] ∧ g.pending = [] ∧
  g.leave = 0 ∧ g.ops = [] ∧ g.items ≠ [] ∧ g.displaced = false

/-- A team dissolves into a range at its join when every group of it waits there with the same registers, none of them per lane,
all its items are there and a range entry is free: the range has the team's items and its registers. Where a group holds a
register per lane the groups go on as groups. While a group neither waits at the join nor is halted nothing happens (R147). -/
def TeamsDissolve : Prop :=
  ∀ (s : State) (t : Nat) (tm : Team), getTeam s t = some tm → (getCore s tm.core).shadow = none →
    let gs := teamAll s t
    (∀ r pc, gs ≠ [] → (∀ e ∈ gs, JoinedWith e.2 r pc) → r.tr.inHandler = false → (∀ e ∈ r.v, isF e.2 = false) →
      (∀ e ∈ r.k, ∃ x, e.2 = .u x) → tm.exited = false → tm.outstanding = 0 →
      (gs.map fun e => e.2.items.length).sum = tm.size → (∀ x ∈ (getCore s tm.core).store, x.team ≠ t) →
      (∀ b ∈ (getCore s tm.core).builds, b.team ≠ t) → freeEntries (getCore s tm.core) ≠ [] →
      ∃ u e q, exec (.teamDissolve t) s = .next u ∧ getTeam u t = none ∧ getRange s tm.core e = none ∧
        getRange u tm.core e = some q ∧ q.box = tm.box ∧ q.p0 = tm.p0 ∧ q.p1 = tm.p0 + tm.size - 1 ∧ q.pc = pc ∧
        q.st = .atJoin ∧ q.lid = tm.lid ∧ q.family = tm.family ∧ q.r.v = r.v ∧ q.r.s = r.s ∧ q.r.a = r.a ∧
        (∀ k l, maskTrit q.r k l = maskTrit r k l) ∧
        ∀ c g, getGroup u tm.core c = some g → g.team ≠ t) ∧
    ((∀ e ∈ gs, e.2.st = .stalled ∧ e.2.raised = none ∧ e.2.stopped = false ∧ e.2.rolling = false ∧ e.2.displaced = false ∧
        ∃ n, e.2.wait = some (.join n)) →
      (∃ e ∈ gs, ∃ p ∈ e.2.r.v, isF p.2 = true) → msorted (getCore s tm.core).groups = true →
      ∃ u, exec (.teamDissolve t) s = .next u ∧ getTeam u t = some tm ∧
        ∀ e ∈ gs, getGroup u tm.core e.1 = some { e.2 with wait := none, st := .ready }) ∧
    ((∃ e ∈ gs, e.2.st ≠ .draining ∧ e.2.st ≠ .halted ∧ ∀ n, e.2.wait ≠ some (.join n)) →
      exec (.teamDissolve t) s = .next s)

/-- A team retires when its groups are freed, none of its items is stored and its operations are complete; its contexts and its
slot are free then (R156, R162). -/
def TeamsRetire : Prop :=
  ∀ (s : State) (t : Nat) (tm : Team), getTeam s t = some tm →
    let c := getCore s tm.core
    let lives := ∃ e ∈ c.groups ++ shadowGroups c, e.2.team = t ∧ e.2.st ≠ .reserved
    let stored := (∃ x ∈ c.store, x.team = t) ∨ ∃ b ∈ c.builds, b.team = t
    (tm.saved = true ∨ lives ∨ stored ∨ tm.outstanding ≠ 0 → exec (.teamRetire t) s = .next s) ∧
    (tm.saved = false → ¬ lives → ¬ stored → tm.outstanding = 0 → ∃ u, exec (.teamRetire t) s = .next u ∧ getTeam u t = none ∧
      ∀ c g, getGroup u tm.core c = some g → g.team ≠ t)

/-- The choice of a core (R182, R183): the oldest of the candidates that have waited 243 turns; else the one whose engine has been
idle longest, among equals the oldest, then the lowest context. Its partners stand at the same bundle of the same launch in groups of its
width; of a bundle that may be packed all such candidates are taken, the oldest first, while they fit the lanes. A range takes the slot
where it is forced or where no group may issue; that one whose bundle is not in the buffer takes none is the model's choice (log 74). -/
def IssueChosen : Prop :=
  ∀ (s : State) (core : Nat), s.issue = none → core < 729 → (getCore s core).cyc.begun = true → (getCore s core).swapping = false →
    let c := getCore s core
    (rangeTurn (runners s core) = none ∨ c.sinceRange ≤ 26 → candidates c ≠ [] → ∃ t i l, exec (.issueChoice core) s = .next t ∧
      t.issue = some i ∧ i.core = core ∧ i.who = .group l.1 ∧ l ∈ candidates c ∧ i.pc = whoPc s core (.group l.1) ∧
      ((∃ e ∈ candidates c, 243 ≤ e.2.age) → 243 ≤ l.2.age ∧ ∀ e ∈ candidates c, e.2.age ≤ l.2.age) ∧
      ((∀ e ∈ candidates c, e.2.age < 243) → ∀ e ∈ candidates c, idleFor s core e.1 < idleFor s core l.1 ∨
        (idleFor s core e.1 = idleFor s core l.1 ∧ e.2.age ≤ l.2.age)) ∧
      (msorted c.groups = true → ∀ e ∈ candidates c, e.2.age = l.2.age → 243 ≤ l.2.age ∨ idleFor s core e.1 = idleFor s core l.1 →
        l.1 ≤ e.1) ∧
      (∀ b, bodyFor s core (.group l.1) = some b → packable b = true → l.2.width = 9 ∨ l.2.width = 27 →
        streamStore s core l.1 = false → ∀ p ∈ candidates c, p.1 ≠ l.1 → p.2.lid = l.2.lid → p.2.pc = l.2.pc →
        p.2.width = l.2.width → streamStore s core p.1 = false →
        p.1 ∈ i.partners ∨ (i.partners.length + 1 = 81 / l.2.width ∧
          ∀ r ∈ i.partners, ∃ g, (r, g) ∈ candidates c ∧ p.2.age ≤ g.age)) ∧
      (i.packed = true ↔ i.partners ≠ []) ∧ i.partners.length + 1 ≤ max 1 (81 / l.2.width) ∧
      (∀ p ∈ i.partners, ∃ g, (p, g) ∈ candidates c ∧ p ≠ l.1 ∧ g.lid = l.2.lid ∧ g.pc = l.2.pc ∧ g.width = l.2.width) ∧
      t.cores = s.cores ∧ t.mem = s.mem) ∧
    (∀ e, rangeTurn (runners s core) = some e → (26 < c.sinceRange ∨ candidates c = []) → ∃ t i,
      exec (.issueChoice core) s = .next t ∧ t.issue = some i ∧ i.core = core ∧ i.who = .range e.1 ∧ i.packed = false ∧
        e ∈ runners s core ∧ (∀ o ∈ runners s core, o.2.wait ≤ e.2.wait) ∧ t.cores = s.cores ∧ t.mem = s.mem)

/-- The oldest request for leave is granted where its charge fits the budget; until then it waits, and the others behind it
(R187). -/
def LeaveGranted : Prop :=
  ∀ (s : State) (die : Nat) (q : LeaveReq) (l : List LeaveReq) (g : Group), (getDie s die).leaveQ = q :: l →
    getGroup s q.core q.ctx = some g → isMember q.team q.num g = true →
    ((getDie s die).held + q.charge ≤ (getDie s die).budget → ∃ t h, exec (.leaveGrant die) s = .next t ∧
      (getDie t die).leaveQ = l ∧ (getDie t die).held = (getDie s die).held + q.charge ∧ getGroup t q.core q.ctx = some h ∧
      h.leave = (if q.explicit then q.charge else g.leave) ∧ (q.explicit = false → h.leaveGranted = true) ∧ h.wait = none ∧
      (g.st = .stalled → g.raised = none → g.stopped = false → g.rolling = false → h.st = .ready) ∧ h.r = g.r) ∧
    ((getDie s die).budget < (getDie s die).held + q.charge → exec (.leaveGrant die) s = .next s)

/-- A FIFO bank takes the oldest push that waits at it as one unit where it has room, and serves the oldest pop as one unit where it
holds enough entries: the popped words go to the slots of the pop's lanes, entry by entry (R305 to R308). -/
def FifoServes : Prop :=
  ∀ (s : State) (cl b : Nat) (h : Held), bankMode s cl b = some (-1) → h.op = none →
    let k := getBank s cl b
    (k.held.find? (fun x => x.push) = some h → k.fifo.length + h.entries.length ≤ 729 → ∀ g, getGroup s h.core h.ctx = some g →
      isMember h.team h.num g = true → g.wait = some .push → g.st = .stalled → g.raised = none → g.stopped = false → g.rolling = false →
      ∃ t, exec (.fifoPushEntry cl b) s = .next t ∧ (getBank t cl b).fifo = k.fifo ++ h.entries ∧
        (getBank t cl b).held.length + 1 = k.held.length ∧
        getGroup t h.core h.ctx = some { g with wait := none, st := .ready, pushed := some g.pc }) ∧
    (k.held.find? (fun x => x.push) = some h → 729 < k.fifo.length + h.entries.length →
      exec (.fifoPushEntry cl b) s = .next s) ∧
    (k.held.find? (fun x => !x.push) = some h → h.count ≤ k.fifo.length → k.parity = [] →
      ∀ g p, getGroup s h.core h.ctx = some g → g.pending.find? (fun x => x.id == h.id) = some p → ∃ t g' l,
        exec (.fifoPopRemove cl b) s = .next t ∧ (getBank t cl b).fifo = k.fifo.drop h.count ∧
        (getBank t cl b).held.length + 1 = k.held.length ∧ getGroup t h.core h.ctx = some g' ∧ g'.r = g.r ∧
        (∃ x ∈ g'.pending, x.id = h.id ∧ x.regs = p.regs ∧ x.land = some { lanes := l }) ∧
        (∀ n ∈ p.slots, ∃ w, (n, w) ∈ l ∧ ∀ e x y z, k.fifo[n / 9]? = some e → n / 9 < h.count → e.length = 27 →
          e[3 * (n % 9)]? = some x → e[3 * (n % 9) + 1]? = some y → e[3 * (n % 9) + 2]? = some z →
          w = x + y * 3 ^ 9 + z * 3 ^ 18)) ∧
    (k.held.find? (fun x => !x.push) = some h → k.fifo.length < h.count → exec (.fifoPopRemove cl b) s = .next s)

end Sys2Proof.Claims

/-- Casts, merges, dissolving and retirement of teams; the choice of a core; the governor; FIFO banks (R142 to R162, R181 to R187,
R305 to R308). -/
def Obligations.TeamEvents : Prop :=
  TeamsCast ∧ RangesMerge ∧ TeamsDissolve ∧ TeamsRetire ∧ IssueChosen ∧ LeaveGranted ∧ FifoServes

/-! ## Events of queues -/

namespace Sys2Proof.Claims

/-- A queue of the host may be served: it is on, a command stands at its head, no record waits and a completion slot is free (R167,
R168). -/
def Served (k : Queue) : Prop :=
  k.enable = true ∧ k.chead ≠ k.ctail ∧ k.records = [] ∧ (k.phead + 1) % 3 ^ k.jp ≠ k.ptail

/-- The command block at the head of a queue's ring, as a value of 243 trits (R166, R169). -/
def CommandIs (s : State) (q : Nat) (x : Int) : Prop :=
  ∃ l, readHostBlock s (729 * (getQueue s q).cbase + (getQueue s q).chead) = .ok l ∧ ofNonets l = x

/-- Is a command well formed, of a kind, for a task control block? (R169) -/
def WellFormedCmd (x kind a : Int) : Prop :=
  trits x 215 207 = kind ∧ (trit x 206 = 0 ∨ trit x 206 = 1) ∧ trits x 205 173 = a ∧ trits x 172 0 = 0 ∧
  ((kind = 3 ∧ a = 0) ∨ ((kind = 1 ∨ kind = 2) ∧ a % 27 = 0 ∧ 1 ≤ frameRegion (frameOf a) ∧ frameRegion (frameOf a) ≤ 3))

/-- What taking command `n` does to its queue, beside its answer: the head advances, the number is noted, and the next command is
expected to carry one more (R167). -/
def Taken (k k' : Queue) (n : Int) : Prop :=
  k'.chead = (k.chead + 1) % 3 ^ k.jc ∧ k'.lastcmd = n ∧ k'.expect = (if n = half 27 then 1 else n + 1) ∧
  k'.enable = k.enable ∧ k'.ctail = k.ctail ∧ k'.phead = k.phead ∧ k'.ptail = k.ptail ∧ k'.cbase = k.cbase ∧ k'.pbase = k.pbase

/-- The answer to a command waits to be written (R168, R170). -/
def Answered (t : State) (q : Nat) (n status a : Int) : Prop :=
  (getQueue t q).records = [{ cmd := n, kind := 1, status := status, addr := a }] ∧ Event.completionRecordWrite q ∈ t.agenda

/-- The commands of a host queue (R167, R169, R171, R172). One with a number other than the expected is taken and answered with
status -7, a malformed one too (the number is checked before the form: the model's choice, log 19). A no operation is answered with 1, a
malformed command with -8; a block that the host port rejects with -8 and
number 0, the numbers unchanged. A launch command holds its launch for the global command processor, which starts it when the
wait count is 0; one whose task control block is malformed ends with status -1. An abort of a launch that waits ends it with
status -5; of one that is neither held nor running it is answered with -8. -/
def CommandsTaken : Prop :=
  ∀ (s : State) (q : Nat) (x n a kind : Int), q < 81 → Served (getQueue s q) → CommandIs s q x → n = trits x 242 216 →
    let k := getQueue s q
    (WellFormedCmd x kind a → (trit x 206 = 1 → k.unfinished = []) → (kind = 1 → gcpWaiting s < 729) →
      let e : Instr := if kind = 1 then .launchCommand q else if kind = 2 then .abort q else .noOperation q
      (n ≠ k.expect → ∃ t, exec e s = .next t ∧ Taken k (getQueue t q) n ∧ Answered t q n (-7) a ∧ t.launches = s.launches) ∧
      (n = k.expect → kind = 3 → ∃ t, exec e s = .next t ∧ Taken k (getQueue t q) n ∧ Answered t q n 1 0 ∧
        t.launches = s.launches ∧ t.mem = s.mem ∧ t.cores = s.cores) ∧
      (n = k.expect → kind = 2 → s.launches.find? (fun e => decide (e.2.addr = a) && e.2.st != .complete) = none →
        ∃ t, exec e s = .next t ∧ Taken k (getQueue t q) n ∧ Answered t q n (-8) a ∧ t.launches = s.launches) ∧
      (n = k.expect → kind = 2 → ∀ lid l, getLaunch s lid = some l →
        s.launches.find? (fun e => decide (e.2.addr = a) && e.2.st != .complete) = some (lid, l) →
        ∃ t l', exec e s = .next t ∧ Taken k (getQueue t q) n ∧ (getQueue t q).unfinished = k.unfinished ++ [n] ∧
          getLaunch t lid = some l' ∧ l'.aborting = true ∧ l'.abortBy = l.abortBy ++ [(q, n)] ∧
          (l.st ≠ .running → l'.st = .complete ∧ l'.status = -5 ∧ Event.launchComplete lid ∈ t.agenda) ∧
          (∀ id op, mfind t.ops id = some op → l.st = .running → op.lid = lid → op.kind ≠ .zero → op.cancelled = true)) ∧
      (n = k.expect → kind = 1 → ∀ b0 b1 u v, PlainUnit s { pa := a, attr := {} } → PlainUnit s { pa := a + 27, attr := {} } →
        readPhys s a = (.ok b0, u) → readPhys s (a + 27) = (.ok b1, v) →
        let x0 := ofNonets b0
        let x1 := ofNonets b1
        ∃ t l w, exec e s = .next t ∧ Taken k (getQueue t q) n ∧ (getQueue t q).unfinished = k.unfinished ++ [n] ∧
          getLaunch t s.nextId = some l ∧ l.addr = a ∧ l.holder = 1 ∧ l.source = .host q n ∧
          (∃ b, readPhys t (a + 27) = (.ok b, w) ∧ ofNonets b = setTrits x1 158 154 1) ∧
          ((tcb0Ok x0 && tcb1Ok (trits x0 32 30) x1) = true → l.tcb = tcbOf x0 x1 ∧
            (trits x1 176 168 = 0 → l.st = .queued ∧ Event.launchStart s.nextId ∈ t.agenda) ∧
            (0 < trits x1 176 168 → l.st = .waiting)) ∧
          ((tcb0Ok x0 && tcb1Ok (trits x0 32 30) x1) = false →
            l.st = .complete ∧ l.status = -1 ∧ Event.launchComplete s.nextId ∈ t.agenda))) ∧
    ((∀ kind a, ¬ WellFormedCmd x kind a) → (trit x 206 = 1 → k.unfinished = []) → ∃ t, exec (.malformedCommand q) s = .next t ∧ Taken k (getQueue t q) n ∧
      (∃ at_, Answered t q n (if n = k.expect then -8 else -7) at_) ∧ t.launches = s.launches ∧ t.mem = s.mem)

/-- A command block that the host port rejects (R167). -/
def RejectedBlockTaken : Prop :=
  ∀ (s : State) (q c : Nat), q < 81 → Served (getQueue s q) →
    readHostBlock s (729 * (getQueue s q).cbase + (getQueue s q).chead) = .error c →
    ∃ t, exec (.malformedCommand q) s = .next t ∧ Answered t q 0 (-8) 0 ∧
      (getQueue t q).chead = ((getQueue s q).chead + 1) % 3 ^ (getQueue s q).jc ∧
      (getQueue t q).lastcmd = (getQueue s q).lastcmd ∧ (getQueue t q).expect = (getQueue s q).expect

/-- Writes of a queue's registers (R166): the doorbell and the consumer's tail take an index of their ring; `hq.ctl` is refused whole
where a reserved trit is not 0 or a value is invalid, takes only its enable trit while the queue is on, is refused where it would
turn on a queue whose two frames are equal, and turning on restarts the heads and the numbers. -/
def QueueRegistersWritten : Prop :=
  ∀ (s : State) (q : Nat) (v : Int), q < 82 →
    let k := getQueue s q
    (0 ≤ v → v < 3 ^ k.jc → ∃ t, exec (.doorbell q v) s = .next t ∧ getQueue t q = { k with ctail := v.toNat } ∧
      t.cores = s.cores ∧ t.mem = s.mem) ∧
    (v < 0 ∨ 3 ^ k.jc ≤ v → exec (.doorbell q v) s = .next s) ∧
    (0 ≤ v → v < 3 ^ k.jp → ∃ t, exec (.hqPtailWrite q v) s = .next t ∧ getQueue t q = { k with ptail := v.toNat } ∧
      (k.records ≠ [] → Event.completionRecordWrite q ∈ t.agenda)) ∧
    (v < 0 ∨ 3 ^ k.jp ≤ v → exec (.hqPtailWrite q v) s = .next s) ∧
    (trits v 26 12 ≠ 0 ∨ trits v 2 1 ≠ 0 ∨ trit v 0 = -1 → exec (.hqCtlWrite q v) s = .next s) ∧
    (trits v 26 12 = 0 → trits v 2 1 = 0 →
      (k.enable = true → trit v 0 = 1 → exec (.hqCtlWrite q v) s = .next s) ∧
      (k.enable = true → trit v 0 = 0 → ∃ t, exec (.hqCtlWrite q v) s = .next t ∧ getQueue t q = { k with enable := false }) ∧
      (k.enable = false → trit v 0 ≠ -1 →
        (trits v 11 9 < 1 ∨ trits v 8 6 < 3 ∨ 6 < trits v 8 6 ∨ trits v 5 3 < 3 ∨ 6 < trits v 5 3 →
          exec (.hqCtlWrite q v) s = .next s) ∧
        (1 ≤ trits v 11 9 → ∀ jc jp : Nat, trits v 8 6 = jc → trits v 5 3 = jp → 3 ≤ jc → jc ≤ 6 → 3 ≤ jp → jp ≤ 6 →
          (trit v 0 = 0 → ∃ t, exec (.hqCtlWrite q v) s = .next t ∧ getQueue t q = { k with gen := 1, jc := jc, jp := jp }) ∧
          (trit v 0 = 1 → k.cbase = k.pbase → exec (.hqCtlWrite q v) s = .next s) ∧
          (trit v 0 = 1 → k.cbase ≠ k.pbase → s.phase = .ready → ∃ t, exec (.hqCtlWrite q v) s = .next t ∧
            getQueue t q = { k with gen := 1, jc := jc, jp := jp, enable := true, chead := k.ctail, phead := k.ptail
                                    expect := 1, nextRec := 1 }))))

/-- The fields of a record fit their places (R170). -/
def RecFits (n : Int) (r : Rec) : Prop :=
  InTrits 27 n ∧ InTrits 27 r.cmd ∧ InTrits 9 r.kind ∧ InTrits 9 r.status ∧ InTrits 9 r.code ∧ InTrits 33 r.addr

/-- Records (R168, R170): the oldest that waits is written into the next slot of the completion ring where one is free, with the
next number, and an abort that waited for it is answered then (R169); an event joins the records of queue 0 while fewer than 243 events wait there and the queue is on, else it is dropped
and counted. A valid budget is stored (R186). -/
def RecordsWritten : Prop :=
  (∀ (s : State) (q : Nat) (r : Rec) (l : List Rec), q < 82 → (getQueue s q).records = r :: l → (getQueue s q).enable = true →
    let k := getQueue s q
    (RecFits k.nextRec r → (k.phead + 1) % 3 ^ k.jp ≠ k.ptail → r.follow = [] → r.link = 0 → ∃ t b, exec (.completionRecordWrite q) s = .next t ∧
      readHostBlock t (729 * k.pbase + k.phead) = .ok b ∧ trits (ofNonets b) 242 216 = k.nextRec ∧
      trits (ofNonets b) 215 189 = r.cmd ∧ trits (ofNonets b) 188 180 = r.kind ∧ trits (ofNonets b) 179 171 = r.status ∧
      trits (ofNonets b) 170 162 = r.code ∧ trits (ofNonets b) 161 129 = r.addr ∧ trits (ofNonets b) 128 0 = 0 ∧
      getQueue t q = { k with records := l, phead := (k.phead + 1) % 3 ^ k.jp, lastcpl := k.nextRec
                              nextRec := if k.nextRec = half 27 then 1 else k.nextRec + 1 } ∧
      (l ≠ [] → Event.completionRecordWrite q ∈ t.agenda)) ∧
    (∀ p n, (k.phead + 1) % 3 ^ k.jp ≠ k.ptail → r.follow = [(p, n)] → r.link = 0 → p ≠ q → p < 82 →
      ∃ t, exec (.completionRecordWrite q) s = .next t ∧ (getQueue t q).records = l ∧ Event.completionRecordWrite p ∈ t.agenda ∧
        (getQueue t p).records = (getQueue s p).records ++ [{ cmd := n, kind := 1, status := 1, addr := r.addr }]) ∧
    ((k.phead + 1) % 3 ^ k.jp = k.ptail → exec (.completionRecordWrite q) s = .next s)) ∧
  (∀ (s : State) (r : Rec) (l : List Rec), s.events = r :: l →
    let k := getQueue s 0
    let waiting := (k.records.filter fun e => e.kind == 2).length
    (k.enable = true → waiting < 243 → ∃ t, exec .eventRecordWrite s = .next t ∧ t.events = l ∧
      getQueue t 0 = { k with records := k.records ++ [r] } ∧ Event.completionRecordWrite 0 ∈ t.agenda) ∧
    (k.enable = false ∨ 243 ≤ waiting → r.link = 0 → ∃ t, exec .eventRecordWrite s = .next t ∧ t.events = l ∧
      getQueue t 0 = { k with lost := min (half 27) (k.lost + 1) })) ∧
  (∀ (s : State) (die : Nat) (v : Int), (81 ≤ v → v ≤ 2187 → ∃ t, exec (.lgBudgetWrite die v) s = .next t ∧
      (getDie t die).budget = v.toNat ∧ (getDie t die).held = (getDie s die).held) ∧
    (v < 81 ∨ 2187 < v → exec (.lgBudgetWrite die v) s = .next s))

end Sys2Proof.Claims

/-- The host queues: their commands, their registers and their records (R166 to R172, R186). -/
def Obligations.QueueEvents : Prop := CommandsTaken ∧ RejectedBlockTaken ∧ QueueRegistersWritten ∧ RecordsWritten

/-! ## Events of launches -/

namespace Sys2Proof.Claims

/-- A launch with items. -/
def HasItems (t : Tcb) : Prop := 0 < t.nx ∧ 0 < t.ny ∧ 0 < t.nz

/-- A launch starts (R172, R175, R180, R213): with its kernel header read and accepted, a host launch runs, and each of its
positions is in a packet to a die with live cores. A header that cannot be read ends it with status -9, one that is refused with
the status that R213 gives; a shadow launch that no shadow bank holds with -3, a co-resident one that the cores cannot hold with
-4; an admitted co-resident launch waits until they are free. -/
def LaunchesStart : Prop :=
  ∀ (s : State) (lid : Nat) (l : Launch), getLaunch s lid = some l → l.st = .queued → l.castAll = false → l.checked = false →
    HasItems l.tcb →
    let ended (n : Int) := ∃ t m, exec (.launchStart lid) s = .next t ∧ getLaunch t lid = some m ∧ m.st = .complete ∧
      m.status = n ∧ Event.launchComplete lid ∈ t.agenda
    (∀ u, fetchWalked s (tcbXl 9 l.tcb) 27 l.tcb.kernel = (none, u) → getLaunch u lid = some l → ended (-9)) ∧
    (∀ b u, fetchWalked s (tcbXl 9 l.tcb) 27 l.tcb.kernel = (some b, u) → getLaunch u lid = some l →
      let x := ofNonets b
      let h := headerOf l.tcb.kernel x
      (headerStatus l.tcb.kernel x ≠ 1 → ended (headerStatus l.tcb.kernel x)) ∧
      (headerStatus l.tcb.kernel x = 1 →
        (l.tcb.shadow = true → shadowOk l.tcb h = false → ended (-3)) ∧
        (l.tcb.shadow = false → l.tcb.coResident = true → coAdmitted u { l with hdr := h } = false → ended (-4)) ∧
        (l.tcb.shadow = false → l.tcb.coResident = true → coAdmitted u { l with hdr := h } = true →
          ∃ t, exec (.launchStart lid) s = .next t ∧ getLaunch t lid = some { l with hdr := h, castAll := true, checked := true } ∧
            Event.coResidencyCast lid ∈ t.agenda) ∧
        (l.tcb.shadow = false → l.tcb.coResident = false → liveDies u ≠ [] → ∀ q n, l.source = .host q n →
          ∃ t m, exec (.launchStart lid) s = .next t ∧ getLaunch t lid = some m ∧ m.st = .running ∧ m.hdr = h ∧ m.tcb = l.tcb ∧
            (∀ d ∈ m.pieces, liveCores (getDie u d) ≠ [] ∧ Event.workPacket d ∈ t.agenda) ∧
            ∀ p, 0 ≤ p → p < launchSize l.tcb → ∃ d ∈ m.pieces, ∃ k ∈ (getDie t d).senders, k.lid = lid ∧ k.addr = l.addr ∧
              k.kind = 1 ∧ k.source = 1 ∧ k.first ≤ p ∧ p ≤ k.last)))

/-- A co-resident launch is cast whole once every core that receives a share has its contexts, storage and slots free, and is kept for
no launch before it: each of its items is then in a slot of a group at the kernel's entry, in a context that was free (R151,
R180, R193). Until then it waits. -/
def CoResidentCast : Prop :=
  ∀ (s : State) (lid : Nat) (l : Launch), getLaunch s lid = some l → l.st = .queued → l.castAll = true →
    HasItems l.tcb → 0 < l.hdr.T → 0 < l.hdr.w → launchDies s l ≠ [] →
    (∀ d ∈ launchDies s l, liveCores (getDie s d.1) ≠ []) →
    let need (p : Nat × Int × Int) := runNeeds l.hdr (teamRuns l.hdr.T 28 p.2.1 p.2.2)
    let free (p : Nat × Int × Int) := (need p).1 ≤ (freeCtxs (getCore s p.1)).length ∧
      (need p).2.1 ≤ fileFree (getCore s p.1) ∧ (teamsOn s p.1).length + (need p).2.2 ≤ 27 ∧
      coreHeld s p.1 lid = false ∧ behindSaved s (dieOf p.1) lid = false
    let shares := coreShares s l.hdr (launchDies s l)
    ((∀ p ∈ shares, free p ∧ (getCore s p.1).comb = []) → ∃ t m, exec (.coResidencyCast lid) s = .next t ∧
      getLaunch t lid = some m ∧ m.st = .running ∧ t.mem = s.mem ∧
      ∀ p, 0 ≤ p → p < launchSize l.tcb → ∃ core c g k, getGroup s core c = none ∧ getGroup t core c = some g ∧ g.lid = lid ∧
        g.pc = l.hdr.entry ∧ g.st = .ready ∧ mfind g.items k = some (boxItem (launchBox l.tcb) p)) ∧
    ((∃ p ∈ shares, ¬ free p) → l.tcb.serving = false → exec (.coResidencyCast lid) s = .next s)

/-- A launch completes (R173): its status is written into block 1, then each successor's wait count falls by one, not below 0, then its
command is answered, and a successor whose count is then 0 and that waits is to start; a launch whose successor list is malformed has
status -1 and leaves the successors. That a list which cannot be read is malformed is the model's choice (log 20). -/
def LaunchesComplete : Prop :=
  ∀ (s : State) (lid : Nat) (l : Launch) (q : Nat) (n : Int) (b : List Int) (v u : State) (sc : Option (List Int)),
    getLaunch s lid = some l → l.st = .complete → l.aborting = false → l.abortBy = [] → l.source = .host q n → q < 82 →
    InTrits 9 l.status → successors s l.tcb.succ = (sc, u) → u.queues = s.queues → u.fw = s.fw → u.launches = s.launches →
    PlainUnit u { pa := l.addr + 27, attr := {} } →
    l.addr % 27 = 0 → readPhys u (l.addr + 27) = (.ok b, v) →
    let st := if sc = none then -1 else if l.status = 0 then 1 else l.status
    (sc = some [] ∨ sc = none → ∃ t c w, exec (.launchComplete lid) s = .next t ∧ getLaunch t lid = none ∧
      readPhys t (l.addr + 27) = (.ok c, w) ∧ ofNonets c = setTrits (ofNonets b) 167 159 st ∧
      (getQueue t q).records = (getQueue s q).records ++ [{ cmd := n, status := st, addr := l.addr }] ∧
      Event.completionRecordWrite q ∈ t.agenda) ∧
    (∀ ps : List Int, sc = some ps → ps.Nodup →
      (∀ p ∈ ps, p % 27 = 0 ∧ p ≠ l.addr ∧ PlainUnit u { pa := p + 27, attr := {} } ∧ ∃ d w, readPhys u (p + 27) = (.ok d, w)) →
      ∃ t, exec (.launchComplete lid) s = .next t ∧ getLaunch t lid = none ∧
        (getQueue t q).records = (getQueue s q).records ++ [{ cmd := n, status := st, addr := l.addr }] ∧
        ∀ p ∈ ps, ∀ d w, readPhys u (p + 27) = (.ok d, w) →
          (∃ c w', readPhys t (p + 27) = (.ok c, w') ∧
            ofNonets c = setTrits (ofNonets d) 176 168 (max 0 (trits (ofNonets d) 176 168 - 1))) ∧
          (trits (ofNonets d) 176 168 ≤ 1 → trits (ofNonets d) 158 154 ≠ 0 → ∀ id m,
            s.launches.find? (fun e => decide (e.2.addr = p) && e.2.st == .waiting) = some (id, m) → id ≠ lid →
            Event.launchStart id ∈ t.agenda))

/-- The oldest packet that waits in its sender takes a mailbox slot where one is free (R177). -/
def PacketsArrive : Prop :=
  ∀ (s : State) (die : Nat) (p : Packet) (l : List Packet), (getDie s die).senders = p :: l →
    ((getDie s die).mail.length < 27 → ∃ t, exec (.workPacket die) s = .next t ∧
      (getDie t die).mail = (getDie s die).mail ++ [p] ∧ (getDie t die).senders = l ∧
      ((getDie s die).mboxWait = [] → Event.plinth die ∈ t.agenda) ∧
      ((getDie s die).mboxWait ≠ [] → Event.mboxPacketArrival die ∈ t.agenda)) ∧
    (27 ≤ (getDie s die).mail.length → exec (.workPacket die) s = .next s)

/-- The end of a time slice (R193): where another launch waits for the die the share is requested, else its slice restarts. -/
def SlicesEnd : Prop :=
  ∀ (s : State) (die lid : Nat) (h : Share), findShare s die lid = some h →
    let j := (launchTcb s lid).slice
    (j ≠ 0 → (launchTcb s lid).serving = false → h.saved = false → h.requested = false →
      h.start + 3 ^ (12 + j) ≤ (getDie s die).cycle →
      (dieWanted s die lid = true → ∃ t, exec (.timeSliceExpiry die lid) s = .next t ∧
        findShare t die lid = some { h with requested := true } ∧ Event.shareSave die lid ∈ t.agenda) ∧
      (dieWanted s die lid = false → ∃ t, exec (.timeSliceExpiry die lid) s = .next t ∧
        findShare t die lid = some { h with start := (getDie s die).cycle })) ∧
    ((j = 0 ∨ (launchTcb s lid).serving = true ∨ h.saved = true ∨ h.requested = true ∨
        (getDie s die).cycle < h.start + 3 ^ (12 + j)) → exec (.timeSliceExpiry die lid) s = .next s)

/-- A requested share of which everything is stopped is saved: its groups leave the die, kept with their registers, items and
addresses; that of an aborted launch is dropped (the model's choice, log 18). Until then it waits (R188, R189). -/
def SharesSaved : Prop :=
  ∀ (s : State) (die lid : Nat) (h : Share) (l : Launch), findShare s die lid = some h → getLaunch s lid = some l →
    (h.requested = false ∨ (h.saved = false ∧ shareStopped s die lid = false) → exec (.shareSave die lid) s = .next s) ∧
    (h.requested = true → h.saved = false → shareStopped s die lid = true → (∀ x, (getCore s x).comb = []) →
      (l.aborting = false → (∀ i, i < (shareImage s die lid).length →
          backedMem s (blockFrame (l.tcb.image / 27 + (i : Int))) = true ∧ lineClash s (l.tcb.image / 27 + (i : Int)) physAttr = false) →
        ∃ t k, exec (.shareSave die lid) s = .next t ∧ findShare t die lid = some k ∧ k.saved = true ∧ k.requested = false ∧
          (∀ x c g, dieOf x = die → getGroup t x c = some g → g.lid ≠ lid) ∧
          (∀ x c g, dieOf x = die → (c, g) ∈ (getCore s x).groups → g.lid = lid → msorted (getCore s x).groups = true →
            ∃ g', (x, c, g') ∈ k.groups ∧ g'.r = g.r ∧ g'.items = g.items ∧ g'.active = g.active ∧ g'.pc = g.pc ∧
              g'.st = g.st ∧ g'.mstack = g.mstack ∧ g'.storage = g.storage) ∧
          (∀ e tm, getTeam t e = some tm → tm.lid = lid → dieOf tm.core = die → tm.saved = true)) ∧
      (l.aborting = true → ∃ t, exec (.shareSave die lid) s = .next t ∧
        ∀ x c g, dieOf x = die → getGroup t x c = some g → g.lid ≠ lid))

/-- What an image holds comes back (R194): what stands in spots that give back what they take, one after another; and the lanes of a
group's registers in form F. Where in its blocks a thing stands is the model's choice (log 21). -/
def ImageKeepsLanes : Prop :=
  (∀ (ps : List (Spot Group)) (g : Group) (rest : List Int), (∀ p ∈ ps, (p.get g).length = p.size ∧ p.put (p.get g) g = g) →
    takeSpots ps (spotsOf ps g ++ rest) g = g) ∧
  ∀ (g : Group) (rest : List Int),
    (∀ e ∈ g.r.v, ∀ l, e.2 = .f l → l.length = g.width ∧ ∀ x ∈ l, InTrits 27 x) →
    takeLanes g.width g.r.v ((fullLanes g).flatMap (toNonets 3) ++ rest) = g.r.v

/-- A saved share that comes first on its die returns, when its image can be read and each core has room: every group of it, as the image
gives it, in a free context with its items, address and registers; every range in a free entry. Until then it waits (R189, R190, R193,
R194). -/
def SharesRestored : Prop :=
  ∀ (s : State) (die lid : Nat) (h : Share), findShare s die lid = some h →
    (h.saved = false ∨ h.requested = true ∨ restoreFirst s die h = false ∨ restoreFits s h = false →
      exec (.shareRestore die lid) s = .next s) ∧
    (h.saved = true → h.requested = false → restoreFirst s die h = true → restoreFits s h = true →
      (h.groups.map fun e => (e.1, e.2.1)).Nodup →
      ∀ img u h' ts, readImage ((launchTcb s lid).image / 27) h.size s = (some img, u) → takeImage u die lid h img = (h', ts) → ∃ t k, exec (.shareRestore die lid) s = .next t ∧
      findShare t die lid = some k ∧ k.saved = false ∧ k.start = (getDie s die).cycle ∧
      (∀ x c g, (x, c, g) ∈ h'.groups → ∃ c' g', getGroup s x c' = none ∧ getGroup t x c' = some g' ∧ g'.r = g.r ∧ g'.items = g.items ∧ g'.active = g.active ∧ g'.pc = g.pc ∧ g'.mstack = g.mstack ∧
        (g.st = .halted → g'.st = .halted) ∧ (g.st ≠ .halted → g.st ≠ .reserved → g.leave = 0 → g'.st = .ready)) ∧
      (∀ x q, (x, q) ∈ h'.ranges → ∃ e, getRange s x e = none ∧
        getRange t x e = some { q with paid := (getDie s die).trialG }) ∧
      ∀ x c g, getGroup s x c = some g → getGroup t x c = some g)

/-- The shadow swap (R192): a core that is to exchange issues nothing for 27 cycles; then contexts 18 to 26 take the staged groups, and
what stood there is kept beside them; the other contexts stay, those displaced whose groups hold lane-registers that are exchanged. After
the serving team has retired the displaced groups return in the same way. When a launch is staged (log 72), and which lane-registers a
group holds (log 68), are the model's choices. -/
def ShadowsSwap : Prop :=
  ∀ (s : State) (core team : Nat) (gs : SMap Group), (getCore s core).shadow = some (team, gs) →
    (∀ e ∈ gs, 18 ≤ e.1 ∧ e.1 < 27) → msorted gs = true → msorted (getCore s core).groups = true → (getCore s core).comb = [] →
    ((getCore s core).swapping = true → s.issue = none → core < 729 → (getCore s core).cyc.begun = true →
      ∃ t, exec (.issueChoice core) s = .next t ∧ t.issue = none ∧ (getCore t core).swapWait = (getCore s core).swapWait - 1 ∧
        ((getCore s core).swapWait ≤ 1 →
          (if (getCore s core).swapped then Event.shadowSwapBack core else Event.shadowSwap core) ∈ t.agenda)) ∧
    ((getCore s core).swapped = true ∨ (getCore s core).swapping = false ∨ (getCore s core).swapWait ≠ 0 →
      exec (.shadowSwap core) s = .next s) ∧
    ((getCore s core).swapped = false → (getCore s core).swapping = true → (getCore s core).swapWait = 0 → ∃ t out, exec (.shadowSwap core) s = .next t ∧
      (getCore t core).shadow = some (team, out) ∧ (getCore t core).swapped = true ∧ (getCore t core).swapping = false ∧
      (∀ c, getGroup t core c = if 18 ≤ c ∧ c < 27 then mfind gs c
        else (getGroup s core c).map fun g => { g with displaced := g.displaced || decide (0 < g.low) }) ∧
      ∀ c g, 18 ≤ c → c < 27 → getGroup s core c = some g → ∃ g', (c, g') ∈ out ∧ g'.displaced = true ∧ g'.r = g.r ∧
        g'.items = g.items ∧ g'.pc = g.pc ∧ g'.active = g.active ∧ g'.pending = g.pending) ∧
    ((getCore s core).swapped = false ∨ (getCore s core).swapping = false ∨ (getCore s core).swapWait ≠ 0 ∨ getTeam s team ≠ none →
      exec (.shadowSwapBack core) s = .next s) ∧
    ((getCore s core).swapped = true → (getCore s core).swapping = true → (getCore s core).swapWait = 0 → getTeam s team = none →
      ∃ t, exec (.shadowSwapBack core) s = .next t ∧
      (getCore t core).shadow = none ∧ (getCore t core).swapped = false ∧ (getCore t core).swapping = false ∧
      (∀ c, ¬ (18 ≤ c ∧ c < 27) → (∀ g, getGroup s core c = some g → g.wait ≠ some .engine ∧ g.displaced = false ∧ g.st ≠ .reserved) →
        getGroup t core c = getGroup s core c) ∧
      ∀ c g, ((c, g) ∈ gs ∨ (¬ (18 ≤ c ∧ c < 27) ∧ getGroup s core c = some g ∧ g.displaced = true)) → g.st ≠ .reserved → ∃ g', getGroup t core c = some g' ∧ g'.displaced = false ∧ g'.r = g.r ∧ g'.items = g.items ∧
        g'.pc = g.pc ∧ g'.active = g.active ∧ g'.pending = g.pending)

end Sys2Proof.Claims

/-- Launches and their shares: start, co-residency, completion, packets, time slices, save and restore, the shadow banks (R151,
R171 to R180, R188 to R194). -/
def Obligations.LaunchEvents : Prop :=
  LaunchesStart ∧ CoResidentCast ∧ LaunchesComplete ∧ PacketsArrive ∧ SlicesEnd ∧ SharesSaved ∧ ImageKeepsLanes ∧ SharesRestored ∧
  ShadowsSwap

/-! ## Events of engines -/

namespace Sys2Proof.Claims

/-- An accepted operation whose turn it is (R285): in its table, waiting for no FIFO bank, with nothing of it performed; it names no
barrier, and the frieze of its die is off. -/
def OpTurn (s : State) (id : Nat) (op : EngineOp) (x : Int) : Prop :=
  mfind s.ops id = some op ∧ op.awaiting = false ∧ ofNonets op.block = x ∧ friezeOn (getDie s (dieOf op.core)) = false ∧
  (op.kind = .zero ∨ blockBarrier op.kind x = 0) ∧
  op.row = 0 ∧ op.part = 0 ∧ op.got = [] ∧ op.sent = 0 ∧ op.more = [] ∧ op.metas = [] ∧ op.fails = [] ∧ op.olds = [] ∧
  op.lost = false ∧ op.spoilt = false

/-- The steps of an event of a number, one after another: each has a next state. -/
def Performs (e : Instr) : Nat → State → State → Prop
  | 0, s, t => t = s
  | n + 1, s, t => ∃ u, exec e s = .next u ∧ Performs e n u t

/-- No operation accepted before it that is not performed names a tile of it (R285). -/
def TilesFree (s : State) (id : Nat) (op : EngineOp) : Prop :=
  ∀ j ∈ (getCluster s (clusterOf op.core)).mtable.takeWhile (· ≠ id), ∀ o, mfind s.ops j = some o →
    o.tile + o.count ≤ op.tile ∨ op.tile + op.count ≤ o.tile

/-- The completion of an operation (R283): its entry and its charge are free, and the status lands in its destination. -/
def Completes (s t : State) (id : Nat) (op : EngineOp) (status : Int) : Prop :=
  let cl := clusterOf op.core
  mfind t.ops id = none ∧ id ∉ (getCluster t cl).mtable ∧ id ∉ (getCluster t cl).copyq ∧
  (getDie t (dieOf op.core)).held = (getDie s (dieOf op.core)).held - op.charge ∧
  (∀ n q g p, op.pend = some n → getGroup s op.core op.ctx = some g → g.pending.find? (fun r => r.id == n) = some p →
    p.regs = [.s q] → ∃ h, getGroup t op.core op.ctx = some h ∧ ∃ r ∈ h.pending, r.id = n ∧
      ∃ rel, r.land = some { words := [(.s q, status)]
                             acq := some { scope := opScope op, mask := [(opAgent op).path, .core], meets := some [rel] } })

/-- An accumulator of a tile. -/
def acc (s : State) (cl tile k : Nat) : Int := mget 0 (getTile s cl tile) k
/-- A run of the scratchpad that the engine of an operation can read: settled banks, checks that hold, nonets, whose last writes it
has seen (R104, R106). -/
def RunReads (s : State) (op : EngineOp) (a : Int) (n : Nat) : Prop :=
  spFits s (clusterOf op.core) a n = true ∧ ∀ j : Nat, j < n → spParity s (clusterOf op.core) (a + j) = false ∧
    InTrits 9 (spRead s (clusterOf op.core) (a + j)) ∧
    ∀ e, (lateAt s (spKey (clusterOf op.core) (a + j))).head? = some e → Machine.sees e (opAgent op) = true

/-- A dense pass of nonets from the scratchpad, integer modulo `3^54` (R286, R287, R290), a row of A, then a column of B at a step, which
is the model's choice (log 16): every accumulator of its tiles takes the sum of the products of its row of A and its column of B; the
status is 1. A cancelled operation ends with -7, with row number 0 before any row (the model's choice, log 11), and one that shares a tile
with an earlier one waits (R285, R295). -/
def PassPerformed : Prop :=
  ∀ (s : State) (id : Nat) (op : EngineOp) (x : Int), OpTurn s id op x → op.kind = .pass →
    let cl := clusterOf op.core
    let K := (trits x 223 215).toNat
    let rowA (i : Nat) : Int := trits x 183 148 + 27 * trits x 147 139 * i
    let colB (j q : Nat) : Int := trits x 137 102 + j * trits x 92 80 + 27 * trits x 101 93 * q
    (op.cancelled = true → ∃ t, exec (.matrixPass id) s = .next t ∧ Completes s t id op (-7) ∧ t.mem = s.mem) ∧
    (op.cancelled = false → ¬ TilesFree s id op → exec (.matrixPass id) s = .next s) ∧
    (op.cancelled = false → TilesFree s id op → passStatus x op.tile = 0 → (op.count : Int) = trits x 239 237 →
      trits x 236 234 = 2 → trits x 233 232 = 0 → trits x 214 212 = 1 → trits x 199 197 = 1 → trit x 184 = 1 → trit x 138 = 1 →
      (∀ i b : Nat, i < 81 → 27 * b < K → RunReads s op (rowA i + 27 * b) 27) →
      (∀ j q b : Nat, j < op.count → q < 81 → 27 * b < K → RunReads s op (colB j q + 27 * b) 27) →
      ∃ t, Performs (.matrixPass id) (82 + 81 * op.count) s t ∧ Completes s t id op 1 ∧ t.mem = s.mem ∧
        (∀ j i q, j < op.count → i < 81 → q < 81 → acc t cl (op.tile + j) (81 * i + q) =
          wrap 54 (acc s cl (op.tile + j) (81 * i + q) +
            ((List.range K).map fun (k : Nat) => spRead s cl (rowA i + k) * spRead s cl (colB j q + k)).sum)) ∧
        ∀ tile, tile < op.tile ∨ op.tile + op.count ≤ tile → getTile t cl tile = getTile s cl tile)

/-- Zeroing sets every accumulator of its tiles to 0 (R293). A drain of an integer tile to words in the scratchpad (R291), a row at a
step, which is the model's choice (log 16): each word is its accumulator, saturated to 27 trits; the tiles are zeroed where the block says so, else kept; no other
nonet changes. A cancelled drain ends with -7 (R295), with row number 0 before any row (the model's choice, log 11). -/
def DrainPerformed : Prop :=
  ∀ (s : State) (id : Nat) (op : EngineOp) (x : Int), OpTurn s id op x →
    let cl := clusterOf op.core
    let row (i : Nat) : Int := trits x 210 175 + 27 * trits x 174 166 * i
    let zeroed (t : State) : Prop := ∀ j k, j < op.count → acc t cl (op.tile + j) k = 0
    let othersKept (t : State) : Prop := ∀ tile, tile < op.tile ∨ op.tile + op.count ≤ tile → getTile t cl tile = getTile s cl tile
    (op.kind = .zero → TilesFree s id op →
      ∃ t, exec (.drain id) s = .next t ∧ Completes s t id op 1 ∧ zeroed t ∧ othersKept t ∧ t.mem = s.mem) ∧
    (op.kind = .zero ∨ (op.kind = .drain ∧ op.cancelled = false) → ¬ TilesFree s id op → exec (.drain id) s = .next s) ∧
    (op.kind = .drain → op.cancelled = true → ∃ t, exec (.drain id) s = .next t ∧ Completes s t id op (-7) ∧ t.mem = s.mem) ∧
    (op.kind = .drain → op.cancelled = false → TilesFree s id op → drainStatus x op.tile = 0 →
      (op.count : Int) = trits x 239 237 → trit x 236 = 0 → trits x 226 224 = 0 → trit x 211 = 1 → trit x 156 = -1 →
      trit x 119 = -1 → trit x 82 = 0 → (∀ i, i < 81 → spFits s cl (row i) (243 * op.count) = true) →
      ∃ t, Performs (.drain id) 82 s t ∧ Completes s t id op 1 ∧ t.mem = s.mem ∧ othersKept t ∧
        (∀ i c, i < 81 → c < 81 * op.count → scratchValue t cl (row i + 3 * c) 3 =
          sat 27 (acc s cl (op.tile + c / 81) (81 * i + c % 81))) ∧
        (∀ e, 0 ≤ e → (∀ i, i < 81 → e < row i ∨ row i + 243 * op.count ≤ e) → spRead t cl e = spRead s cl e) ∧
        (trit x 227 = 1 → zeroed t) ∧
        (trit x 227 ≠ 1 → ∀ j, j < op.count → getTile t cl (op.tile + j) = getTile s cl (op.tile + j)))

/-- A copy between runs of the scratchpad that do not meet (R72, R296, R297), a block of a row of the destination at a step, which is the
model's choice (log 16): every nonet of every row takes its source's value, its block becomes present, no other nonet changes, and the
status is 1. A first row that begins outside the scratchpad ends it with -6. -/
def CopyPerformed : Prop :=
  ∀ (s : State) (id : Nat) (op : EngineOp) (x : Int), OpTurn s id op x → op.kind = .copy → trit x 208 = 1 → trit x 158 = 1 →
    trit x 228 = 0 → copyStatus x = 0 →
    let cl := clusterOf op.core
    let L := (trits x 227 218).toNat
    let R := (trits x 217 209).toNat
    let src (r : Nat) : Int := trits x 207 172 + r * trits x 171 159 * L
    let dst (r : Nat) : Int := trits x 157 122 + r * trits x 121 109 * L
    (op.cancelled = true → ∃ t, exec (.blockCopy id) s = .next t ∧ Completes s t id op (-7) ∧ t.mem = s.mem) ∧
    (op.cancelled = false → op.poisonRow = none → (∀ r, r < R → RunReads s op (src r) L ∧ spFits s cl (dst r) L = true) →
      (∀ r r', r < R → r' < R → (src r + L ≤ dst r' ∨ dst r' + L ≤ src r) ∧
        (r ≠ r' → dst r + L ≤ dst r' ∨ dst r' + L ≤ dst r)) →
      ∃ t, Performs (.blockCopy id) (((List.range R).map fun r => (spBlocks (dst r) L).length).sum + 1) s t ∧ Completes s t id op 1 ∧ t.mem = s.mem ∧
        (∀ r j : Nat, r < R → j < L → spRead t cl (dst r + j) = spRead s cl (src r + j) ∧ spPresent t cl (dst r + j) = true) ∧
        ∀ e, 0 ≤ e → (∀ r, r < R → e < dst r ∨ dst r + L ≤ e) → spRead t cl e = spRead s cl e) ∧
    (op.cancelled = false → spIn s cl (dst 0) = false →
      ∃ t, exec (.blockCopy id) s = .next t ∧ Completes s t id op (-6) ∧ t.mem = s.mem)

/-- A copy into registers (R298), a slot at a step, which is the model's choice (log 16): the pending register of the group that the
descriptor numbers takes, in each occupied slot, the value at the slot's address; the destination is no longer pending; the status is
1. -/
def RegisterCopyPerformed : Prop :=
  ∀ (s : State) (id : Nat) (op : EngineOp) (x : Int) (tm : Team) (c : Nat) (g : Group) (p : Pend), OpTurn s id op x →
    op.kind = .regCopy → op.cancelled = false → trit x 208 = 1 → (trits x 94 92 = 1 ∨ trits x 94 92 = 3) →
    getTeam s op.team = some tm → tm.core = op.core → getGroup s op.core c = some g →
    let cl := clusterOf op.core
    let reg := (trits x 108 100).toNat
    let n := (trits x 94 92).toNat
    g.rolling = false → g.st ≠ .draining →
    (teamHolders s op.team).find? (fun e => e.2.num == (trits x 99 95).toNat &&
      e.2.pending.any fun p => p.kind == .copy && p.regs.contains (.v reg)) = some (c, g) →
    g.pending.find? (fun p => p.kind == .copy && p.regs.contains (.v reg)) = some p → p.regs = [.v reg] →
    p.slots = occupied g → (occupied g).Nodup → (∀ k ∈ occupied g, k < g.width) → op.pend ≠ some p.id →
    (∀ k ∈ occupied g, RunReads s op (trits x 207 172 + k * trits x 171 159) n) →
    ∃ t h, Performs (.copyIntoRegisters id) ((occupied g).length + 1) s t ∧ Completes s t id op 1 ∧ t.mem = s.mem ∧ getGroup t op.core c = some h ∧
      (∀ k ∈ occupied g, laneVal (mget (.u 0) h.r.v reg) h.items k =
        scratchValue s cl (trits x 207 172 + k * trits x 171 159) n) ∧
      (∀ j, j ≠ reg → mget (.u 0) h.r.v j = mget (.u 0) g.r.v j) ∧ h.r.s = g.r.s ∧ h.items = g.items ∧
      ∀ q ∈ h.pending, q.id ≠ p.id

/-- A walker finishes (R57, R60, R61, R64): what the walk gives is cached under its identifier and page, with the upper entries that it
read, unless an invalidation has made the walk stale; its walker is free, and the first miss that waits takes it. R60 has a walk's results
cached at the machine's pleasure: that they are always cached is the model's choice (log 27). -/
def WalksEnd : Prop :=
  ∀ (s u : State) (die id : Nat) (w : Walk) (r : Except XFault Leaf) (us : List TableEntry), (getDie s die).walks.find? (fun w => w.id == id) = some w →
    walk s { die := die, via := .die die, super := w.super, userOk := w.userOk, uroot := w.uroot, sroot := w.sroot, asid := w.asid }
      (19683 * w.page) = (r, us, u) → u.dies = s.dies →
    ∃ t, exec (.pageTableWalk die id) s = .next t ∧ t.mem = u.mem ∧
      (∀ l, r = .ok l → w.stale = false → { asid := w.asid, page := w.page, leaf := l : TlbEntry } ∈ (getDie t die).tlb) ∧
      (∀ e ∈ (getDie t die).tlb, e ∈ (getDie s die).tlb ∨
        (w.stale = false ∧ ∃ l, r = .ok l ∧ e = { asid := w.asid, page := w.page, leaf := l })) ∧
      (∀ e ∈ (getDie s die).tlb, e ∈ (getDie t die).tlb) ∧
      (∀ e, e ∈ (getDie t die).tables ↔ e ∈ (getDie s die).tables ∨ (w.stale = false ∧ e ∈ us)) ∧
      (∀ m l, (getDie s die).missq = m :: l → (getDie t die).missq = l ∧ m ∈ (getDie t die).walks ∧
        Event.pageTableWalk die m.id ∈ t.agenda) ∧
      ((getDie s die).missq = [] → (getDie t die).missq = [] ∧ ∀ v ∈ (getDie t die).walks, v.id ≠ id)

end Sys2Proof.Claims

/-- Engine operations are performed in their turn and complete; walkers end (R57 to R64, R285 to R298). -/
def Obligations.EngineEvents : Prop :=
  PassPerformed ∧ DrainPerformed ∧ CopyPerformed ∧ RegisterCopyPerformed ∧ WalksEnd

/-! ## Events of the search engine -/

namespace Sys2Proof.Claims

/-- A query has ended with a status, and its completion is due. -/
def QueryEnds (t : State) (id : Nat) (status : Int) : Prop :=
  ∃ q, mfind t.qrys id = some q ∧ q.st = .ended ∧ q.status = status ∧ Event.queryCompletion id ∈ t.agenda

/-- The launch of a query is being aborted, or the query is cancelled (R128). -/
def qryStops (s : State) (q : Query) : Bool := q.cancelled || ((getLaunch s q.lid).map (·.aborting)).getD false

/-- The state in which the packet of an accepted query is read: its number is in the team's table and lands in its destination, and a
draining group that posted it may come to its end (R126, R161, R311). -/
def numbered (s : State) (id : Nat) (q : Query) (tm : Team) : State :=
  let u := bindStatus (setTeam s q.team { noteQuery tm tm.nextSeq 0 with
    nextSeq := if tm.nextSeq = half 27 then 1 else tm.nextSeq + 1 }) q.core q.ctx q.pend tm.nextSeq
  drainPosted { u with qrys := mset u.qrys id { q with seq := tm.nextSeq, st := .waiting } } { q with seq := tm.nextSeq, st := .waiting }

/-- A post is accepted in its team's order (R119, R124, R126): it takes the team's next number, its packet and its descriptor are read
and checked, and the probe of the entry node is due, or the query waits where its coordinator has 27 or others wait for it. A read
that fails ends it with the code of R128, a malformed packet or an entry node that does not exist with -1, a malformed descriptor with -2,
an exact method that the format does not allow with -6. That queries whose traversal has ended are not counted among the 27 is the
model's choice (log 83). -/
def PostsAccepted : Prop :=
  ∀ (s : State) (id : Nat) (q : Query) (tm : Team), msorted s.qrys = true → mfind s.qrys id = some q → q.st = .posted →
    getTeam s q.team = some tm →
    let first := ∀ e ∈ s.qrys, e.2.team = q.team → e.2.st = .posted → id ≤ e.1
    let u := numbered s id q tm
    (¬ first → ∃ t, exec (.queryAccept id) s = .next t ∧ t.qrys = s.qrys ∧ Event.queryAccept id ∈ t.agenda) ∧
    (first →
      (∃ t tm', exec (.queryAccept id) s = .next t ∧ getTeam t q.team = some tm' ∧
        tm'.nextSeq = (if tm.nextSeq = half 27 then 1 else tm.nextSeq + 1) ∧
        ∃ q', mfind t.qrys id = some q' ∧ q'.seq = tm.nextSeq ∧ q'.st ≠ .posted) ∧
      (∀ code cause a v, qPart u { q with seq := tm.nextSeq, st := .waiting } q.addr 27 = (.error (.fail code cause a), v) →
        ∃ t, exec (.queryAccept id) s = .next t ∧ QueryEnds t id code) ∧
      (∀ p v, qPart u { q with seq := tm.nextSeq, st := .waiting } q.addr 27 = (.ok p, v) →
        let x := ofNonets p
        let q1 : Query := { q with seq := tm.nextSeq, st := .waiting, packet := p }
        (packetOk x = false → ∃ t, exec (.queryAccept id) s = .next t ∧ QueryEnds t id (-1)) ∧
        (packetOk x = true → ∀ d w, qPart v q1 (trits x 35 0) 27 = (.ok d, w) →
          let y := ofNonets d
          let f := descFmt (trits y 107 99) (trits y 134 108)
          (f = none → ∃ t, exec (.queryAccept id) s = .next t ∧ QueryEnds t id (-2)) ∧
          (∀ k, f = some k →
            (descOk y k = false → ∃ t, exec (.queryAccept id) s = .next t ∧ QueryEnds t id (-2)) ∧
            (descOk y k = true → trits y 62 36 ≤ trits x 170 144 → ∃ t, exec (.queryAccept id) s = .next t ∧ QueryEnds t id (-1)) ∧
            (descOk y k = true → trits x 170 144 < trits y 62 36 →
              (trit x 216 = 1 → exactFmt k = false → ∃ t, exec (.queryAccept id) s = .next t ∧ QueryEnds t id (-6)) ∧
              (trit x 216 ≠ 1 ∨ exactFmt k = true → ∀ h w1,
                homeNode w { q1 with desc := d, method := if exactFmt k then 1 else 0 } (trits x 170 144) = (h, w1) →
                ∃ t q', exec (.queryAccept id) s = .next t ∧ mfind t.qrys id = some q' ∧ q'.vec = q.vec ∧ q'.desc = d ∧
                  q'.coord = h ∧ q'.method = (if exactFmt k then 1 else 0) ∧
                  (coordinated w1 h < 27 → awaiting w1 h = [] → q'.st = .running ∧ q'.visited = [trits x 170 144] ∧
                    q'.asked = [(trits x 170 144, none)] ∧ Event.searchProbe id (trits x 170 144).toNat ∈ t.agenda) ∧
                  (27 ≤ coordinated w1 h ∨ awaiting w1 h ≠ [] → q'.st = .waiting ∧ q'.turn = w1.nextId ∧
                    coordinated t h = coordinated w1 h)))))))

/-- What a probe has of the query's vector: the traversal's first probe reads it, at the packet's pointer, the others have it (R120,
R124). -/
def OwnVector (s : State) (q : Query) (own : List FVal) (v : State) : Prop :=
  (q.vec = [] → qVector s q (.int 9) (qPkt q 71 36) = (.ok own, v)) ∧ (q.vec ≠ [] → own = q.vec ∧ v = s)

/-- A probe (R117, R120, R121, R122, R124): with the first the query's vector is read, and where that fails the query ends with the code
of R128; the vector of a node is read; of nonets, with the squared distance, the answer is the exact sum of the squared differences, with
the other metric the negated sum of the products. With the last answer the expansion is due. -/
def ProbesAnswered : Prop :=
  ∀ (s : State) (id n : Nat) (q : Query) (own vec : List FVal) (v u : State), mfind s.qrys id = some q → q.st = .running →
    ((n : Int), none) ∈ q.asked → qDesc q 107 99 = 1 → qDesc q 134 108 = 0 →
    (∀ code cause a, q.vec = [] → qVector s q (.int 9) (qPkt q 71 36) = (.error (.fail code cause a), v) →
      ∃ t, exec (.searchProbe id n) s = .next t ∧ QueryEnds t id code) ∧
    (OwnVector s q own v → qVector v q (.int 9) (recordAt q n + 27 * qDesc q 98 90) = (.ok vec, u) →
    ∀ xs ys : List Int, own = xs.map (fun v => FVal.fin v 0) → vec = ys.map (fun v => FVal.fin v 0) →
    let d : Int := if qDesc q 143 135 = 1 then ((xs.zip ys).map fun p => (p.1 - p.2) * (p.1 - p.2)).sum
      else ((xs.zip ys).map fun p => -(p.1 * p.2)).sum
    ∃ t q', exec (.searchProbe id n) s = .next t ∧ mfind t.qrys id = some q' ∧ t.mem = u.mem ∧
      q' = { q with vec := own, asked := q'.asked } ∧ ((n : Int), some (PAnswer.dist (.fin d 0))) ∈ q'.asked ∧
      (∀ p ∈ q.asked, p.1 ≠ n ∨ p.2 ≠ none → p ∈ q'.asked) ∧ (∀ p ∈ q'.asked, p.1 = n → p.2 ≠ none) ∧
      ((∀ p ∈ q.asked, p.2 = none → p.1 = n) → Event.expansion id ∈ t.agenda))

/-- The working list holds the best of the nodes offered to it, best first (R120). -/
def WorkingListKeepsBest : Prop :=
  ∀ (L : Nat) (n : SNode) (l : List SNode), l.Pairwise (fun a b => better b a = false) → l.length ≤ L →
    let m := offerNode L n l
    m.Pairwise (fun a b => better b a = false) ∧ m.length = min L (l.length + 1) ∧ (∀ a ∈ m, a ∈ n :: l) ∧
    ∀ a ∈ n :: l, a ∉ m → ∀ b ∈ m, better a b = false

/-- Where a running query ends, the query that has waited longest for its coordinator starts (R124). -/
def WaitersServed : Prop :=
  ∀ (s : State) (id : Nat) (q : Query) (k : Nat) (w : Query), msorted s.qrys = true → mfind s.qrys id = some q → q.st = .running →
    q.asked = [] → qryStops s q = true → coordinated s q.coord ≤ 27 → (k, w) ∈ awaiting s q.coord →
    (∀ e ∈ awaiting s q.coord, e.1 ≠ k → w.turn < e.2.turn) →
    ∃ t w', exec (.expansion id) s = .next t ∧ QueryEnds t id (-7) ∧ mfind t.qrys k = some w' ∧ w'.st = .running ∧
      w'.asked = [(qPkt w 170 144, none)] ∧ Event.searchProbe k (qPkt w 170 144).toNat ∈ t.agenda ∧
      coordinated t q.coord = coordinated s q.coord

/-- An expansion (R120, R128): with every answer in, the traversal ends with 1 where no member of the list is unexpanded, with 2 where
the limit is reached, with 3 where the visited set was full, with -7 where it or its launch is ended, with the code of a failed probe; else
the best unexpanded node is expanded: its record is read and the neighbours that were not visited are asked. That -7 comes before 1, 2 and
3 is the model's choice (log 83). -/
def NodesExpanded : Prop :=
  ∀ (s : State) (id : Nat) (q : Query), msorted s.qrys = true → mfind s.qrys id = some q → q.st = .running →
    ((∃ p ∈ q.asked, p.2 = none) → exec (.expansion id) s = .next s) ∧
    (∀ n code cause a l, q.asked = (n, some (.fail code cause a)) :: l → (∀ p ∈ q.asked, p.2 ≠ none) →
      ∃ t, exec (.expansion id) s = .next t ∧ QueryEnds t id code) ∧
    (q.asked = [] →
      (qryStops s q = true → ∃ t, exec (.expansion id) s = .next t ∧ QueryEnds t id (-7)) ∧
      (qryStops s q = false → q.full = true → ∃ t, exec (.expansion id) s = .next t ∧ QueryEnds t id 3) ∧
      (qryStops s q = false → q.full = false → (∀ n ∈ q.list, n.expanded = true) →
        ∃ t, exec (.expansion id) s = .next t ∧ QueryEnds t id 1) ∧
      (qryStops s q = false → q.full = false → (∃ n ∈ q.list, n.expanded = false) → 0 < qPkt q 215 189 →
        q.expansions = qPkt q 215 189 → ∃ t, exec (.expansion id) s = .next t ∧ QueryEnds t id 2) ∧
      (qryStops s q = false → q.full = false → (qPkt q 215 189 = 0 ∨ q.expansions ≠ qPkt q 215 189) →
        ∀ n, q.list.find? (fun n => !n.expanded) = some n → ∀ (c : Int) (ids : List Int) (u v : State),
        qWords { q with expansions := q.expansions + 1, list := q.list.map fun m =>
          if m.node = n.node then { m with expanded := true } else m } 1 (recordAt q n.node) s = (.ok [c], u) →
        ((c < 0 ∨ qDesc q 80 72 < c) → ∃ t, exec (.expansion id) s = .next t ∧ QueryEnds t id (-3)) ∧
        (0 ≤ c → c ≤ qDesc q 80 72 →
          qWords { q with expansions := q.expansions + 1, list := q.list.map fun m =>
            if m.node = n.node then { m with expanded := true } else m } c.toNat (recordAt q n.node + 3) u = (.ok ids, v) →
          ((∃ w ∈ ids, w < 0 ∨ qDesc q 62 36 ≤ w) → ∃ t, exec (.expansion id) s = .next t ∧ QueryEnds t id (-3)) ∧
          ((∀ w ∈ ids, 0 ≤ w ∧ w < qDesc q 62 36) → q.visited.length + ids.length ≤ 6561 →
            ∃ t q', exec (.expansion id) s = .next t ∧ mfind t.qrys id = some q' ∧ q'.st = .running ∧
              q'.expansions = q.expansions + 1 ∧ q'.full = false ∧
              (∀ m ∈ q'.list, m.node = n.node → m.expanded = true) ∧
              (∀ w, (w, none) ∈ q'.asked ↔ w ∈ ids ∧ w ∉ q.visited) ∧ (q'.asked.map (·.1)).Nodup ∧
              (∀ w, w ∈ q'.visited ↔ w ∈ q.visited ∨ w ∈ ids) ∧
              (∀ w ∈ ids, w ∉ q.visited → Event.searchProbe id w.toNat ∈ t.agenda)))))

/-- The fields of a completion record fit their places (R127). -/
def QueryFits (q : Query) (count : Int) : Prop :=
  InTrits 36 q.faultAt ∧ (q.method = 0 ∨ q.method = 1) ∧ InTrits 27 q.probes ∧ InTrits 27 q.expansions ∧ InTrits 9 count ∧
  InTrits 9 q.status ∧ InTrits 27 q.seq

/-- Result entry `i` of a query: the identifier and the distance of the working list's member, or -1 and NaN beyond its end (R123). -/
def entryNonets (q : Query) (i : Nat) : List Int :=
  match q.list[i]? with
  | some v => toNonets 3 v.node ++ toNonets 6 (distReport v.dist)
  | none => toNonets 3 (-1) ++ toNonets 6 (fNaN fmtT54)
/-- The entries from `i` on, `n` of them, are written one after another at the results pointer. -/
def EntriesWritten (q : Query) : Nat → Nat → State → State → Prop
  | 0, _, s, t => t = s
  | n + 1, i, s, t => ∃ u, qWrite s q (qPkt q 107 72 + 9 * (i : Int)) (entryNonets q i) = (none, u) ∧ EntriesWritten q n (i + 1) u t

/-- A query is gone, with its place in the team's count, and `w` stands in the team's table for its number (R126, R311). -/
def QueryGone (t : State) (id : Nat) (q : Query) (tm : Team) (w : Int) : Prop :=
  mfind t.qrys id = none ∧ ∃ tm', getTeam t q.team = some tm' ∧ tm'.outstanding = tm.outstanding - 1 ∧
    ((mfind tm.queries q.seq.toNat).isSome = true → mfind tm'.queries q.seq.toNat = some w)

/-- A query completes in its team's order (R123, R126, R127, R311): one with results writes the entries that it was asked for, and then
its completion record with their number; one without results the record alone; then it is gone, and its status stands in the team's
table. Where the record's write fails, its code is the status of a query that had not failed before; a failing entry's code is the status,
and the record says that there are no results; either failure is recorded in the frieze (R128). The record holds the fields of R127. -/
def QueriesComplete : Prop :=
  (∀ (s : State) (id : Nat) (q : Query) (tm : Team), mfind s.qrys id = some q → q.st = .ended → getTeam s q.team = some tm →
    let first := ∀ e ∈ s.qrys, e.2.team = q.team → id ≤ e.1
    (¬ first → exec (.queryCompletion id) s = .next s) ∧
    (first → msorted s.qrys = true → q.packet ≠ [] → qPkt q 143 108 % 27 = 0 → ∀ u v, v.qrys = s.qrys → v.teams = s.teams →
      let k := (qPkt q 179 171).toNat
      let written := (q.status ≤ 0 ∧ u = s) ∨ (0 < q.status ∧ EntriesWritten q k 0 s u)
      let count : Int := if 0 < q.status then min (k : Int) q.list.length else 0
      (written → recordWrite u q count = (none, v) → ∃ t, exec (.queryCompletion id) s = .next t ∧
        QueryGone t id q tm (q.cause * 19683 + q.status) ∧ t.mem = v.mem ∧ t.host = v.host) ∧
      (∀ code cause a, written → recordWrite u q count = (some (.fail code cause a), v) →
        ∃ t, exec (.queryCompletion id) s = .next t ∧
          QueryGone t id q tm (if q.status < 0 then q.cause * 19683 + q.status else cause * 19683 + code) ∧
          t.mem = (queryFrieze v q code a).mem ∧ t.host = (queryFrieze v q code a).host) ∧
      (∀ j code cause a w, 0 < q.status → j < k → EntriesWritten q j 0 s w → code ≤ 0 →
        qWrite w q (qPkt q 107 72 + 9 * (j : Int)) (entryNonets q j) = (some (.fail code cause a), u) →
        let q' : Query := { q with status := code, cause := cause, faultAt := a }
        recordWrite (queryFrieze u q' code a) q' 0 = (none, v) → ∃ t, exec (.queryCompletion id) s = .next t ∧
          QueryGone t id q tm (cause * 19683 + code) ∧ t.mem = v.mem ∧ t.host = v.host))) ∧
  (∀ (q : Query) (count : Int), QueryFits q count →
    let x := ofNonets (queryRecord q count)
    (queryRecord q count).length = 27 ∧ trits x 242 162 = 0 ∧ trits x 161 126 = q.faultAt ∧ trits x 125 108 = qPkt q 242 225 ∧
    trits x 107 100 = 0 ∧ trit x 99 = q.method ∧ trits x 98 72 = q.probes ∧ trits x 71 45 = q.expansions ∧
    trits x 44 36 = count ∧ trits x 35 27 = q.status ∧ trits x 26 0 = q.seq)

end Sys2Proof.Claims

/-- The search engine (R116 to R129, R310, R311). -/
def Obligations.SearchEvents : Prop :=
  PostsAccepted ∧ ProbesAnswered ∧ WorkingListKeepsBest ∧ WaitersServed ∧ NodesExpanded ∧ QueriesComplete

/-! ## Events of debug -/

namespace Sys2Proof.Claims

/-- A frieze record has been written in the next block of the ring, and the sequence number has advanced (R335, R336). -/
def FriezeRecorded (s t : State) (die : Nat) (kind core ctx addr related status : Int) : Prop :=
  let d := getDie s die
  (getDie t die).fzseq = d.fzseq + 1 ∧ ∃ l w,
    readPhys t (19683 * trits d.fzctl 23 0 + 27 * (d.fzseq % 729)) = (.ok l, w) ∧ l.take 1 = [kind] ∧
    ofNonets ((l.drop 1).take 3) = d.fzseq + 1 ∧ (l.drop 4).take 2 = [core, ctx] ∧ ofNonets ((l.drop 6).take 4) = addr ∧
    ofNonets ((l.drop 10).take 3) = related ∧ ofNonets ((l.drop 13).take 3) = status ∧
    ofNonets ((l.drop 16).take 6) = d.cycle ∧ l.drop 22 = List.replicate 5 0

/-- A group is the one that a die's selection names, and not the one that commands (R324, R325). -/
def Selects (s : State) (core ctx : Nat) (c x : Nat) : Prop :=
  let sel := (getDie s (dieOf core)).dbgsel
  c = 81 * dieOf core + (trits sel 8 4).toNat ∧ x = (trits sel 3 0).toNat ∧ (c ≠ core ∨ x ≠ ctx)

/-- The command has been performed, and `dbg.cmd` holds it with result +; or it has been refused, with result -, and nothing else has
changed (R325). -/
def Commanded (s t : State) (core : Nat) (v : Int) : Prop :=
  (getDie t (dieOf core)).dbgcmd = setTrits v 26 26 1 ∧ t.teams = s.teams
def Refused (s t : State) (core : Nat) (v : Int) : Prop :=
  t = updDie s (dieOf core) fun d => { d with dbgcmd := setTrits v 26 26 (-1) }

/-- The state word (R163, R185, R325). -/
def stateLaw (g : Group) (own : Bool) : Int :=
  (g.mstack.length : Int) * 3 ^ 10 + (if g.nospawn then 3 ^ 9 else 0) + (if g.st = .halted then (g.haltCause : Int) else 0) * 3 ^ 6 +
    (if own then 0 else (reasonOf g : Int)) * 3 ^ 3 +
    match g.st with
    | .reserved => 1
    | .ready => if g.reason = 8 ∨ g.reason = 9 then 3 else 2
    | .stalled => 3
    | .halted => 4
    | .draining => 5

/-- The reason that a context reports is the first of R185's table that applies: a debug halt, a group that is stopped or displaced,
a raised trap, and the waits; of a ready group it is that of its last cycle. A group that rolls back reports a raised trap (the
model's choice, log 43). -/
def ReasonsInOrder : Prop :=
  ∀ g : Group,
    (g.st = .halted → reasonOf g = 1) ∧
    (g.st ≠ .halted → g.stopped = true ∨ g.displaced = true → reasonOf g = 2) ∧
    (g.st ≠ .halted → g.stopped = false → g.displaced = false →
      (g.raised.isSome = true ∨ g.rolling = true → reasonOf g = 3) ∧
      (g.raised = none → g.rolling = false →
        (∀ b p, g.wait = some (.barrier b p) → reasonOf g = 4) ∧ (∀ n, g.wait = some (.join n) → reasonOf g = 4) ∧
        (g.wait = some .park → reasonOf g = 5) ∧ (g.wait = some .leave → reasonOf g = 6) ∧
        (g.wait = some .engine → reasonOf g = 7) ∧ (g.wait = none → g.st = .ready → reasonOf g = g.reason)))

/-- The commands of the debug registers (R325 to R329). -/
def CommandsPerformed : Prop :=
  ∀ (s : State) (core ctx c x : Nat) (g : Group), Selects s core ctx c x → getGroup s c x = some g →
    mboxOn (getDie s (dieOf core)) = false → dieOf c = dieOf core →
    (g.st = .ready ∨ g.st = .stalled → g.raised = none → ∃ t, exec (.halt core ctx) s = .next t ∧ Commanded s t core 1 ∧
      getGroup t c x = some { g with st := .halted, haltCause := 4, haltPending := false, stepping := false, stepSpawn := [] }) ∧
    (g.st = .ready ∨ g.st = .stalled → g.raised.isSome = true → ∃ t, exec (.halt core ctx) s = .next t ∧ Commanded s t core 1 ∧
      getGroup t c x = some { g with haltPending := true, haltCause := 4 }) ∧
    (g.st ≠ .ready → g.st ≠ .stalled → ∃ t, exec (.halt core ctx) s = .next t ∧ Refused s t core 1) ∧
    (∀ e cmd, (e, cmd) ∈ [(Instr.resume core ctx, (2 : Int)), (.step core ctx, 3)] →
      (g.st = .halted → g.haltCause ≠ 5 → ∃ t h, exec e s = .next t ∧ Commanded s t core cmd ∧ getGroup t c x = some h ∧
        h.st = (if g.wait.isSome || g.raised.isSome || g.stopped || g.rolling then .stalled else .ready) ∧ h.haltCause = 0 ∧
        h.stepping = decide (cmd = 3) ∧ h.exempt = (if g.haltCause = 1 ∨ g.haltCause = 2 then some g.pc else none) ∧ h.pc = g.pc ∧ h.r = g.r ∧
        (g.raised.isSome = true → trapReady g = true → Event.trapEntry c x ∈ t.agenda) ∧
        (∀ p ∈ g.transit, p.waits = [] → Event.itemMove c x p.slot ∈ t.agenda)) ∧
      (g.st ≠ .halted ∨ g.haltCause = 5 → ∃ t, exec e s = .next t ∧ Refused s t core cmd)) ∧
    (∀ lane reg : Nat, lane ≤ 80 → reg ≤ 242 →
      let v : Int := 4 + 729 * reg + 531441 * lane
      (g.st = .halted → lane < g.width → ∃ t, exec (.readVectorLane core ctx lane reg) s = .next t ∧ Commanded s t core v ∧
        t.cores = s.cores ∧ (getDie t (dieOf core)).dbgdata =
          if (mfind g.items lane).isSome then laneVal (mget (.u 0) g.r.v reg) g.items lane else 0) ∧
      (g.st ≠ .halted ∨ g.width ≤ lane → ∃ t, exec (.readVectorLane core ctx lane reg) s = .next t ∧ Refused s t core v)) ∧
    (∀ reg : Nat, reg ≤ 242 →
      (g.st = .halted → reg ≤ 80 → ∃ t, exec (.readScalar core ctx reg) s = .next t ∧ Commanded s t core (5 + 729 * reg) ∧
        t.cores = s.cores ∧ (getDie t (dieOf core)).dbgdata = mget 0 g.r.s reg) ∧
      (g.st ≠ .halted ∨ 80 < reg → ∃ t, exec (.readScalar core ctx reg) s = .next t ∧ Refused s t core (5 + 729 * reg))) ∧
    (∃ t, exec (.readState core ctx) s = .next t ∧ Commanded s t core 6 ∧ t.cores = s.cores ∧
      (getDie t (dieOf core)).dbgdata = stateLaw g false)

/-- The group that commands may select itself: it reads its state, with reason 0, and is refused every other command (R325). -/
def OwnContextSelected : Prop :=
  ∀ (s : State) (core ctx : Nat) (g : Group), core = 81 * dieOf core + (trits (getDie s (dieOf core)).dbgsel 8 4).toNat →
    ctx = (trits (getDie s (dieOf core)).dbgsel 3 0).toNat → getGroup s core ctx = some g →
    (∃ t, exec (.readState core ctx) s = .next t ∧ Commanded s t core 6 ∧ t.cores = s.cores ∧
      (getDie t (dieOf core)).dbgdata = stateLaw g true) ∧
    (∀ e cmd, (e, cmd) ∈ [(Instr.halt core ctx, (1 : Int)), (.resume core ctx, 2), (.step core ctx, 3)] →
      ∃ t, exec e s = .next t ∧ Refused s t core cmd) ∧
    (∀ reg : Nat, reg ≤ 242 → ∃ t, exec (.readScalar core ctx reg) s = .next t ∧ Refused s t core (5 + 729 * reg)) ∧
    (∀ lane reg : Nat, lane ≤ 80 → reg ≤ 242 → ∃ t, exec (.readVectorLane core ctx lane reg) s = .next t ∧
      Refused s t core (4 + 729 * reg + 531441 * lane))

/-- A rollback (R320 to R322): a failing register of the region, with fewer than three rollbacks at the restart address, takes the
group back to the state kept there once nothing is pending, the latches 0, its rollbacks counted; a group halted meanwhile stays
halted there; one in the shadow bank stays as it is; one outside the region raises class 13, which in a handler is a double fault. -/
def RollbackDone : Prop :=
  ∀ (s : State) (core ctx : Nat) (g : Group) (r : Reg), getGroup s core ctx = some g →
    friezeOn (getDie s (dieOf core)) = false →
    let back (t : State) := getGroup t core ctx = some { g with
        rolling := false, st := if g.st = .halted then .halted else .ready, reason := 0, pc := g.restart, mstack := g.restartStack
        active := g.restartActive.filter fun l => (occupied g).contains l, restartCount := g.restartCount + 1
        r := { g.r with tr := { g.r.tr with rollbacks := min 9841 (g.r.tr.rollbacks + 1) } } } ∧
      (getCore t core).vlatch = [0, 0, 0] ∧ (getCore t core).slatch = [0, 0, 0] ∧ t.mem = s.mem ∧ t.clusters = s.clusters
    (g.displaced = true → exec (.rollback core ctx (some r)) s = .next s) ∧
    (g.displaced = false → g.rolling = false → g.st = .ready → s.issue = none → g.r.tr.inHandler = true →
      exec (.rollback core ctx (some r)) s = .next (doubleFault s core ctx 13 g.pc)) ∧
    (g.displaced = false → g.rolling = false → g.st = .ready → s.issue = none → g.r.tr.inHandler = false →
      (r ∈ g.region → g.restartCount < 3 → g.pending = [] → ∃ t, exec (.rollback core ctx (some r)) s = .next t ∧ back t) ∧
      (r ∈ g.region → g.restartCount < 3 → g.pending ≠ [] → ∃ t, exec (.rollback core ctx (some r)) s = .next t ∧
        getGroup t core ctx = some { g with rolling := true, st := .stalled } ∧ t.mem = s.mem) ∧
      (r ∉ g.region ∨ 3 ≤ g.restartCount → exec (.rollback core ctx (some r)) s = .next (raiseTrap s core ctx
        { cls := 13, lanes := plainLanes (activeLanes g), pc := g.pc, ret := g.pc }))) ∧
    (g.displaced = false → g.rolling = true → g.pending = [] → ∃ t, exec (.rollback core ctx (some r)) s = .next t ∧ back t) ∧
    (g.displaced = false → g.rolling = true → g.pending ≠ [] → exec (.rollback core ctx (some r)) s = .next s)

/-- A sample (R335, R336): the core's next context that is not free, in turn; with the frieze on, a record of kind 7 with its address,
state and stall reason. -/
def SampleTaken : Prop :=
  ∀ (s : State) (core x : Nat) (g : Group), getGroup s core x = some g → x < 27 →
    (∃ j, j < 27 ∧ x = ((getCore s core).sampleNext + j) % 27 ∧
      ∀ k, k < j → getGroup s core (((getCore s core).sampleNext + k) % 27) = none) →
    ∃ t, exec (.friezeSample core) s = .next t ∧ getCore t core = { getCore s core with sampleNext := (x + 1) % 27 } ∧
      (friezeOn (getDie s (dieOf core)) = false → t.mem = s.mem ∧ t.dies = s.dies) ∧
      (friezeOn (getDie s (dieOf core)) = true →
        PlainUnit s { pa := 19683 * trits (getDie s (dieOf core)).fzctl 23 0 + 27 * ((getDie s (dieOf core)).fzseq % 729), attr := {} } →
        InTrits 27 ((getDie s (dieOf core)).fzseq + 1) → InTrits 54 (getDie s (dieOf core)).cycle → InTrits 36 g.pc →
        reasonOf g ≤ 11 →
        FriezeRecorded s t (dieOf core) 7 (coreInDie core) x g.pc (stateCode g) (reasonOf g))

/-- A causal trial (R337, R338): its start sets the counts to 0 and notes the counter; its end stores the results. -/
def TrialsRun : Prop :=
  (∀ (s : State) (die : Nat) (v : Int), 0 ≤ trits v 17 11 → trits v 17 11 ≤ 729 → 1 ≤ trits v 10 8 → trits v 10 8 ≤ 6 →
    0 ≤ trits v 3 1 → trits v 3 1 ≤ 8 → trit v 0 = 1 → ∃ t, exec (.causalTrialStart die v) s = .next t ∧
      getDie t die = { getDie s die with
        ctctl := setTrits v 7 4 0, trialG := 0, trialS := mget 0 (getDie s die).pg (trits v 3 1).toNat
        trialLeft := 3 ^ (13 + (trits v 10 8).toNat), ctpaid := 0, cthits := 0 } ∧
      (∀ c, dieOf c = die → (∀ e ∈ (getCore t c).groups ++ shadowGroups (getCore t c), e.2.paid = 0) ∧
        ∀ e ∈ (getCore t c).ranges, e.2.paid = 0) ∧
      (∀ c x, dieOf c ≠ die → getGroup t c x = getGroup s c x) ∧ t.mem = s.mem) ∧
  (∀ (s : State) (die : Nat), let d := getDie s die
    (trit d.ctctl 0 = 1 → d.trialLeft = 0 → ∃ t, exec (.causalTrialEnd die) s = .next t ∧
      (getDie t die).ctpaid = min (half 27) d.trialG ∧
      (getDie t die).ctcount = wrap 27 (mget 0 d.pg (trits d.ctctl 3 1).toNat - d.trialS) ∧
      (getDie t die).ctctl = setTrits d.ctctl 0 0 (-1) ∧ (getDie t die).cthits = d.cthits ∧ t.mem = s.mem) ∧
    (trit d.ctctl 0 ≠ 1 ∨ d.trialLeft ≠ 0 → exec (.causalTrialEnd die) s = .next s))

/-- A context's write of a register of its own, and its read of the clock (R237, R238). -/
def RegistersWrittenByEvent : Prop :=
  ∀ (s : State) (core ctx : Nat) (g : Group) (n v : Int), getGroup s core ctx = some g →
    let reads (t : State) (m : Int) : Option Int := match getGroup t core ctx with
      | some h => sysLaw h.r (getCore t core) (getDie t (dieOf core)) m
      | none => none
    (∃ t, exec (.ckLoRead core ctx) s = .next t ∧
      getGroup t core ctx = some { g with r := { g.r with ckhi := trits (getDie s (dieOf core)).cycle 53 27 } } ∧ t.mem = s.mem) ∧
    (TakesWhole g.r n v → ∃ t, exec (.systemRegisterWrite core ctx n v) s = .next t ∧ reads t n = some v ∧
      (∀ m, m ≠ n → reads t m = reads s m) ∧ t.mem = s.mem) ∧
    (16 ≤ n → n ≤ 24 → g.r.super = true → ∃ t, exec (.systemRegisterWrite core ctx n v) s = .next t ∧ reads t n = some v ∧
      (∀ m, m ≠ n → reads t m = reads s m) ∧ t.mem = s.mem) ∧
    (g.r.super = false → (6 ≤ n ∧ n ≤ 9) ∨ (16 ≤ n ∧ n ≤ 24) → exec (.systemRegisterWrite core ctx n v) s = .next s)

end Sys2Proof.Claims

/-- Debug commands, rollback, samples, causal trials, register writes (R236 to R238, R320 to R338). -/
def Obligations.DebugEvents : Prop :=
  ReasonsInOrder ∧ CommandsPerformed ∧ OwnContextSelected ∧ RollbackDone ∧ SampleTaken ∧ TrialsRun ∧ RegistersWrittenByEvent

/-! ## Events of the shell and of the host port -/

namespace Sys2Proof.Claims

/-- The atoms of a stack of 64 GiB, and the cycles of its scrub period (R82, R89, R90). -/
def atomsOf : Int := 2 ^ 30
def periodOf (k : Stack) : Int := k.period * 3 ^ 27
/-- What the scrubber does to an atom by its wrong symbols (R86, R88, R89): nothing; up to three are corrected and counted; four or
five are poisoned, counted and told to the host; more may be taken for a correctable error. That an error so miscorrected counts as
corrected is the model's choice (log 38). -/
def Scrubbed (s t : State) (st : Nat) (b : Int) (a : Atom) : Prop :=
  let k := getStack s st
  (a.errs.length = 0 → t.mem = s.mem ∧ (getStack t st).corrected = k.corrected ∧
    (getStack t st).uncorrectable = k.uncorrectable) ∧
  (1 ≤ a.errs.length → a.errs.length ≤ 3 → atomAt t b = { a with errs := [] } ∧
    (getStack t st).corrected = min 265720 (k.corrected + 1) ∧ (getStack t st).uncorrectable = k.uncorrectable) ∧
  let poisoned := (atomAt t b).poison = true ∧ (atomAt t b).errs = [] ∧
    (getStack t st).uncorrectable = min 265720 (k.uncorrectable + 1) ∧ (getStack t st).corrected = k.corrected ∧
    ∃ r ∈ t.events, r.kind = 2 ∧ r.code = 1 ∧ r.addr = 27 * b
  (4 ≤ a.errs.length → a.errs.length ≤ 5 → poisoned) ∧
  (6 ≤ a.errs.length → poisoned ∨
    (atomAt t b).errs = [] ∧ (getStack t st).corrected = min 265720 (k.corrected + 1) ∧
      (getStack t st).uncorrectable = k.uncorrectable ∧ t.events = s.events)

/-- The scrubber (R89 to R91). The next atom is checked, or skipped where the slice holds its line dirty, or where no line of region +1
lies (the model's choice, log 38); a late pass that ends begins anew. The level rises by one where the lag exceeds its bound and falls by
one below it. At the end of a period a pass that has not finished is late, at level 3, and the host is told; a finished one is followed by
the next. -/
def ScrubberRuns : Prop :=
  ∀ (s : State) (st : Nat), let k := getStack s st
    let lag : Int := k.elapsed * atomsOf - k.next * periodOf k
    (k.live = true → k.enable = true → (k.next : Int) < atomsOf → ∃ t, exec (.scrubAtom st) s = .next t ∧
      (k.late = false ∨ (k.next : Int) + 1 < atomsOf → (getStack t st).next = k.next + 1 ∧ (getStack t st).late = k.late) ∧
      (k.late = true → (k.next : Int) + 1 = atomsOf → (getStack t st).next = 0 ∧ (getStack t st).elapsed = 0 ∧
        (getStack t st).late = false) ∧
      (let skipped := t.mem = s.mem ∧ (getStack t st).corrected = k.corrected ∧ (getStack t st).uncorrectable = k.uncorrectable
      (stackBlock s st k.next = none → skipped) ∧
        ∀ b, stackBlock s st k.next = some b →
          (∀ l, getSlice s st (lineOf b) = some l → l.dirty ≠ [] → skipped) ∧
          ((∀ l, getSlice s st (lineOf b) = some l → l.dirty = []) → Scrubbed s t st b (atomAt s b))) ∧
      t.cores = s.cores ∧ t.dies = s.dies) ∧
    (k.live = false ∨ k.enable = false ∨ atomsOf ≤ k.next → exec (.scrubAtom st) s = .next s) ∧
    (k.live = true → k.late = false →
      (k.level < 3 → atomsOf * periodOf k < 81 / 3 ^ k.level * lag → ∃ t, exec (.scrubLevelChange st) s = .next t ∧
        getStack t st = { k with level := k.level + 1 }) ∧
      (1 ≤ k.level → k.level ≤ 3 → 162 / 3 ^ (k.level - 1) * lag < atomsOf * periodOf k →
        ∃ t, exec (.scrubLevelChange st) s = .next t ∧ getStack t st = { k with level := k.level - 1 })) ∧
    (k.live = true → k.enable = true → k.late = false → periodOf k ≤ k.elapsed →
      (atomsOf ≤ k.next → ∃ t, exec (.scrubPeriodEnd st) s = .next t ∧
        getStack t st = { k with next := 0, elapsed := 0, late := false } ∧ t.events = s.events) ∧
      ((k.next : Int) < atomsOf → ∃ t, exec (.scrubPeriodEnd st) s = .next t ∧
        getStack t st = { k with missed := true, late := true, level := 3 } ∧
        ∃ r, t.events = s.events ++ [r] ∧ r.kind = 2 ∧ r.code = 2 ∧ r.addr = (st : Int))) ∧
    ((k.elapsed : Int) < periodOf k → exec (.scrubPeriodEnd st) s = .next s)

/-- The registers of the scrubber and of the interleave table (R80, R90): `sc.ctl` keeps its value where a trit above the period is not 0,
the enable trit is - or the period is less than 1; enabling begins a pass; any write of `sc.status` clears its counts. `mi.itab` takes
the entries that name a live stack, and nothing once it is locked. Retraining changes nothing that a program sees (R92). -/
def ShellRegistersWritten : Prop :=
  ∀ (s : State) (st ch j : Nat) (v : Int), let k := getStack s st
    (trits v 26 11 ≠ 0 ∨ trit v 0 = -1 ∨ trits v 10 2 < 1 → exec (.scCtlWrite st v) s = .next s) ∧
    (trits v 26 11 = 0 → ∀ p : Nat, trits v 10 2 = p → 1 ≤ p →
      (trit v 0 = 0 → ∃ t, exec (.scCtlWrite st v) s = .next t ∧ getStack t st = { k with period := p, enable := false }) ∧
      (trit v 0 = 1 → k.enable = true → ∃ t, exec (.scCtlWrite st v) s = .next t ∧
        getStack t st = { k with period := p }) ∧
      (trit v 0 = 1 → k.enable = false → ∃ t, exec (.scCtlWrite st v) s = .next t ∧
        getStack t st = { k with period := p, enable := true, next := 0, elapsed := 0, late := false })) ∧
    (∃ t, exec (.scStatusWrite st v) s = .next t ∧
      getStack t st = { k with missed := false, corrected := 0, uncorrectable := 0 }) ∧
    (s.locked = true → exec (.miItabWrite j v) s = .next s ∧ exec (.miCtlLock v) s = .next s) ∧
    (s.locked = false →
      (∃ t, exec (.miItabWrite j v) s = .next t ∧ t.mem = s.mem ∧ t.locked = false ∧
        (∀ i : Nat, i < 9 → itabEntry t (9 * j + i) =
          let h := trits v (3 * i + 2) (3 * i)
          if 0 ≤ h ∧ h ≤ 8 ∧ (getStack s h.toNat).live = true then h.toNat else itabEntry s (9 * j + i)) ∧
        ∀ i, i < 9 * j ∨ 9 * j + 9 ≤ i → itabEntry t i = itabEntry s i) ∧
      (trit v 0 = 1 → ∃ t, exec (.miCtlLock v) s = .next t ∧ t.locked = true ∧ t.itab = s.itab) ∧
      (trit v 0 ≠ 1 → exec (.miCtlLock v) s = .next s)) ∧
    exec (.retraining st ch) s = .next s ∧
    ((∀ d, friezeOn (getDie s d) = false) → ∃ t, exec (.forcedRetraining st ch) s = .next t ∧ t = { s with fresh := t.fresh })

/-- The registers of the first block of a queue, in the order of R166. -/
def blockRegs (k : Queue) : List Int :=
  [k.gen * 3 ^ 9 + k.jc * 3 ^ 6 + k.jp * 3 ^ 3 + (if k.enable then 1 else 0), k.cbase, k.pbase, k.ctail, k.ptail, k.seen, k.chead,
    k.phead, k.lastcmd]

/-- The host port (R166, R352, R363): off, or in recovery but for the blocks of the firmware API, it serves nothing; a write of less than
a whole block, or of codes that no block has, is discarded, and so is a write to the second block of a queue. R166 discards writes of less
than a block: that any other write than that of one whole block is discarded, and at which addresses the blocks lie, is the model's choice
(log 40). A whole block writes the registers of a queue, of one that stays on its tails and its `hq.seen`. A
read returns the registers' values. The window registers are written only while every host queue is off, and the sizes set the
frame counts, saturating. -/
def HostPortServed : Prop :=
  ∀ (s : State) (addr : Nat) (l : List Nat), (addr % 49 ≠ 0 ∨ l.length ≠ 49 → exec (.hostWrite addr l) s = .next s) ∧
    (unpackBlock l = none → exec (.hostWrite addr l) s = .next s) ∧
    (s.phase = .off ∨ (s.phase = .recovery ∧ addr / 49 ≠ 162 ∧ addr / 49 ≠ 163) →
      exec (.hostWrite addr l) s = .next s ∧ exec (.hostRead addr) s = .next s) ∧
    (∀ (q : Nat) (v : List Int), q < 81 → l.length = 49 → unpackBlock l = some v → s.phase = .ready →
      let k := getQueue s q
      let reg (r : Nat) : Int := ofNonets ((v.drop (3 * r)).take 3)
      (addr = 49 * (2 * q + 1) → exec (.hostWrite addr l) s = .next s) ∧
      (addr = 49 * (2 * q) → (∀ x ∈ blockRegs k, InTrits 27 x) → k.enable = true → trits (reg 0) 26 12 = 0 → trits (reg 0) 2 1 = 0 →
        trit (reg 0) 0 = 1 → 0 ≤ reg 3 → reg 3 < 3 ^ k.jc → 0 ≤ reg 4 → reg 4 < 3 ^ k.jp → 0 ≤ reg 5 →
        ∃ t, exec (.hostWrite addr l) s = .next t ∧
          getQueue t q = { k with ctail := (reg 3).toNat, ptail := (reg 4).toNat, seen := reg 5 } ∧
          (∀ p, p ≠ q → getQueue t p = getQueue s p) ∧ t.mem = s.mem ∧ t.cores = s.cores)) ∧
    (∀ q, q < 81 → s.phase = .ready → (∀ x ∈ blockRegs (getQueue s q), InTrits 27 x) → ∃ t b, exec (.hostRead (49 * (2 * q))) s = .next t ∧
      t.portData = packBlock b ∧ b.length = 27 ∧
      (∀ r x, (blockRegs (getQueue s q))[r]? = some x → ofNonets ((b.drop (3 * r)).take 3) = x) ∧ t.queues = s.queues ∧
      t.mem = s.mem) ∧
    (∀ (r v : Nat), (∃ e ∈ s.queues, e.2.enable = true) → exec (.windowRegisterWrite r v) s = .next s) ∧
    (∀ v : Nat, v < 2 ^ 64 → (∀ e ∈ s.queues, e.2.enable = false) →
      exec (.windowRegisterWrite 0 v) s = .next { s with hT := v } ∧
      exec (.windowRegisterWrite 1 v) s = .next { s with hB := v } ∧
      exec (.windowRegisterWrite 2 v) s = .next { s with sT := v, countHost := min 581130734 (v : Int) } ∧
      exec (.windowRegisterWrite 3 v) s = .next { s with sB := v, countByte := min 581130734 (v : Int) }) ∧
    windowRegisterRead 0 s = { s with portData := leBytes 8 s.hT } ∧ windowRegisterRead 1 s = { s with portData := leBytes 8 s.hB } ∧
    windowRegisterRead 2 s = { s with portData := leBytes 8 s.sT } ∧ windowRegisterRead 3 s = { s with portData := leBytes 8 s.sB }

end Sys2Proof.Claims

/-- The memory shell's own events, its registers, and the host port (R80, R86 to R92, R166, R363). -/
def Obligations.ShellEvents : Prop := ScrubberRuns ∧ ShellRegistersWritten ∧ HostPortServed

/-! ## Events of links, of coherence and of link managers -/

namespace Sys2Proof.Claims

/-- A message of a die waits at the link by which it goes, or stands in a flit that is due at that link's far end. -/
def Sent (s t : State) (die cls op : Nat) (m : Msg) : Prop :=
  ∀ e, outEnd s die m.dst = some e →
    (∃ ch, (cls, ch, msgBytes cls op m) ∈ (getLink t e).waitq) ∨
    ∃ h, Event.flitReceive (farEnd e) (flitBytes h (some (if m.block.isSome then 0 else 3, msgBytes cls op m))) true ∈ t.agenda

/-- The fields of a message are those that a header may hold (R342). -/
def MsgFits (cls op : Nat) (m : Msg) : Prop :=
  opcodeOk cls op = true ∧ cls < 4 ∧ m.src < 20 ∧ m.dst < 20 ∧ m.tag < 4096 ∧ m.key ≤ 81 ∧ -half 33 ≤ 81 * m.line ∧ 81 * m.line ≤ half 33 ∧
  m.blocks = (List.range 3).filter (fun b => m.blocks.contains b) ∧
  (∀ l, m.block = some l → l.length = 27 ∧ (∀ x ∈ l, InTrits 9 x) ∧ m.blocks.length = 1) ∧
  (if cls = 2 ∧ op = 5 then 1 ≤ m.errCode ∧ m.errCode ≤ 8 ∧ m.errCause ≤ 7 else m.errCode = 0 ∧ m.errCause = 0)

/-- A message that is laid out in a slot is read back from it with every field, and so is the header of its flit (R341, R342). Which slot
a message takes is the model's choice (log 34). -/
def MessagesComeBack : Prop :=
  (∀ (cls op : Nat) (m : Msg), MsgFits cls op m → msgOf m.block.isSome (msgBytes cls op m) = some (cls, op, m)) ∧
  ∀ (h : FlitHead) (i : Nat) (b : List Nat), h.gen < 256 → h.credit.length = 4 → (∀ c ∈ h.credit, c < 16) →
    h.valid = (List.range 5).filter (fun j => h.valid.contains j) → h.kind ≤ 2 → h.ack < 2 ^ 24 → h.seq < 2 ^ 24 → i < 5 →
    b.length = (if i < 3 then 65 else 16) →
    flitHead h.gen (flitBytes h (some (i, b))) = some h ∧ slotBytes (flitBytes h (some (i, b))) i = b ∧
    flitHead h.gen (flitBytes h none) = some h

/-- What an end acknowledges goes with some flit to the other end (R341). -/
def Acknowledges (t : State) (e n : Nat) : Prop :=
  ∃ h x, Event.flitReceive (farEnd e) (flitBytes h x) true ∈ t.agenda ∧ h.ack = n
/-- Nothing has been made due but flits, and the windows of link managers. -/
def OnlyFlits (s t : State) : Prop :=
  ∀ v ∈ t.agenda, v ∈ s.agenda ∨ (∃ e l k, v = .flitReceive e l k) ∨ ∃ d, v = .widthReduction d ∨ v = .frequencyChange d

/-- A flit reaches an end (R341, R343). At a link that is down it is lost. With a rejected field, a failing CRC or a gap in the
sequence it is dropped, and the first such flit is answered by a control flit with the last good number, as soon as fewer than 243
flits are unacknowledged. An idle flit acknowledges flits and returns credits alone. A flit in order is noted and acknowledged; each
of its messages is delivered, sent on, or counted as malformed; a control flit asks for a replay, which sends every kept flit after
a number again, in order. That an owed control flit waits behind the limit of 243, and that a flit taken in order is answered at once,
where nothing else is to be sent by an idle flit, is the model's choice (log 34). -/
def FlitsArrive : Prop :=
  ∀ (s : State) (e : Nat) (l : List Nat) (ok : Bool), let k := getLink s e
    (k.up = false → exec (.flitReceive e l ok) s = .next s) ∧
    (k.up = true →
      (flitHead k.gen l = none ∨ ok = false ∨
          (∃ h, flitHead k.gen l = some h ∧ h.kind ≠ 2 ∧ h.seq ≠ (k.lastGood + 1) % 2 ^ 24) →
        (k.dropping = true → exec (.flitReceive e l ok) s = .next s) ∧
        (k.dropping = false → ∃ t, exec (.flitReceive e l ok) s = .next t ∧ (getLink t e).dropping = true ∧
          (getLink t e).lastGood = k.lastGood ∧
          (243 ≤ k.unacked.length → (getLink t e).owes = true ∧ t.agenda = s.agenda) ∧
          (k.unacked.length < 243 → (getLink t e).owes = false ∧ OnlyFlits s t ∧ ∃ h rest, h.kind = 1 ∧ h.ack = k.lastGood ∧
            t.agenda = s.agenda ++ .flitReceive (farEnd e) (flitBytes h none) true :: rest))) ∧
      (∀ h, flitHead k.gen l = some h → ok = true →
        (h.kind = 2 → ∃ t, exec (.flitReceive e l ok) s = .next t ∧ OnlyFlits s t ∧ (getLink t e).lastGood = k.lastGood ∧
          (k.waitq = [] → k.owes = false →
            (getLink t e).credits = (k.credits.zip h.credit).map (fun p => p.1 + p.2) ∧
            ∀ a b f, k.unacked = a ++ (h.ack, f) :: b → (∀ x ∈ a, x.1 ≠ h.ack) → (getLink t e).unacked = b)) ∧
        (h.kind = 1 → h.seq = (k.lastGood + 1) % 2 ^ 24 → ∃ t, exec (.flitReceive e l ok) s = .next t ∧
          (getLink t e).lastGood = h.seq ∧ (getLink t e).dropping = false ∧ Event.replay e h.ack ∈ t.agenda ∧
          Acknowledges t e h.seq) ∧
        (h.kind = 0 → h.seq = (k.lastGood + 1) % 2 ^ 24 → ∃ t, exec (.flitReceive e l ok) s = .next t ∧
          (getLink t e).lastGood = h.seq ∧ (getLink t e).dropping = false ∧ Acknowledges t e h.seq ∧
          (getLink t e).errors =
            k.errors + (h.valid.filter fun i => (msgOf (decide (i < 3)) (slotBytes l i)).isNone).length ∧
          ((∀ i ∈ h.valid, msgOf (decide (i < 3)) (slotBytes l i) = none) → OnlyFlits s t) ∧
          ∀ i ∈ h.valid, ∀ cls op m, msgOf (decide (i < 3)) (slotBytes l i) = some (cls, op, m) →
            (m.dst = endDie e → ∃ v, msgEvent cls op m = some v ∧ v ∈ t.agenda) ∧
            (m.dst ≠ endDie e → Sent s t (endDie e) cls op m))) ∧
      ∀ good, (∀ a b f, k.unacked = a ++ (good, f) :: b → (∀ x ∈ a, x.1 ≠ good) → exec (.replay e good) s =
          .next { s with agenda := s.agenda ++ b.map fun x => .flitReceive (farEnd e) x.2 true }) ∧
        ((∀ x ∈ k.unacked, x.1 ≠ good) → exec (.replay e good) s =
          .next { s with agenda := s.agenda ++ k.unacked.map fun x => .flitReceive (farEnd e) x.2 true })) ∧
    (k.up = false → ∀ good, exec (.replay e good) s = .next s)

/-- Training (R11, R346): a link comes up in generation 1 where both of its ends support that, with nothing unacknowledged, or stays
down; its messages wait on. The route tables follow. -/
def LinksTrained : Prop :=
  ∀ (s : State) (link ga gb : Nat), link < 27 → ∃ t, exec (.linkTraining link ga gb) s = .next t ∧
    (1 ≤ ga → 1 ≤ gb → ∀ e, e / 2 = link → (getLink t e).up = true ∧ (getLink t e).gen = 1 ∧
      ((getLink s e).waitq = [] → (getLink t e).unacked = [] ∧ (getLink t e).waitq = [])) ∧
    (ga = 0 ∨ gb = 0 → ∀ e, e / 2 = link → (getLink t e).up = false ∧ (getLink t e).waitq = (getLink s e).waitq) ∧
    (∀ e, e / 2 ≠ link → getLink t e = getLink s e) ∧
    ∀ d, d < 9 → (getDie s d).life ≠ .out → (getDie t d).routes = routeTable (packageMoves t) (linkUp t) d

/-- A link takes no new message (R347). -/
def Quiesces (t : State) (l : Nat) : Prop := ∀ e, e / 2 = l → (getLink t e).quiesce = true
/-- A record of a link manager is the last that waits, or it has been sent (R348). -/
def RecordFollows (s t : State) (die : Nat) (r : Rec) : Prop :=
  let old := (getManager s die).out
  if (getManager s die).busy then (getManager t die).out = old ++ [r]
  else (old = [] → (r.kind = 2 → { r with link := die + 1 } ∈ t.events) ∧
    (r.kind = 1 → { r with link := die + 1 } ∈ (getQueue t 81).records)) ∧
    (old ≠ [] → ∃ a, (getManager t die).out = a ++ [r])

/-- A record of a link manager waits there, or has been sent (R348). -/
def RecordSent (t : State) (die : Nat) (r : Rec) : Prop :=
  r ∈ (getManager t die).out ∨ { r with link := die + 1 } ∈ t.events ∨ { r with link := die + 1 } ∈ (getQueue t 81).records

/-- The link managers (R347, R348). One that applies nothing opens the window of its oldest width reduction, or where none waits of
its oldest frequency change; the links concerned take no new message, and the change is due once they are drained. It narrows the
module by one step and tells the host, and where a link of a die at either end is then low, every waiting change of that die to point 0
is refused; or it moves the die and answers the command. The records are sent in that order. The model's choices: the window opens at once
and the refusals follow the reduction's own record (log 36); an event of code 4 names the die by its index (log 75). -/
def LinksManaged : Prop :=
  ∀ (s : State) (die : Nat), die < 20 → let m := getManager s die
    (m.reqs.map (·.1)).Nodup →
    (∀ g : Msg, g.dst = die →
      (m.window = none → m.reqs = [] → exec (.linkManagement g) s = .next s) ∧
      (m.window = none → ∀ a b n r, m.reqs = a ++ (n, r) :: b →
        ((∃ l i, r = .width l i) ∧ (∀ x ∈ a, ∀ l i, x.2 ≠ .width l i)) ∨
          ((∃ p c, r = .frequency p c) ∧ a = [] ∧ ∀ x ∈ b, ∀ l i, x.2 ≠ .width l i) →
        ∃ t, exec (.linkManagement g) s = .next t ∧ (getManager t die).window = some (n, r) ∧ (getManager t die).reqs = a ++ b ∧
          (getManager t die).opened = (getDie s die).cycle ∧ (∀ l i, r = .width l i → Quiesces t l) ∧
          (∀ p c, r = .frequency p c → ∀ l ∈ linksOf die, Quiesces t l) ∧ t.widths = s.widths ∧
          (getDie t die).point = (getDie s die).point ∧
          (∀ l i, r = .width l i → linkDrained t l = true → Event.widthReduction die ∈ t.agenda) ∧
          (∀ p c, r = .frequency p c → (∀ l ∈ linksOf die, linkDrained t l = true) → Event.frequencyChange die ∈ t.agenda)) ∧
      (∀ n r, m.window = some (n, r) → ∃ t, exec (.linkManagement g) s = .next t ∧ t = { s with agenda := t.agenda } ∧
        OnlyFlits s t)) ∧
    ((∀ n l i, m.window ≠ some (n, .width l i)) → exec (.widthReduction die) s = .next s) ∧
    ((∀ n p c, m.window ≠ some (n, .frequency p c)) → exec (.frequencyChange die) s = .next s) ∧
    (∀ n l i, m.window = some (n, .width l i) → l ∈ linksOf die →
      (linkDrained s l = false → exec (.widthReduction die) s = .next s) ∧
      (linkDrained s l = true → ∃ t, exec (.widthReduction die) s = .next t ∧ linkWidths t l = (linkWidths s l).modify i narrower ∧
        (∀ l', l' ≠ l → linkWidths t l' = linkWidths s l') ∧
        (lowLinks t die = false →
          RecordFollows s t die { kind := 2, code := 4, addr := (dieIndex die : Int) } ∧
          ∀ x ∈ m.reqs, x ∈ (getManager t die).reqs ∨ (getManager t die).window = some x) ∧
        (lowLinks t die = true → RecordSent t die { kind := 2, code := 4, addr := (dieIndex die : Int) } ∧
          (∀ x c, (getManager t die).window = some x → x.2 ≠ .frequency 0 c) ∧
          ∀ x ∈ m.reqs, (∀ c, x.2 ≠ .frequency 0 c) → x ∈ (getManager t die).reqs ∨ (getManager t die).window = some x) ∧
        ∀ d, d < 20 → l ∈ linksOf d → lowLinks t d = true →
          (∀ x ∈ (getManager s d).reqs, ∀ c, x.2 = .frequency 0 c → RecordSent t d { cmd := c, status := -2 }) ∧
          ∀ x ∈ (getManager t d).reqs, ∀ c, x.2 ≠ .frequency 0 c)) ∧
    (∀ n p c, m.window = some (n, .frequency p c) →
      ((∃ l ∈ linksOf die, linkDrained s l = false) → exec (.frequencyChange die) s = .next s) ∧
      ((∀ l ∈ linksOf die, linkDrained s l = true) → ∃ t, exec (.frequencyChange die) s = .next t ∧
        (getDie t die).point = p ∧ RecordFollows s t die { cmd := c, status := 1 } ∧ t.widths = s.widths ∧
        ∀ x ∈ m.reqs, x ∈ (getManager t die).reqs ∨ (getManager t die).window = some x))

/-- A packet that another die sends reaches the mailbox of the plinth, with every field (R176, R177, R245). -/
def MailboxPackets : Prop :=
  ∀ (s : State) (m : Msg) (p : Packet), m.dst < 9 → m.block = some (packetBlock p) → 0 ≤ p.first → p.first ≤ p.last →
    InTrits 54 p.last → InTrits 33 p.addr → memAddr p.addr = true → 1 ≤ p.kind → p.kind ≤ 5 → 1 ≤ p.source → p.source ≤ 10 →
    InTrits 9 p.status → (p.kind ≤ 3 → p.status = 0) → p.user = false →
    ∃ t, exec (.mailboxPacket m) s = .next t ∧
      (getDie t m.dst).senders = (getDie s m.dst).senders ++ [{ p with lid := (launchAt s p.addr).getD 0 }] ∧
      Event.workPacket m.dst ∈ t.agenda ∧ t.mem = s.mem ∧ t.cores = s.cores

/-- A request of R344, by its opcode. -/
def IsRequest (op : Nat) (m : Msg) (x : Instr) : Prop :=
  (op = 1 ∧ x = .readShared m) ∨ (op = 2 ∧ x = .readOwned m) ∨ (op = 3 ∧ x = .upgrade m) ∨ (op = 4 ∧ x = .writeBack m) ∨
  (op = 5 ∧ x = .partialWrite m) ∨ (op = 6 ∧ x = .atomicRequest m) ∨ (op = 7 ∧ x = .evictionNotice m)

/-- Does a die hold a line, by its directory entry? -/
def DirHolds (e : DirEntry) (d : Nat) : Prop :=
  match e with
  | .uncached => False
  | .shared l => d ∈ l
  | .owned o => d = o

/-- A whole block. -/
def IsBlock (l : List Int) : Prop := l.length = 27 ∧ ∀ x ∈ l, InTrits 9 x
/-- Every block has the contents that it had, but for one. -/
def OthersHold (s t : State) (b : Int) : Prop :=
  ∀ c : Int, 0 ≤ c → c ≠ b → (atomAt t c).payload = (atomAt s c).payload
/-- Every block has the contents that it had. -/
def AllHold (s t : State) : Prop := ∀ c : Int, 0 ≤ c → (atomAt t c).payload = (atomAt s c).payload
/-- A block has been written, and is not poisoned (R40, R400). -/
def Written (s t : State) (b : Int) (key : Nat) (l : List Int) : Prop :=
  (atomAt t b).payload = packBlock l ∧ (atomAt t b).key = key ∧ (atomAt t b).epoch = keySeal s key ∧ (atomSeen t b).poison = false
/-- A block that a die returns stands in the home slice with its poison mark; the slice is to write it back, and no contents change (R88,
R350). -/
def Returned (s t : State) (line b key : Nat) (bad : Bool) : Prop :=
  (∃ sl, getSlice t (lineHome s line) line = some sl ∧ b ∈ sl.blocks ∧ b ∈ sl.dirty ∧ sl.key = key ∧ (b ∈ sl.poison ↔ bad = true)) ∧
  AllHold s t
/-- The nonets that a message carries for a block (R342). -/
def contents (s : State) (b : Int) : List Int := (unpackBlock (atomAt s b).payload).getD zeroBlock
/-- An answer of a home slice to a request, under its tag (R342). -/
def answer (h : Nat) (r : Msg) (line : Nat) (bs : List Nat) : Msg :=
  { src := 9 + h, dst := r.src, tag := r.tag, blocks := bs, key := r.key, line := line }

/-- What reads of a line's blocks answer a request with: each block's data, those of a poisoned or uncorrectable block marked so, or the
error of another failing check (R88, R344). -/
def Given (s t : State) (h : Nat) (r : Msg) (line : Nat) (bs : List Nat) : Prop :=
  bs.Nodup → (∀ b ∈ bs, b < 3) → ∀ b ∈ bs,
    match (readMemBlock (setDir s h line (getDir t h line)) (lineBlock line b) (homeAttr s r)).1 with
    | .ok _ => Sent s t (9 + h) 2 1 { answer h r line [b] with block := some (contents s (lineBlock line b)) }
    | .error c =>
      (c ≤ 2 → ∃ l, Sent s t (9 + h) 2 1 { answer h r line [b] with block := some l, poison := true }) ∧
      (2 < c → Sent s t (9 + h) 2 5 { answer h r line [b] with errCode := 5, errCause := c })
/-- The blocks that a request for ownership is given. -/
def wanted (r : Msg) : List Nat := if r.blocks = [] then List.range 3 else r.blocks
/-- A die is made the owner of a line and given blocks, or the request fails with the error of one of them (R344, R349). -/
def Granted (s t : State) (h : Nat) (r : Msg) (line : Nat) : Prop :=
  let fails (c : Nat) : Prop := 2 < c ∧ ∃ b ∈ wanted r, (readMemBlock s (lineBlock line b) (homeAttr s r)).1 = .error c
  ((∀ c, ¬ fails c) → getDir t h line = .owned r.src ∧ Given s t h r line (wanted r)) ∧
  ((∃ c, fails c) → getDir t h line = getDir s h line ∧
    ∃ c, fails c ∧ Sent s t (9 + h) 2 5 { answer h r line (wanted r) with errCode := 5, errCause := c })

/-- A request at its home slice, of a line that is not busy and with no snoop needed (R349, R350): the directory entry, the data or
the acknowledgement, and what is written. A write or atomic of a die of the package stands for one that the die keeps, which is then
performed at the home slice (R78, R344, R351); the operands of one that comes from elsewhere have no place in its header, and it changes
nothing (the model's choice, log 93). That a write leaves the entry uncached, and that a write-back of a line which another die holds is
only acknowledged, are the model's choices too (log 35). -/
def RequestsPerformed : Prop :=
  ∀ (s : State) (h line : Nat) (m : Msg), h < 9 → m.dst = 9 + h → m.src < 9 → m.line = line → lineHome s line = h →
    mfind (getStack s h).busy line = none →
    let e := getDir s h line
    let others (d : Nat) : Prop := DirHolds e d ∧ d ≠ m.src
    let ack (t : State) : Prop := Sent s t (9 + h) 2 2 (answer h m line [])
    ((∀ d, e = .owned d → d = m.src) →
      (∃ t, exec (.readShared m) s = .next t ∧ Given s t h m line m.blocks ∧ (e = .owned m.src → getDir t h line = e) ∧
        (e ≠ .owned m.src → ∃ l, getDir t h line = .shared (l ++ [m.src]) ∧ ∀ d, d ∈ l ↔ others d)) ∧
      (∀ b r l, m.blocks = b :: r → m.block = some l → b < 3 → ∃ t, exec (.writeBack m) s = .next t ∧ ack t ∧
        Returned s t line b m.key m.poison ∧ (e = .owned m.src → getDir t h line = .uncached) ∧
        (e ≠ .owned m.src → getDir t h line = e)) ∧
      (∃ t, exec (.evictionNotice m) s = .next t ∧ ack t ∧ t.mem = s.mem ∧
        (e = .owned m.src → getDir t h line = .uncached) ∧ (e ≠ .owned m.src → getDir t h line = e))) ∧
    ((∀ d, ¬ others d) →
      (∃ t, exec (.readOwned m) s = .next t ∧ Granted s t h m line) ∧
      (∃ t, exec (.upgrade m) s = .next t ∧ (DirHolds e m.src → getDir t h line = .owned m.src ∧ ack t) ∧
        (¬ DirHolds e m.src → Granted s t h m line))) ∧
    ((∀ d, ¬ DirHolds e d) →
      (∀ f, s.flights.find? (fun f => f.die == m.src && f.tag == m.tag && lineOf f.block == line) = some f →
        let landed (t : State) : Prop := { f with landed := true } ∈ t.flights ∧ AllHold s t ∧ getDir t h line = e ∧
          (f.landed = false → lineHome s (lineOf f.block) = h → f.alloc = true → ∃ sl, getSlice t h line = some sl ∧
            blockIn f.block ∈ sl.dirty ∧ sl.key = f.key ∧ (blockIn f.block ∈ sl.poison ↔ f.bad = true))
        (∃ t, exec (.partialWrite m) s = .next t ∧ ack t ∧ landed t) ∧
        ∃ t, exec (.atomicRequest m) s = .next t ∧ landed t ∧ Sent s t (9 + h) 2 1
          { answer h m line [blockIn f.block] with block := some (contents s (lineBlock line (blockIn f.block))), poison := f.bad }) ∧
      ((∀ f ∈ s.flights, ¬ (f.die = m.src ∧ f.tag = m.tag ∧ lineOf f.block = line)) →
        (∀ b r l, m.blocks = b :: r → m.block = some l → IsBlock l → b < 3 →
          ∃ t, exec (.partialWrite m) s = .next t ∧ ack t ∧ getDir t h line = .uncached ∧
            Written s t (lineBlock line b) m.key l ∧ OthersHold s t (lineBlock line b)) ∧
        (m.block = none → ∀ x ∈ [Instr.partialWrite m, .atomicRequest m], ∃ t, exec x s = .next t ∧ ack t ∧ t.mem = s.mem ∧
          getDir t h line = e)))

/-- A request that needs other dies first, or whose line is busy (R350): the snoops go out, for a write to the sender too where it holds
the line, and the request is held; a request of a busy line waits in arrival order, but a write-back from a die that is being snooped
gives the line's value at once. -/
def RequestsWait : Prop :=
  ∀ (s : State) (h op line : Nat) (m : Msg) (x : Instr), h < 9 → m.dst = 9 + h → m.src < 9 → m.line = line → IsRequest op m x →
    let e := getDir s h line
    let asked (d : Nat) : Prop := DirHolds e d ∧ (d ≠ m.src ∨ op = 5 ∨ op = 6)
    (mfind (getStack s h).busy line = none → (∃ d, asked d) → (op = 1 ∨ op = 4 ∨ op = 7 → ∃ d, e = .owned d) →
      ∃ t ds, exec x s = .next t ∧ (∀ d, d ∈ ds ↔ asked d) ∧
        mfind (getStack t h).busy line = some { req := m, op := op, snoops := ds } ∧
        (∀ d ∈ ds, Sent s t (9 + h) 1 (if op = 1 then 2 else if isOwned e then 3 else 1)
          { answer h m line m.blocks with dst := d }) ∧
        getDir t h line = e ∧ t.mem = s.mem) ∧
    (∀ b, mfind (getStack s h).busy line = some b →
      (¬ (op = 4 ∧ m.src ∈ b.snoops) → ∃ t, exec x s = .next t ∧
        mfind (getStack t h).busy line = some { b with waiting := b.waiting ++ [(op, m)] } ∧ getDir t h line = e ∧
        t.mem = s.mem ∧ t.agenda = s.agenda) ∧
      (m.src ∈ b.snoops → m.src ∉ b.early → lineHome s line = h → ∀ c r l, m.blocks = c :: r → m.block = some l → c < 3 →
        ∃ t, exec (.writeBack m) s = .next t ∧
          mfind (getStack t h).busy line = some { b with came := b.came ++ [m.src] } ∧ getDir t h line = e ∧
          Sent s t (9 + h) 2 2 (answer h m line []) ∧ Returned s t line c m.key m.poison))

/-- A snoop at a compute die (R350, R351): a line of which a write-back is under way is answered so; else every dirty block is returned,
the line is kept clean and shared, or dropped, and the snoop is acknowledged; before one that invalidates is answered, every L1 copy
is dropped. The die's own requests for the line stay, and so do the writes that wait in it. That a dirty line is answered block by block
and then acknowledged is the model's choice (log 35). -/
def SnoopsAnswered : Prop :=
  ∀ (s : State) (line : Nat) (m : Msg) (x : Instr), m.dst < 9 → m.line = line →
    x = .invalidate m ∨ x = .downgrade m ∨ x = .fetchAndInvalidate m →
    let c := getLine s m.dst line
    let ans (bs : List Nat) : Msg := { src := m.dst, dst := m.src, tag := m.tag, blocks := bs, key := m.key, line := line }
    let gone (t : State) : Prop := x ≠ .downgrade m → ∀ k, dieOf k = m.dst → getL1 t k line = none
    (c.backs ≠ [] → ∃ t, exec x s = .next t ∧ Sent s t m.dst 2 4 (ans []) ∧ getLine t m.dst line = c ∧ t.mem = s.mem ∧ gone t) ∧
    (c.backs = [] → ∃ t, exec x s = .next t ∧ Sent s t m.dst 2 2 (ans []) ∧ t.mem = s.mem ∧ gone t ∧
      (∀ b ∈ c.dirty, Sent s t m.dst 2 3
        { ans [b] with block := some (contents s (lineBlock line b)), poison := decide (b ∈ c.poison), key := c.key }) ∧
      let d := getLine t m.dst line
      d.owned = false ∧ d.dirty = [] ∧ d.blocks = (if x = .downgrade m then c.blocks else []) ∧ d.asks = c.asks ∧ d.pend = c.pend)

/-- The directory entry of a line once a snooped die has answered: it holds the line no longer, or shares it. -/
def afterAnswer (e : DirEntry) (src : Nat) (keeps : Bool) : DirEntry :=
  match e with
  | .uncached => .uncached
  | .shared ds => if ds.filter (· ≠ src) = [] then .uncached else .shared (ds.filter (· ≠ src))
  | .owned d => if d ≠ src then .owned d else if keeps then .shared [src] else .uncached

/-- Responses at a home slice (R344, R350): the answer of a snooped die is taken off the list; the last one performs the request that
waited, and a die's dirty block is the line's value. A die that says that a write-back of its is under way has answered once that has
come. The order of dirty blocks and acknowledgement is the model's choice (log 35). -/
def HomeAnswered : Prop :=
  ∀ (s : State) (h line : Nat) (m : Msg) (x : Instr) (b : Busy), h < 9 → m.dst = 9 + h → m.line = line →
    x = .data m ∨ x = .acknowledge m ∨ x = .acknowledgeAlreadyWrittenBack m → mfind (getStack s h).busy line = some b →
    let e := getDir s h line
    let wrote := x = .acknowledgeAlreadyWrittenBack m
    /- The die still holds the line, shared, after a downgrade. -/
    let e' := afterAnswer e m.src (decide (¬ wrote ∧ b.op = 1))
    (m.src ∉ b.snoops → exec x s = .next s ∧ exec (.dataDirty m) s = .next s) ∧
    (m.src ∈ b.snoops → wrote → m.src ∉ b.came → ∃ t, exec x s = .next t ∧
      mfind (getStack t h).busy line = some { b with early := b.early ++ [m.src] } ∧ getDir t h line = e ∧ t.mem = s.mem) ∧
    (m.src ∈ b.snoops → lineHome s line = h → ∀ l c r, m.blocks = c :: r → m.block = some l → c < 3 →
      ∃ t, exec (.dataDirty m) s = .next t ∧ Returned s t line c m.key m.poison ∧ mfind (getStack t h).busy line = some b ∧
        getDir t h line = e) ∧
    (m.src ∈ b.snoops → (wrote → m.src ∈ b.came) →
      ((∃ d ∈ b.snoops, d ≠ m.src) → ∃ t, exec x s = .next t ∧
        mfind (getStack t h).busy line = some { b with snoops := b.snoops.filter (· ≠ m.src) } ∧ t.mem = s.mem ∧
        getDir t h line = e') ∧
      ((∀ d ∈ b.snoops, d = m.src) → b.waiting = [] → b.req.dst = 9 + h → b.req.src < 9 → b.req.line = line →
        let s' := setDir s h line e'
        ∃ t, exec x s = .next t ∧ mfind (getStack t h).busy line = none ∧
          (b.op = 1 → e' ≠ .owned b.req.src → Given s' t h b.req line b.req.blocks ∧
            ∃ l, getDir t h line = .shared (l ++ [b.req.src]) ∧ ∀ d, d ∈ l ↔ DirHolds e' d ∧ d ≠ b.req.src) ∧
          (b.op = 2 ∨ (b.op = 3 ∧ ¬ DirHolds e' b.req.src) → Granted s' t h b.req line) ∧
          (b.op = 3 → DirHolds e' b.req.src → getDir t h line = .owned b.req.src ∧ Sent s t (9 + h) 2 2 (answer h b.req line [])) ∧
          (b.op = 4 ∨ b.op = 5 ∨ b.op = 7 → Sent s t (9 + h) 2 2 (answer h b.req line []))))

/-- The line of a die once an answer has come, before the die goes on with it (R342, R344, R350). An answer belongs to the request of its
tag. Blocks that were asked for fill the line, with the poison mark of their message, unless the line has left meanwhile; with the last
of them, or with an acknowledgement, the request is over, and where it was for ownership the die owns the line, the writes that waited
for these blocks merged in. An acknowledgement may end a write-back; an error ends the request, and for ownership the writes that waited
for it. Another answer ends a write or atomic that is on its way, and other responses say nothing to a die. -/
def DieAnswered : Prop :=
  ∀ (s : State) (line : Nat) (m : Msg), m.dst < 9 → m.line = line → let c := getLine s m.dst line
    let goesOn (c' : CLine) : State := lineNext (setLine s m.dst line c') m.dst line
    let owns (a : Ask) (c' : CLine) : Prop := a.op = 2 ∨ a.op = 3 → c'.owned = true ∧
      (∀ p, p ∈ c'.pend ↔ p ∈ c.pend ∧ p.2 ∉ c'.blocks) ∧
      ∀ b, b ∈ c'.dirty ↔ b < 3 ∧ (b ∈ c.dirty ∨ b ∈ c'.blocks ∧ ∃ p ∈ c.pend, p.2 = b)
    let stays (a : Ask) (c' : CLine) : Prop := a.op ≠ 2 → a.op ≠ 3 → c'.owned = c.owned ∧ c'.pend = c.pend
    (∀ a, c.asks.find? (fun a => a.tag == m.tag) = some a →
      let left := a.blocks.filter fun i => !m.blocks.contains i
      (∃ c', exec (.data m) s = .next (goesOn c') ∧
        (∀ b, b < 3 → (b ∈ c'.blocks ↔ b ∈ c.blocks ∨ c.stale = false ∧ b ∈ m.blocks ∧ b ∈ a.blocks)) ∧
        (∀ b, b < 3 → c.stale = false → b ∈ m.blocks → b ∈ a.blocks → (∀ p ∈ c.pend, p.2 ≠ b) →
          (b ∈ c'.poison ↔ m.poison = true)) ∧
        (left = [] → c'.asks = c.asks.erase a ∧ owns a c' ∧ stays a c') ∧
        (left ≠ [] → c'.asks = c.asks.map (fun o => if o = a then { a with blocks := left } else o) ∧ c'.owned = c.owned ∧
          c'.pend = c.pend)) ∧
      (∃ c', exec (.acknowledge m) s = .next (goesOn c') ∧ c'.blocks = c.blocks ∧ c'.asks = c.asks.erase a ∧ owns a c' ∧ stays a c') ∧
      ∃ c', exec (.errorResponse m) s =
          .next (lineNext (setLine (l1DropDie s m.dst line) m.dst line c') m.dst line) ∧ c'.blocks = c.blocks ∧
        (left = [] ∨ m.blocks = [] → c'.asks = c.asks.erase a) ∧ (a.op ≠ 1 → c'.pend = []) ∧ (a.op = 1 → c'.pend = c.pend)) ∧
    ((∀ a ∈ c.asks, a.tag ≠ m.tag) →
      (m.tag ∈ c.backs → ∃ c', exec (.acknowledge m) s = .next (goesOn c') ∧ c'.backs = c.backs.erase m.tag ∧ c'.pend = c.pend ∧
        c'.blocks = c.blocks) ∧
      ∀ x ∈ [Instr.data m, .errorResponse m] ++ (if m.tag ∈ c.backs then [] else [Instr.acknowledge m]),
        (∀ f, s.flights.find? (fun f => f.die == m.dst && f.tag == m.tag && lineOf f.block == line) = some f →
          exec x s = .next (writesPerformed { s with flights := s.flights.erase f } m.dst)) ∧
        ((∀ f ∈ s.flights, ¬ (f.die = m.dst ∧ f.tag = m.tag ∧ lineOf f.block = line)) → exec x s = .next s)) ∧
    exec (.dataDirty m) s = .next s ∧ exec (.acknowledgeAlreadyWrittenBack m) s = .next s

/-- A die goes on with a line in which writes wait, for which it has asked for nothing: it asks for an upgrade where it holds the blocks
that they write, else to own them (R350, R351); one that it owns for nothing leaves, with an eviction notice. Where none waits in a line
that it keeps, the line stays, and groups of the die's cores that have waited for their writes go on. -/
def LineGoesOn : Prop :=
  ∀ (s : State) (die line : Nat), die < 9 → let c := getLine s die line
    let t := lineNext s die line
    let tag := (getDie s die).nextTag
    let asks (op : Nat) (bs : List Nat) : Prop := t.mem = s.mem ∧ Sent s t die 0 op
      { src := die, dst := 9 + lineHome s line, tag := tag, blocks := bs, key := c.key, line := line }
    (c.pend ≠ [] → c.asks = [] → c.backs = [] → (∀ p ∈ c.pend, p.2 < 3) →
      let op := if c.owned = false ∧ ∀ p ∈ c.pend, p.2 ∈ c.blocks then 3 else 2
      let bs := (List.range 3).filter fun b => c.pend.any fun p => p.2 == b
      getLine t die line = { c with asks := [{ tag := tag, op := op, blocks := bs }] } ∧ asks op bs) ∧
    (c.pend ≠ [] → c.asks ≠ [] ∨ c.backs ≠ [] → t = s) ∧
    (c.pend = [] → c.owned = true → c.blocks = [] → c.dirty = [] → c.asks = [] → c.backs = [] → (getDie s die).softShares = [] →
      getLine t die line = { key := c.key, binary := c.binary, asks := [{ tag := tag, op := 7 }] } ∧ asks 7 []) ∧
    (c.pend = [] → c.owned = false ∨ c.blocks ≠ [] ∨ c.asks ≠ [] ∨ c.backs ≠ [] → (getDie s die).softShares = [] →
      getLine t die line = c ∧ t.mem = s.mem ∧
      ∀ k x g, dieOf k = die → getGroup s k x = some g → g.wait = some .own → ∃ h, getGroup t k x = some h ∧ h.wait = none)

end Sys2Proof.Claims

/-- The die links, their managers, and the coherence of lines across dies (R341 to R351). -/
def Obligations.CoherenceEvents : Prop :=
  MessagesComeBack ∧ FlitsArrive ∧ LinksTrained ∧ LinksManaged ∧ MailboxPackets ∧ RequestsPerformed ∧ RequestsWait ∧ SnoopsAnswered ∧
  HomeAnswered ∧ DieAnswered ∧ LineGoesOn

/-! ## Events of the firmware, of power and of peers -/

namespace Sys2Proof.Claims

/-- Command `n` of a kind stands at the head of the firmware ring and may be taken; `x` is its block (R360). -/
def FwServed (s : State) (n kind x : Int) : Prop :=
  Served (getQueue s 81) ∧ s.phase ≠ .off ∧ CommandIs s 81 x ∧ n = trits x 242 216 ∧ kind = trits x 215 207

/-- Command `n` is taken and answered with a status (R361). -/
def FwAnswers (x : Instr) (s : State) (n status a : Int) (f : State → Prop) : Prop :=
  ∃ t, exec x s = .next t ∧ Taken (getQueue s 81) (getQueue t 81) n ∧ Answered t 81 n status a ∧ f t

/-- The commands of the firmware API by their kinds (R361). -/
def FwKind (kind : Int) (x : Instr) : Prop :=
  (kind = 1 ∧ x = .generation) ∨ (kind = 2 ∧ x = .loadKeySlot) ∨ (kind = 3 ∧ x = .clearKeySlot) ∨ (kind = 4 ∧ x = .operatingPoint) ∨
  (kind = 5 ∧ x = .quote) ∨ (kind = 6 ∧ x = .dieMap) ∨ (kind = 7 ∧ x = .imageUpload) ∨ (kind = 8 ∧ x = .transportKey)

/-- A frame of region -2 that is backed, at a bus address of the host (R49, R363). -/
def ByteFrame (s : State) (f : Int) (a : Nat) : Prop :=
  fits 24 f = true ∧ frameRegion f = -2 ∧ 0 ≤ frameIndex f ∧ frameIndex f < s.countByte ∧
  (a : Int) = s.hB + 19683 * frameIndex f

/-- The order and the mode of firmware commands (R361): a number out of order is malformed, and in recovery only a generation and an
image upload are allowed. The kinds 1, 4 and 7. That a number out of order is answered with -1, and that an image upload is answered and
changes nothing, since the images are outside the model, are its choices (log 37). -/
def FirmwareBasics : Prop :=
  ∀ (s : State) (n kind x : Int) (e : Instr), FwServed s n kind x → FwKind kind e →
    let k := getQueue s 81
    (n ≠ k.expect → FwAnswers e s n (-1) 0 fun t => t.keys = s.keys ∧ t.host = s.host ∧ t.mem = s.mem ∧ t.dies = s.dies) ∧
    (n = k.expect → s.phase = .recovery → kind ≠ 1 → kind ≠ 7 →
      FwAnswers e s n (-3) 0 fun t => t.keys = s.keys ∧ t.host = s.host ∧ t.mem = s.mem ∧ t.dies = s.dies) ∧
    (n = k.expect → kind = 1 →
      (1 ≤ trits x 206 198 → trits x 197 0 = 0 → FwAnswers e s n 1 (3 ^ 24) fun t => t.fw.gen = 1) ∧
      (trits x 206 198 < 1 ∨ trits x 197 0 ≠ 0 → FwAnswers e s n (-1) 0 fun t => t.fw.gen = s.fw.gen)) ∧
    (n = k.expect → kind = 7 → FwAnswers e s n (if s.phase = .recovery then 1 else -3) 0 fun t => t.phase = s.phase) ∧
    (n = k.expect → kind = 4 → s.phase ≠ .recovery →
      (trits x 206 198 < 0 ∨ 8 < trits x 206 198 ∨ trits x 197 189 < 0 ∨ 2 < trits x 197 189 ∨ trits x 188 0 ≠ 0 →
        FwAnswers e s n (-1) 0 fun t => t.dies = s.dies) ∧
      ∀ d p : Nat, trits x 206 198 = d → d ≤ 8 → trits x 197 189 = p → p ≤ 2 → trits x 188 0 = 0 →
        ((getDie s d).life = .out ∨ (p = 0 ∧ lowLinks s d = true) → FwAnswers e s n (-2) 0 fun t => t.dies = s.dies) ∧
        ((getDie s d).life ≠ .out → ¬ (p = 0 ∧ lowLinks s d = true) → (∀ r ∈ (getManager s d).reqs, r.1 < (getManager s d).next) →
          let m := getManager s d
          ∃ t, exec e s = .next t ∧ Taken k (getQueue t 81) n ∧ (getQueue t 81).records = [] ∧
            (getManager t d).next = m.next + 1 ∧ (getDie t d).point = (getDie s d).point ∧
            ((m.next, .frequency p n) ∈ (getManager t d).reqs ∨ (getManager t d).window = some (m.next, .frequency p n)) ∧
            (m.window = none → m.reqs = [] → (getManager t d).window = some (m.next, .frequency p n)) ∧
            ∀ r ∈ m.reqs, r ∈ (getManager t d).reqs ∨ (getManager t d).window = some r))

/-- No line on chip carries a key index (R84). -/
def LinesGone (t : State) (k : Nat) : Prop :=
  (∀ d line, (getLine t d line).key = k → (getLine t d line).blocks = [] ∧ (getLine t d line).pend = []) ∧
  (∀ h line l, getSlice t h line = some l → l.key ≠ k) ∧ ∀ c line l, getL1 t c line = some l → l.key ≠ k
/-- A state in which lines are dropped without more: its tables are in form, each home slice holds lines of its own, and no share that
software placed is there to end. -/
def PlainLines (s : State) : Prop :=
  s.canon = true ∧ (∀ h line l, getSlice s h line = some l → lineHome s line = h) ∧ ∀ d, (getDie s d).softShares = []

/-- The key slots (R84, R361), while no launch runs. A blob loads its slot where it unwraps under the transport key; no line that
carries the slot's key index stays on chip, and the contents of memory stay. That a slot's identity is the number which its keys make is
the model's choice (log 37). -/
def KeySlots : Prop :=
  ∀ (s : State) (n x : Int), s.phase ≠ .recovery → n = (getQueue s 81).expect →
    let k := trits x 206 198
    let ofs := trits x 164 150
    let dropped (t : State) : Prop := PlainLines s → LinesGone t k.toNat ∧
      ∀ c : Int, 0 ≤ c → (atomAt t c).payload = (atomAt s c).payload ∧ (atomAt t c).key = (atomAt s c).key ∧
        (atomAt t c).epoch = (atomAt s c).epoch
    (FwServed s n 2 x →
      (k < 1 ∨ 81 < k ∨ trits x 149 0 ≠ 0 ∨ ofs < 0 ∨ 19683 < ofs + 104 → FwAnswers .loadKeySlot s n (-1) 0 fun t => t.keys = s.keys) ∧
      ((∀ a, ¬ ByteFrame s (trits x 197 165) a) → FwAnswers .loadKeySlot s n (-1) 0 fun t => t.keys = s.keys) ∧
      (1 ≤ k → k ≤ 81 → trits x 149 0 = 0 → 0 ≤ ofs → ofs + 104 ≤ 19683 → ∀ a, ByteFrame s (trits x 197 165) a →
        (s.fw.transport = none → FwAnswers .loadKeySlot s n (-3) 0 fun t => t.keys = s.keys) ∧
        (∀ key, s.fw.transport = some key → (∀ l ∈ s.launches, l.2.st ≠ .running) →
          let blob := hostBytes s (a + ofs.toNat) 104
          (aesUnwrap key blob = none → FwAnswers .loadKeySlot s n (-2) 0 fun t => t.keys = s.keys) ∧
          (∀ ks, aesUnwrap key blob = some ks → FwAnswers .loadKeySlot s n 1 0 fun t =>
            getKey t k.toNat = { loaded := true, epoch := ofBytes ks + 1 } ∧
            (∀ j, j ≠ k.toNat → getKey t j = getKey s j) ∧ dropped t)))) ∧
    (FwServed s n 3 x →
      (k < 1 ∨ 81 < k ∨ trits x 197 0 ≠ 0 → FwAnswers .clearKeySlot s n (-1) 0 fun t => t.keys = s.keys) ∧
      (1 ≤ k → k ≤ 81 → trits x 197 0 = 0 → (∀ l ∈ s.launches, l.2.st ≠ .running) → FwAnswers .clearKeySlot s n 1 0 fun t =>
        (getKey t k.toNat).loaded = false ∧ (∀ j, j ≠ k.toNat → getKey t j = getKey s j) ∧ dropped t))

/-- The commands that name a frame of region -2 (R361, R362). A quote writes its report from byte 64 on and keeps a new
decapsulation key; none is given once the identity key is used up. A transport key is agreed once for each quote: the 256 bits of
KMAC256 under the shared secret of the ciphertext. The layout of a die map and the random bytes of a quote's keys are free values
(log 37). -/
def FramesNamed : Prop :=
  ∀ (s : State) (n kind x : Int) (e : Instr), FwServed s n kind x → FwKind kind e → s.phase ≠ .recovery →
    n = (getQueue s 81).expect → kind = 5 ∨ kind = 6 ∨ kind = 8 →
    (trits x 173 0 ≠ 0 ∨ (∀ a, ¬ ByteFrame s (trits x 206 174) a) → FwAnswers e s n (-1) 0 fun t => t.host = s.host) ∧
    (trits x 173 0 = 0 → ∀ a, ByteFrame s (trits x 206 174) a →
      (kind = 5 → 2 ^ 20 ≤ s.fw.quotes → FwAnswers e s n (-2) 0 fun t => t.host = s.host) ∧
      (kind = 5 → s.fw.quotes < 2 ^ 20 → FwAnswers e s n 1 0 fun t =>
        hostBytes t (a + 64) 4 = [128, 17, 0, 0] ∧ hostBytes t (a + 68) 2 = leBytes 2 s.fw.gen.toNat ∧
        hostBytes t (a + 70) 2 = [0, 0] ∧
        (∀ i, i < 4 → hostBytes t (a + 72 + 8 * i) 8 = leBytes 8 (s.fw.versions.getD i 0)) ∧
        (∀ d, d < 20 → (hostByte t (a + 104 + d)).toNat = dieState s d) ∧
        hostBytes t (a + 124) 32 = hostBytes s a 32 ∧ (∀ y, y < a + 64 ∨ a + 4544 ≤ y → hostByte t y = hostByte s y) ∧
        (∃ d z ek dk, d.length = 32 ∧ z.length = 32 ∧ kemKeyGen d z = (ek, dk) ∧ t.fw.decaps = some dk ∧
          ∀ i b, i < 1568 → ek[i]? = some b → (hostByte t (a + 156 + i)).toNat = b % 256) ∧
        t.fw.nonce = hostBytes s a 32 ∧ t.fw.quotes = s.fw.quotes + 1 ∧ t.fw.transport = s.fw.transport) ∧
      (kind = 6 → FwAnswers e s n 1 0 fun t => (∀ y, y < a ∨ a + 19683 ≤ y → hostByte t y = hostByte s y) ∧
        ∀ i b, i < 19683 →
          (Config.dieMapBytes (((List.range 20).filter (dieLive s)).map (readIdent s)) ((List.range 27).map (linkWidths s)))[i]? = some b →
          (hostByte t (a + i)).toNat = b % 256) ∧
      (kind = 8 → s.fw.decaps = none → FwAnswers e s n (-3) 0 fun t => t.fw.transport = s.fw.transport) ∧
      (∀ dk, kind = 8 → s.fw.decaps = some dk → FwAnswers e s n 1 0 fun t => t.fw.decaps = none ∧ t.host = s.host ∧
        t.fw.transport = some (kmac256 (kemDecaps dk (hostBytes s a 1568)) s.fw.nonce 32 "UNLOSKEK")))

/-- Each die of a path works and has a link that is up to the next (R358). -/
def PathOf (b : BringUp) (up : Nat → Prop) : List Nat → Prop
  | [] => True
  | [d] => b.routers.getD d false = true
  | d :: e :: t => b.routers.getD d false = true ∧
      (∃ n, endBetween d e = some n ∧ up (n / 2)) ∧ e ∈ meshMoves d ∧ PathOf b up (e :: t)

/-- Power-on (R2, R346, R352, R353, R355 to R358). With a failing HD-A the module stays as it is. A failing image, or one of a version
below the fused minimum, leaves the module in recovery. Else the links train; a compute die
that a path of working dies joins to HD-A is live, or compute-out where no cluster passes, and one whose router fails is out; the
stacks, the interleave table, the counts and the budgets follow, the plinths of the live dies begin, and the module is ready. What the
input of a power-on says of the parts, and that a package reset keeps memory, host memory and the count of quotes, is the model's choice
(log 39). -/
def PowerComesOn : Prop :=
  ∀ (s : State) (b : BringUp),
    (s.phase = .ready ∨ b.hdA = false → exec (.powerOn b) s = .next s) ∧
    (s.phase ≠ .ready → b.hdA = true →
      b.images.length ≠ 4 ∨ (∃ i ∈ b.images, i = false) ∨ (∃ i, i < 4 ∧ b.versions.getD i 0 < Config.fusedVersion i) → ∃ t, exec (.powerOn b) s = .next t ∧
      t.phase = .recovery ∧ t.dies = s.dies ∧ t.links = s.links ∧ t.sbs = s.sbs) ∧
    (s.phase ≠ .ready → b.hdA = true → s.dies = [] → s.sbs = [] → s.itab = [] → b.images = [true, true, true, true] →
      (∀ i, i < 4 → Config.fusedVersion i ≤ b.versions.getD i 0) →
      ∃ t, exec (.powerOn b) s = .next t ∧ t.phase = .ready ∧ t.locked = true ∧ t.hdB = b.hdB ∧ t.fw.versions = b.versions.take 4 ∧
        (∀ e, e < 54 → ((getLink t e).up = true ↔
          1 ≤ min (b.gens.getD (e / 2) (0, 0)).1 (b.gens.getD (e / 2) (0, 0)).2 ∧ ¬ (24 ≤ e / 2 ∧ b.hdB = false))) ∧
        (∀ d, d < 9 → b.routers.getD d false = false → (getDie t d).life = .out) ∧
        (∀ (d : Nat) (p : List Nat), d < 9 → p.length ≤ 8 → PathOf b (fun l => (getLink t (2 * l)).up = true) (d :: p) →
          (∃ z, (d :: p).getLast? = some z ∧ z % 3 = 0 ∧ z < 9 ∧ (getLink t (2 * (21 + z / 3))).up = true) →
          (getDie t d).life ≠ .out) ∧
        ((∀ l, 21 ≤ l → l < 24 → (getLink t (2 * l)).up = false) → ∀ d, d < 9 → (getDie t d).life = .out) ∧
        (∀ d, d < 9 → (getDie t d).life ≠ .out →
          (∀ c, c ∈ (getDie t d).liveClusters ↔ c < 27 ∧ c ∈ b.clusters.getD d []) ∧
          ((getDie t d).life = .live ↔ (getDie t d).liveClusters ≠ []) ∧
          ((getDie t d).life = .live → (getDie t d).plinthUp = true ∧ (getDie t d).plinth ∈ (getDie t d).liveClusters ∧
            ∀ c ∈ (getDie t d).liveClusters, (getDie t d).plinth ≤ c)) ∧
        (∀ h, h < 9 → ((getStack t h).live = true ↔
            (getDie t h).life ≠ .out ∧ (getLink t (2 * h)).up = true ∧ 0 < b.sbs.getD h 0) ∧
          ((getStack t h).live = true → (getStack t h).lines = min 357913941 (b.sbs.getD h 0))) ∧
        (let hs := (List.range 9).filter (fun h => (getStack t h).live);
          hs ≠ [] → ∀ i, i < 81 → hs[i % hs.length]? = some (itabEntry t i)) ∧
        t.count0 = 27 ∧ t.count1 = stackRounds t / 3 ∧ 
        t.count2 = ((min (2 * 2 ^ 40) (b.lpddr.getD 0 0 + if b.hdB = true then b.lpddr.getD 1 0 else 0) / 46656 : Nat) : Int) ∧
        t.count3 = ((min (14 * 2 ^ 40)
          ((b.expanders.getD 0 []).sum + if b.hdB = true then (b.expanders.getD 1 []).sum else 0) / 46656 : Nat) : Int) ∧
        t.countHost = 0 ∧ t.countByte = 0 ∧ t.countPeer = 0 ∧
        (let n := ((List.range 9).filter fun d => (getDie t d).life == .live).length
          ∀ d, d < 9 → ((getDie t d).life = .live → (getDie t d).budget = 2187 / n) ∧
            ((getDie t d).life = .computeOut → (getDie t d).budget = 81))) ∧
    (exec .packageReset s = .next
      { State.reset with mem := s.mem, host := s.host, fresh := s.fresh, fw := { quotes := s.fw.quotes } })

/-- The frames of R82 and R357: with nine full stacks, and with SB4 left out. -/
def FrameCounts : Prop :=
  (∀ s : State, (∀ h, h < 9 → (getStack s h).live = true ∧ (getStack s h).lines = 357913941) →
    (∀ i, i < 81 → itabEntry s i = i % 9) → stackRounds s = 39768215) ∧
  (∀ s : State, (∀ h, h < 9 → ((getStack s h).live = true ↔ h ≠ 4) ∧ (getStack s h).lines = 357913941) →
    (∀ i, i < 81 → itabEntry s i = [0, 1, 2, 3, 5, 6, 7, 8].getD (i % 8) 0) → stackRounds s = 32537631 ∧ stackRounds s / 3 = 10845877)

/-- An access to a block of device memory that arrives at a port under a key index, uncached, once the agent has seen every write to it
(R109): nothing written is a read, which returns the block or nothing where it fails; else the nonets are written. -/
def PortServes (s : State) (ag : Agent) (bl : Int) (key : Nat)
    (run : List (Nat × Int) → Host.Outcome State Fault Refusal) : Prop :=
  let at_ : Attr := { key := key, policy := -1 }
  (∀ l u, readMemBlock s bl at_ = (.ok l, u) →
    (∀ i : Nat, i < 27 → ∀ e, (lateAt s (memKey (27 * bl + i))).head? = some e → Machine.sees e ag = true) →
    ∃ t, run [] = .next t ∧ t.portData = packBlock l ∧ MemKept s t) ∧
  (∀ c u, readMemBlock s bl at_ = (.error c, u) → ∃ t, run [] = .next t ∧ t.portData = [] ∧ MemKept s t) ∧
  ∀ l w, w ≠ [] → (∀ x ∈ w, x.1 < 27 ∧ InTrits 9 x.2) → (w.map (·.1)).Nodup → lineClash s bl at_ = false →
    mergeRead s bl at_ = .ok l ∨ (∀ i, i < 27 → ∃ x ∈ w, x.1 = i) →
    ∃ t l', run w = .next t ∧ unpackBlock (atomAt t bl).payload = some l' ∧ (atomAt t bl).key = key ∧
      (atomAt t bl).epoch = keySeal s key ∧ (atomSeen t bl).poison = false ∧ (∀ x ∈ w, l'[x.1]? = some x.2) ∧
      (∀ i, i < 27 → (∀ x ∈ w, x.1 ≠ i) → l'[i]? = l[i]?) ∧ OthersHold s t bl

/-- The host reaches device memory through its port once the module is ready (R109). By which addresses of the bus is the model's choice
(log 78). -/
def HostReachesMemory : Prop :=
  ∀ (s : State) (bl : Int) (key : Nat),
    (s.phase = .ready → backedMem s (blockFrame bl) = true → key ≤ 81 →
      PortServes s { path := .host } bl key fun w => .next (hostDevice bl key false w s)) ∧
    (s.phase ≠ .ready ∨ backedMem s (blockFrame bl) = false → ∀ w, hostDevice bl key false w s = s)

/-- Every frame of a window lies in one of the regions +1 to +3 (R364). -/
def InRegions (base count : Int) : Prop :=
  0 ≤ count ∧ ∃ r, 1 ≤ r ∧ r ≤ 3 ∧ ∀ f, base ≤ f → f < base + count → fits 24 f = true ∧ frameRegion f = r ∧ 0 ≤ frameIndex f

/-- Peers (R364): an access beyond the exported window, or through a port that is down, moves nothing; within it a block is read, or
its nonets written, with key index 0 and no caching (the model's choice, log 41). Negotiation agrees on generation 1 and exchanges the windows, and the count is the largest export among the
negotiated ports; it stays when a port goes down (log 41). An access of this package to a peer's region goes to the peer's window at the frame's
index; beyond the window it is refused, which a write shows by an event of code 1 alone (the model's choice, log 41, as is the place
beside the message in which the nonets of a partial write go, log 93). -/
def PeersServed : Prop :=
  ∀ (s : State) (p : Nat) (bl : Int), let k := getPort s p
    let f := blockFrame bl
    (∀ w, (k.up = false ∨ k.negotiated = false ∨ f < k.outBase ∨ k.outBase + k.outCount ≤ f ∨ frameRegion f < 1 ∨ 3 < frameRegion f) →
      exec (.peerAccess p bl w) s = .next { s with portData := [] }) ∧
    (k.up = true → k.negotiated = true → k.outBase ≤ f → f < k.outBase + k.outCount → backedMem s f = true →
      PortServes s { path := .host, place := p + 1 } bl 0 fun w => exec (.peerAccess p bl w) s) ∧
    (∀ (gen : Nat) (base count outBase outCount : Int),
      (8 ≤ p ∨ (4 ≤ p ∧ s.hdB = false) → exec (.peerNegotiation p gen base count outBase outCount) s = .next s) ∧
      (p < 8 → p < 4 ∨ s.hdB = true → gen < 1 ∨ ¬ InRegions base count ∨ ¬ InRegions outBase outCount →
        exec (.peerNegotiation p gen base count outBase outCount) s = .next (setPort s p { k with up := false, gen := 0 })) ∧
      (1 ≤ gen → p < 8 → p < 4 ∨ s.hdB = true → InRegions base count → InRegions outBase outCount →
        ∃ t, exec (.peerNegotiation p gen base count outBase outCount) s = .next t ∧
          getPort t p = { k with
            up := true, negotiated := true, gen := 1, base := base, count := count, outBase := outBase, outCount := outCount } ∧
          (∀ q, q ≠ p → getPort t q = getPort s q) ∧
          (∀ q, q < 8 → (getPort t q).negotiated = true → (getPort t q).count ≤ t.countPeer) ∧
          (t.countPeer = 0 ∨ ∃ q, q < 8 ∧ (getPort t q).negotiated = true ∧ (getPort t q).count = t.countPeer) ∧ t.mem = s.mem)) ∧
    (∃ t, exec (.peerPortDown p) s = .next t ∧ getPort t p = { k with up := false, gen := 0 } ∧
      (∀ q, q ≠ p → getPort t q = getPort s q) ∧ t.countPeer = s.countPeer) ∧
    (∀ at_ : Attr, frameRegion f = -3 - (p : Int) →
      (k.up = false ∨ frameIndex f < 0 ∨ k.count ≤ frameIndex f →
        readBlock s bl at_ = (.error 1, s) ∧ ∀ ps, writeBlock s bl at_ false ps = sendEvent s 1 (27 * bl)) ∧
      (k.up = true → 0 ≤ k.base → 0 ≤ frameIndex f → frameIndex f < k.count →
        let there (m : Msg) : Prop := m.src = p ∧ ∃ i : Nat, i < 3 ∧ m.blocks = [i] ∧
          3 * m.line + i = 729 * (k.base + frameIndex f) + bl % 729
        (∃ m, there m ∧ m.block = none ∧ getPort (readBlock s bl at_).2 p = { k with out := k.out ++ [(msgBytes 0 1 m, [])] }) ∧
        (∀ l : List Int, l.length = 27 → ∃ m, there m ∧ m.block = some l ∧
          getPort (writeBlock s bl at_ false (blockPlaces l)) p = { k with out := k.out ++ [(msgBytes 0 4 m, [])] }) ∧
        ∀ ps : SMap Int, (∃ i, i < 27 ∧ ∀ x ∈ ps, x.1 ≠ i) → ∃ m, there m ∧ m.block = none ∧
          getPort (writeBlock s bl at_ false ps) p = { k with out := k.out ++ [(msgBytes 0 5 m, ps)] }))

end Sys2Proof.Claims

/-- The firmware API, power-on, package reset, the host's accesses to device memory, and peers (R82, R84, R109, R352 to R364). -/
def Obligations.FirmwareEvents : Prop :=
  FirmwareBasics ∧ KeySlots ∧ FramesNamed ∧ PowerComesOn ∧ FrameCounts ∧ HostReachesMemory ∧ PeersServed
end

