-- ==== Sys2Proof/Laws/Map.lean ====
section
/-! SUPPORT. The laws of the sparse tables: a read after a write, writes of one key, the canonical form. None of the
read laws needs the table to be in canonical form. -/

namespace Sys2Proof.Machine

variable {α : Type}

/-! ## Removal and insertion -/

@[simp] theorem mdel_nil (k : Nat) : mdel ([] : SMap α) k = [] := rfl

theorem mdel_cons (j : Nat) (w : α) (t : SMap α) (k : Nat) :
    mdel ((j, w) :: t) k = if j = k then mdel t k else (j, w) :: mdel t k := by
  by_cases h : j = k <;> simp [mdel, h]

@[simp] theorem mdel_mdel (m : SMap α) (k : Nat) : mdel (mdel m k) k = mdel m k := by
  simp [mdel, List.filter_filter]

theorem mdel_mins (m : SMap α) (k : Nat) (v : α) : mdel (mins m k v) k = mdel m k := by
  induction m with
  | nil => simp [mins, mdel]
  | cons e t ih =>
    obtain ⟨j, w⟩ := e
    simp only [mins]
    split
    · simp [mdel_cons]
    · simp [mdel_cons, ih]

@[simp] theorem mdel_mset (m : SMap α) (k : Nat) (v : α) : mdel (mset m k v) k = mdel m k := by
  simp [mset, mdel_mins]

@[simp] theorem mset_mdel (m : SMap α) (k : Nat) (v : α) : mset (mdel m k) k v = mset m k v := by
  simp [mset]

@[simp] theorem mset_mset (m : SMap α) (k : Nat) (v w : α) : mset (mset m k v) k w = mset m k w := by
  unfold mset
  rw [mdel_mins, mdel_mdel]

@[simp] theorem mdel_mput [DecidableEq α] (d : α) (m : SMap α) (k : Nat) (v : α) :
    mdel (mput d m k v) k = mdel m k := by
  unfold mput; split <;> simp

@[simp] theorem mput_mdel [DecidableEq α] (d : α) (m : SMap α) (k : Nat) (v : α) :
    mput d (mdel m k) k v = mput d m k v := by
  unfold mput; split <;> simp

/-- The later of two writes of one key stands alone. -/
@[simp] theorem mput_mput [DecidableEq α] (d : α) (m : SMap α) (k : Nat) (v w : α) :
    mput d (mput d m k v) k w = mput d m k w := by
  rw [← mput_mdel, mdel_mput, mput_mdel]

/-! ## Reads with a default -/

@[simp] theorem mget_mdel_same (d : α) (m : SMap α) (k : Nat) : mget d (mdel m k) k = d := by
  induction m with
  | nil => rfl
  | cons e t ih =>
    obtain ⟨j, w⟩ := e
    by_cases h : j = k
    · simp [mdel_cons, h, ih]
    · simp [mdel_cons, h, mget, ih, Ne.symm h]

theorem mget_mdel_ne (d : α) (m : SMap α) {k l : Nat} (h : l ≠ k) : mget d (mdel m k) l = mget d m l := by
  induction m with
  | nil => rfl
  | cons e t ih =>
    obtain ⟨j, w⟩ := e
    by_cases hj : j = k
    · subst hj; simp [mdel_cons, mget, ih, h]
    · simp only [mdel_cons, hj, ↓reduceIte, mget, ih]

theorem mget_mins_ne (d : α) (m : SMap α) {k l : Nat} (v : α) (h : l ≠ k) : mget d (mins m k v) l = mget d m l := by
  induction m with
  | nil => simp [mins, mget, h]
  | cons e t ih =>
    obtain ⟨j, w⟩ := e
    simp only [mins]
    split
    · simp [mget, h]
    · simp only [mget, ih]

theorem mget_mins_same (d : α) (m : SMap α) (k : Nat) (v : α) : mget d (mins (mdel m k) k v) k = v := by
  induction m with
  | nil => simp [mins, mget]
  | cons e t ih =>
    obtain ⟨j, w⟩ := e
    by_cases h : j = k
    · simpa [mdel_cons, h] using ih
    · simp only [mdel_cons, h, ↓reduceIte, mins]
      split
      · simp [mget]
      · simp only [mget, Ne.symm h, ↓reduceIte, ih]

/-- A read after a write. -/
theorem mget_mset (d : α) (m : SMap α) (k l : Nat) (v : α) :
    mget d (mset m k v) l = if l = k then v else mget d m l := by
  split
  case isTrue h => subst h; exact mget_mins_same d m l v
  case isFalse h => rw [mset, mget_mins_ne d _ v h, mget_mdel_ne d m h]

/-- A read after a write that keeps the canonical form. -/
theorem mget_mput [DecidableEq α] (d : α) (m : SMap α) (k l : Nat) (v : α) :
    mget d (mput d m k v) l = if l = k then v else mget d m l := by
  unfold mput
  split
  case isTrue h =>
    subst h
    split
    case isTrue hl => subst hl; simp
    case isFalse hl => exact mget_mdel_ne _ m hl
  case isFalse => exact mget_mset d m k l v

@[simp] theorem mget_mput_same [DecidableEq α] (d : α) (m : SMap α) (k : Nat) (v : α) :
    mget d (mput d m k v) k = v := by simp [mget_mput]

@[simp] theorem mget_mset_same (d : α) (m : SMap α) (k : Nat) (v : α) : mget d (mset m k v) k = v := by
  simp [mget_mset]

/-! ## Reads of what is listed -/

@[simp] theorem mfind_mdel_same (m : SMap α) (k : Nat) : mfind (mdel m k) k = none := by
  induction m with
  | nil => rfl
  | cons e t ih =>
    obtain ⟨j, w⟩ := e
    by_cases h : j = k
    · simp [mdel_cons, h, ih]
    · simp [mdel_cons, h, mfind, ih, Ne.symm h]

theorem mfind_mdel_ne (m : SMap α) {k l : Nat} (h : l ≠ k) : mfind (mdel m k) l = mfind m l := by
  induction m with
  | nil => rfl
  | cons e t ih =>
    obtain ⟨j, w⟩ := e
    by_cases hj : j = k
    · subst hj; simp [mdel_cons, mfind, ih, h]
    · simp only [mdel_cons, hj, ↓reduceIte, mfind, ih]

theorem mfind_mins_ne (m : SMap α) {k l : Nat} (v : α) (h : l ≠ k) : mfind (mins m k v) l = mfind m l := by
  induction m with
  | nil => simp [mins, mfind, h]
  | cons e t ih =>
    obtain ⟨j, w⟩ := e
    simp only [mins]
    split
    · simp [mfind, h]
    · simp only [mfind, ih]

theorem mfind_mins_same (m : SMap α) (k : Nat) (v : α) : mfind (mins (mdel m k) k v) k = some v := by
  induction m with
  | nil => simp [mins, mfind]
  | cons e t ih =>
    obtain ⟨j, w⟩ := e
    by_cases h : j = k
    · simpa [mdel_cons, h] using ih
    · simp only [mdel_cons, h, ↓reduceIte, mins]
      split
      · simp [mfind]
      · simp only [mfind, Ne.symm h, ↓reduceIte, ih]

/-- What is listed after a write. -/
theorem mfind_mset (m : SMap α) (k l : Nat) (v : α) :
    mfind (mset m k v) l = if l = k then some v else mfind m l := by
  split
  case isTrue h => subst h; exact mfind_mins_same m l v
  case isFalse h => rw [mset, mfind_mins_ne _ v h, mfind_mdel_ne m h]

@[simp] theorem mfind_mset_same (m : SMap α) (k : Nat) (v : α) : mfind (mset m k v) k = some v := by
  simp [mfind_mset]

theorem mfind_mset_ne (m : SMap α) {k l : Nat} (v : α) (h : l ≠ k) : mfind (mset m k v) l = mfind m l := by
  simp [mfind_mset, h]

/-! ## The canonical form -/

theorem msortedFrom_mono {m : SMap α} : ∀ {lo lo' : Nat}, lo' ≤ lo → msortedFrom lo m = true → msortedFrom lo' m = true := by
  cases m with
  | nil => intros; rfl
  | cons e t =>
    obtain ⟨j, w⟩ := e
    intro lo lo' h hs
    simp only [msortedFrom, Bool.and_eq_true, decide_eq_true_eq] at *
    exact ⟨by omega, hs.2⟩

theorem msortedFrom_filter (p : Nat × α → Bool) {m : SMap α} :
    ∀ {lo : Nat}, msortedFrom lo m = true → msortedFrom lo (m.filter p) = true := by
  induction m with
  | nil => intros; rfl
  | cons e t ih =>
    obtain ⟨j, w⟩ := e
    intro lo hs
    simp only [msortedFrom, Bool.and_eq_true, decide_eq_true_eq] at hs
    by_cases hp : p (j, w) = true
    · rw [List.filter_cons_of_pos hp]
      simp [msortedFrom, hs.1, ih hs.2]
    · rw [List.filter_cons_of_neg hp]
      exact msortedFrom_mono (by omega) (ih hs.2)

theorem msortedFrom_mins {m : SMap α} {k : Nat} (v : α) :
    ∀ {lo : Nat}, lo ≤ k → mfind m k = none → msortedFrom lo m = true → msortedFrom lo (mins m k v) = true := by
  induction m with
  | nil => intro lo h _ _; simp [mins, msortedFrom, h]
  | cons e t ih =>
    obtain ⟨j, w⟩ := e
    intro lo h hf hs
    simp only [msortedFrom, Bool.and_eq_true, decide_eq_true_eq] at hs
    have hk : k ≠ j := by
      intro hk; simp [mfind, hk] at hf
    simp only [mfind, hk, ↓reduceIte] at hf
    simp only [mins]
    split
    case isTrue hj =>
      simp only [msortedFrom, Bool.and_eq_true, decide_eq_true_eq]
      exact ⟨h, hj, hs.2⟩
    case isFalse hj =>
      simp only [msortedFrom, Bool.and_eq_true, decide_eq_true_eq]
      exact ⟨hs.1, ih (by omega) hf hs.2⟩

/-- A write keeps the canonical form. -/
theorem msorted_mset {m : SMap α} (h : msorted m = true) (k : Nat) (v : α) : msorted (mset m k v) = true :=
  msortedFrom_mins v (Nat.zero_le k) (mfind_mdel_same m k) (msortedFrom_filter _ h)

/-- A removal keeps the canonical form. -/
theorem msorted_mdel {m : SMap α} (h : msorted m = true) (k : Nat) : msorted (mdel m k) = true :=
  msortedFrom_filter _ h

/-- A canonical table lists no default. -/
theorem mwfFrom_iff [DecidableEq α] (d : α) (m : SMap α) :
    ∀ lo, mwfFrom d lo m = (msortedFrom lo m && m.all fun e => decide (e.2 ≠ d)) := by
  induction m with
  | nil => intro lo; rfl
  | cons e t ih =>
    obtain ⟨j, w⟩ := e
    intro lo
    simp only [mwfFrom, msortedFrom, ih, List.all_cons]
    cases decide (lo ≤ j) <;> cases decide (w ≠ d) <;> cases msortedFrom (j + 1) t <;> rfl

theorem mins_all (p : Nat × α → Bool) (m : SMap α) (k : Nat) (v : α) :
    (mins m k v).all p = (p (k, v) && m.all p) := by
  induction m with
  | nil => simp [mins]
  | cons e t ih =>
    obtain ⟨j, w⟩ := e
    simp only [mins]
    split
    · simp
    · simp only [List.all_cons, ih]
      cases p (j, w) <;> cases p (k, v) <;> simp

/-- A write that drops defaults keeps the canonical form. -/
theorem mwf_mput [DecidableEq α] {d : α} {m : SMap α} (h : mwf d m = true) (k : Nat) (v : α) :
    mwf d (mput d m k v) = true := by
  simp only [mwf, mwfFrom_iff, Bool.and_eq_true] at *
  have hdel : (mdel m k).all (fun e => decide (e.2 ≠ d)) = true := by
    simp only [List.all_eq_true] at *
    intro e he
    exact h.2 e (List.mem_filter.mp he).1
  unfold mput
  split
  case isTrue => exact ⟨msortedFrom_filter _ h.1, hdel⟩
  case isFalse hv =>
    refine ⟨msorted_mset h.1 k v, ?_⟩
    rw [mset, mins_all]
    rw [hdel]; simp [hv]

end Sys2Proof.Machine
end

