-- ==== Sys2Proof/Laws/State.lean ====
section
/-! SUPPORT. One lemma for each field of the state under each of its updates: what an update leaves as it was. -/

namespace Sys2Proof.Machine

section Fields

variable (s : State)

/-! `setCore` -/

@[simp] theorem setCore_mem (c : Nat) (v : Core) : (setCore s c v).mem = s.mem := rfl
@[simp] theorem setCore_host (c : Nat) (v : Core) : (setCore s c v).host = s.host := rfl
@[simp] theorem setCore_late (c : Nat) (v : Core) : (setCore s c v).late = s.late := rfl
@[simp] theorem setCore_made (c : Nat) (v : Core) : (setCore s c v).made = s.made := rfl
@[simp] theorem setCore_taken (c : Nat) (v : Core) : (setCore s c v).taken = s.taken := rfl
@[simp] theorem setCore_code (c : Nat) (v : Core) : (setCore s c v).code = s.code := rfl
@[simp] theorem setCore_flights (c : Nat) (v : Core) : (setCore s c v).flights = s.flights := rfl
@[simp] theorem setCore_starts (c : Nat) (v : Core) : (setCore s c v).starts = s.starts := rfl
@[simp] theorem setCore_clusters (c : Nat) (v : Core) : (setCore s c v).clusters = s.clusters := rfl
@[simp] theorem setCore_dies (c : Nat) (v : Core) : (setCore s c v).dies = s.dies := rfl
@[simp] theorem setCore_sbs (c : Nat) (v : Core) : (setCore s c v).sbs = s.sbs := rfl
@[simp] theorem setCore_links (c : Nat) (v : Core) : (setCore s c v).links = s.links := rfl
@[simp] theorem setCore_widths (c : Nat) (v : Core) : (setCore s c v).widths = s.widths := rfl
@[simp] theorem setCore_managers (c : Nat) (v : Core) : (setCore s c v).managers = s.managers := rfl
@[simp] theorem setCore_hdB (c : Nat) (v : Core) : (setCore s c v).hdB = s.hdB := rfl
@[simp] theorem setCore_phase (c : Nat) (v : Core) : (setCore s c v).phase = s.phase := rfl
@[simp] theorem setCore_count0 (c : Nat) (v : Core) : (setCore s c v).count0 = s.count0 := rfl
@[simp] theorem setCore_count1 (c : Nat) (v : Core) : (setCore s c v).count1 = s.count1 := rfl
@[simp] theorem setCore_count2 (c : Nat) (v : Core) : (setCore s c v).count2 = s.count2 := rfl
@[simp] theorem setCore_count3 (c : Nat) (v : Core) : (setCore s c v).count3 = s.count3 := rfl
@[simp] theorem setCore_countHost (c : Nat) (v : Core) : (setCore s c v).countHost = s.countHost := rfl
@[simp] theorem setCore_countByte (c : Nat) (v : Core) : (setCore s c v).countByte = s.countByte := rfl
@[simp] theorem setCore_countPeer (c : Nat) (v : Core) : (setCore s c v).countPeer = s.countPeer := rfl
@[simp] theorem setCore_itab (c : Nat) (v : Core) : (setCore s c v).itab = s.itab := rfl
@[simp] theorem setCore_locked (c : Nat) (v : Core) : (setCore s c v).locked = s.locked := rfl
@[simp] theorem setCore_hT (c : Nat) (v : Core) : (setCore s c v).hT = s.hT := rfl
@[simp] theorem setCore_hB (c : Nat) (v : Core) : (setCore s c v).hB = s.hB := rfl
@[simp] theorem setCore_sT (c : Nat) (v : Core) : (setCore s c v).sT = s.sT := rfl
@[simp] theorem setCore_sB (c : Nat) (v : Core) : (setCore s c v).sB = s.sB := rfl
@[simp] theorem setCore_ports (c : Nat) (v : Core) : (setCore s c v).ports = s.ports := rfl
@[simp] theorem setCore_keys (c : Nat) (v : Core) : (setCore s c v).keys = s.keys := rfl
@[simp] theorem setCore_queues (c : Nat) (v : Core) : (setCore s c v).queues = s.queues := rfl
@[simp] theorem setCore_fw (c : Nat) (v : Core) : (setCore s c v).fw = s.fw := rfl
@[simp] theorem setCore_portData (c : Nat) (v : Core) : (setCore s c v).portData = s.portData := rfl
@[simp] theorem setCore_signals (c : Nat) (v : Core) : (setCore s c v).signals = s.signals := rfl
@[simp] theorem setCore_launches (c : Nat) (v : Core) : (setCore s c v).launches = s.launches := rfl
@[simp] theorem setCore_teams (c : Nat) (v : Core) : (setCore s c v).teams = s.teams := rfl
@[simp] theorem setCore_ops (c : Nat) (v : Core) : (setCore s c v).ops = s.ops := rfl
@[simp] theorem setCore_qrys (c : Nat) (v : Core) : (setCore s c v).qrys = s.qrys := rfl
@[simp] theorem setCore_invals (c : Nat) (v : Core) : (setCore s c v).invals = s.invals := rfl
@[simp] theorem setCore_events (c : Nat) (v : Core) : (setCore s c v).events = s.events := rfl
@[simp] theorem setCore_nextId (c : Nat) (v : Core) : (setCore s c v).nextId = s.nextId := rfl
@[simp] theorem setCore_issue (c : Nat) (v : Core) : (setCore s c v).issue = s.issue := rfl
@[simp] theorem setCore_agenda (c : Nat) (v : Core) : (setCore s c v).agenda = s.agenda := rfl
@[simp] theorem setCore_fresh (c : Nat) (v : Core) : (setCore s c v).fresh = s.fresh := rfl
@[simp] theorem setCore_nextQueue (c : Nat) (v : Core) : (setCore s c v).nextQueue = s.nextQueue := rfl

/-! `setCluster` -/

@[simp] theorem setCluster_mem (c : Nat) (v : Cluster) : (setCluster s c v).mem = s.mem := rfl
@[simp] theorem setCluster_host (c : Nat) (v : Cluster) : (setCluster s c v).host = s.host := rfl
@[simp] theorem setCluster_late (c : Nat) (v : Cluster) : (setCluster s c v).late = s.late := rfl
@[simp] theorem setCluster_made (c : Nat) (v : Cluster) : (setCluster s c v).made = s.made := rfl
@[simp] theorem setCluster_taken (c : Nat) (v : Cluster) : (setCluster s c v).taken = s.taken := rfl
@[simp] theorem setCluster_code (c : Nat) (v : Cluster) : (setCluster s c v).code = s.code := rfl
@[simp] theorem setCluster_flights (c : Nat) (v : Cluster) : (setCluster s c v).flights = s.flights := rfl
@[simp] theorem setCluster_starts (c : Nat) (v : Cluster) : (setCluster s c v).starts = s.starts := rfl
@[simp] theorem setCluster_cores (c : Nat) (v : Cluster) : (setCluster s c v).cores = s.cores := rfl
@[simp] theorem setCluster_dies (c : Nat) (v : Cluster) : (setCluster s c v).dies = s.dies := rfl
@[simp] theorem setCluster_sbs (c : Nat) (v : Cluster) : (setCluster s c v).sbs = s.sbs := rfl
@[simp] theorem setCluster_links (c : Nat) (v : Cluster) : (setCluster s c v).links = s.links := rfl
@[simp] theorem setCluster_widths (c : Nat) (v : Cluster) : (setCluster s c v).widths = s.widths := rfl
@[simp] theorem setCluster_managers (c : Nat) (v : Cluster) : (setCluster s c v).managers = s.managers := rfl
@[simp] theorem setCluster_hdB (c : Nat) (v : Cluster) : (setCluster s c v).hdB = s.hdB := rfl
@[simp] theorem setCluster_phase (c : Nat) (v : Cluster) : (setCluster s c v).phase = s.phase := rfl
@[simp] theorem setCluster_count0 (c : Nat) (v : Cluster) : (setCluster s c v).count0 = s.count0 := rfl
@[simp] theorem setCluster_count1 (c : Nat) (v : Cluster) : (setCluster s c v).count1 = s.count1 := rfl
@[simp] theorem setCluster_count2 (c : Nat) (v : Cluster) : (setCluster s c v).count2 = s.count2 := rfl
@[simp] theorem setCluster_count3 (c : Nat) (v : Cluster) : (setCluster s c v).count3 = s.count3 := rfl
@[simp] theorem setCluster_countHost (c : Nat) (v : Cluster) : (setCluster s c v).countHost = s.countHost := rfl
@[simp] theorem setCluster_countByte (c : Nat) (v : Cluster) : (setCluster s c v).countByte = s.countByte := rfl
@[simp] theorem setCluster_countPeer (c : Nat) (v : Cluster) : (setCluster s c v).countPeer = s.countPeer := rfl
@[simp] theorem setCluster_itab (c : Nat) (v : Cluster) : (setCluster s c v).itab = s.itab := rfl
@[simp] theorem setCluster_locked (c : Nat) (v : Cluster) : (setCluster s c v).locked = s.locked := rfl
@[simp] theorem setCluster_hT (c : Nat) (v : Cluster) : (setCluster s c v).hT = s.hT := rfl
@[simp] theorem setCluster_hB (c : Nat) (v : Cluster) : (setCluster s c v).hB = s.hB := rfl
@[simp] theorem setCluster_sT (c : Nat) (v : Cluster) : (setCluster s c v).sT = s.sT := rfl
@[simp] theorem setCluster_sB (c : Nat) (v : Cluster) : (setCluster s c v).sB = s.sB := rfl
@[simp] theorem setCluster_ports (c : Nat) (v : Cluster) : (setCluster s c v).ports = s.ports := rfl
@[simp] theorem setCluster_keys (c : Nat) (v : Cluster) : (setCluster s c v).keys = s.keys := rfl
@[simp] theorem setCluster_queues (c : Nat) (v : Cluster) : (setCluster s c v).queues = s.queues := rfl
@[simp] theorem setCluster_fw (c : Nat) (v : Cluster) : (setCluster s c v).fw = s.fw := rfl
@[simp] theorem setCluster_portData (c : Nat) (v : Cluster) : (setCluster s c v).portData = s.portData := rfl
@[simp] theorem setCluster_signals (c : Nat) (v : Cluster) : (setCluster s c v).signals = s.signals := rfl
@[simp] theorem setCluster_launches (c : Nat) (v : Cluster) : (setCluster s c v).launches = s.launches := rfl
@[simp] theorem setCluster_teams (c : Nat) (v : Cluster) : (setCluster s c v).teams = s.teams := rfl
@[simp] theorem setCluster_ops (c : Nat) (v : Cluster) : (setCluster s c v).ops = s.ops := rfl
@[simp] theorem setCluster_qrys (c : Nat) (v : Cluster) : (setCluster s c v).qrys = s.qrys := rfl
@[simp] theorem setCluster_invals (c : Nat) (v : Cluster) : (setCluster s c v).invals = s.invals := rfl
@[simp] theorem setCluster_events (c : Nat) (v : Cluster) : (setCluster s c v).events = s.events := rfl
@[simp] theorem setCluster_nextId (c : Nat) (v : Cluster) : (setCluster s c v).nextId = s.nextId := rfl
@[simp] theorem setCluster_issue (c : Nat) (v : Cluster) : (setCluster s c v).issue = s.issue := rfl
@[simp] theorem setCluster_agenda (c : Nat) (v : Cluster) : (setCluster s c v).agenda = s.agenda := rfl
@[simp] theorem setCluster_fresh (c : Nat) (v : Cluster) : (setCluster s c v).fresh = s.fresh := rfl
@[simp] theorem setCluster_nextQueue (c : Nat) (v : Cluster) : (setCluster s c v).nextQueue = s.nextQueue := rfl

/-! `setDie` -/

@[simp] theorem setDie_mem (d : Nat) (v : Die) : (setDie s d v).mem = s.mem := rfl
@[simp] theorem setDie_host (d : Nat) (v : Die) : (setDie s d v).host = s.host := rfl
@[simp] theorem setDie_late (d : Nat) (v : Die) : (setDie s d v).late = s.late := rfl
@[simp] theorem setDie_made (d : Nat) (v : Die) : (setDie s d v).made = s.made := rfl
@[simp] theorem setDie_taken (d : Nat) (v : Die) : (setDie s d v).taken = s.taken := rfl
@[simp] theorem setDie_code (d : Nat) (v : Die) : (setDie s d v).code = s.code := rfl
@[simp] theorem setDie_flights (d : Nat) (v : Die) : (setDie s d v).flights = s.flights := rfl
@[simp] theorem setDie_starts (d : Nat) (v : Die) : (setDie s d v).starts = s.starts := rfl
@[simp] theorem setDie_cores (d : Nat) (v : Die) : (setDie s d v).cores = s.cores := rfl
@[simp] theorem setDie_clusters (d : Nat) (v : Die) : (setDie s d v).clusters = s.clusters := rfl
@[simp] theorem setDie_sbs (d : Nat) (v : Die) : (setDie s d v).sbs = s.sbs := rfl
@[simp] theorem setDie_links (d : Nat) (v : Die) : (setDie s d v).links = s.links := rfl
@[simp] theorem setDie_widths (d : Nat) (v : Die) : (setDie s d v).widths = s.widths := rfl
@[simp] theorem setDie_managers (d : Nat) (v : Die) : (setDie s d v).managers = s.managers := rfl
@[simp] theorem setDie_hdB (d : Nat) (v : Die) : (setDie s d v).hdB = s.hdB := rfl
@[simp] theorem setDie_phase (d : Nat) (v : Die) : (setDie s d v).phase = s.phase := rfl
@[simp] theorem setDie_count0 (d : Nat) (v : Die) : (setDie s d v).count0 = s.count0 := rfl
@[simp] theorem setDie_count1 (d : Nat) (v : Die) : (setDie s d v).count1 = s.count1 := rfl
@[simp] theorem setDie_count2 (d : Nat) (v : Die) : (setDie s d v).count2 = s.count2 := rfl
@[simp] theorem setDie_count3 (d : Nat) (v : Die) : (setDie s d v).count3 = s.count3 := rfl
@[simp] theorem setDie_countHost (d : Nat) (v : Die) : (setDie s d v).countHost = s.countHost := rfl
@[simp] theorem setDie_countByte (d : Nat) (v : Die) : (setDie s d v).countByte = s.countByte := rfl
@[simp] theorem setDie_countPeer (d : Nat) (v : Die) : (setDie s d v).countPeer = s.countPeer := rfl
@[simp] theorem setDie_itab (d : Nat) (v : Die) : (setDie s d v).itab = s.itab := rfl
@[simp] theorem setDie_locked (d : Nat) (v : Die) : (setDie s d v).locked = s.locked := rfl
@[simp] theorem setDie_hT (d : Nat) (v : Die) : (setDie s d v).hT = s.hT := rfl
@[simp] theorem setDie_hB (d : Nat) (v : Die) : (setDie s d v).hB = s.hB := rfl
@[simp] theorem setDie_sT (d : Nat) (v : Die) : (setDie s d v).sT = s.sT := rfl
@[simp] theorem setDie_sB (d : Nat) (v : Die) : (setDie s d v).sB = s.sB := rfl
@[simp] theorem setDie_ports (d : Nat) (v : Die) : (setDie s d v).ports = s.ports := rfl
@[simp] theorem setDie_keys (d : Nat) (v : Die) : (setDie s d v).keys = s.keys := rfl
@[simp] theorem setDie_queues (d : Nat) (v : Die) : (setDie s d v).queues = s.queues := rfl
@[simp] theorem setDie_fw (d : Nat) (v : Die) : (setDie s d v).fw = s.fw := rfl
@[simp] theorem setDie_portData (d : Nat) (v : Die) : (setDie s d v).portData = s.portData := rfl
@[simp] theorem setDie_signals (d : Nat) (v : Die) : (setDie s d v).signals = s.signals := rfl
@[simp] theorem setDie_launches (d : Nat) (v : Die) : (setDie s d v).launches = s.launches := rfl
@[simp] theorem setDie_teams (d : Nat) (v : Die) : (setDie s d v).teams = s.teams := rfl
@[simp] theorem setDie_ops (d : Nat) (v : Die) : (setDie s d v).ops = s.ops := rfl
@[simp] theorem setDie_qrys (d : Nat) (v : Die) : (setDie s d v).qrys = s.qrys := rfl
@[simp] theorem setDie_invals (d : Nat) (v : Die) : (setDie s d v).invals = s.invals := rfl
@[simp] theorem setDie_events (d : Nat) (v : Die) : (setDie s d v).events = s.events := rfl
@[simp] theorem setDie_nextId (d : Nat) (v : Die) : (setDie s d v).nextId = s.nextId := rfl
@[simp] theorem setDie_issue (d : Nat) (v : Die) : (setDie s d v).issue = s.issue := rfl
@[simp] theorem setDie_agenda (d : Nat) (v : Die) : (setDie s d v).agenda = s.agenda := rfl
@[simp] theorem setDie_fresh (d : Nat) (v : Die) : (setDie s d v).fresh = s.fresh := rfl
@[simp] theorem setDie_nextQueue (d : Nat) (v : Die) : (setDie s d v).nextQueue = s.nextQueue := rfl

/-! `setStack` -/

@[simp] theorem setStack_mem (h : Nat) (v : Stack) : (setStack s h v).mem = s.mem := rfl
@[simp] theorem setStack_host (h : Nat) (v : Stack) : (setStack s h v).host = s.host := rfl
@[simp] theorem setStack_late (h : Nat) (v : Stack) : (setStack s h v).late = s.late := rfl
@[simp] theorem setStack_made (h : Nat) (v : Stack) : (setStack s h v).made = s.made := rfl
@[simp] theorem setStack_taken (h : Nat) (v : Stack) : (setStack s h v).taken = s.taken := rfl
@[simp] theorem setStack_code (h : Nat) (v : Stack) : (setStack s h v).code = s.code := rfl
@[simp] theorem setStack_flights (h : Nat) (v : Stack) : (setStack s h v).flights = s.flights := rfl
@[simp] theorem setStack_starts (h : Nat) (v : Stack) : (setStack s h v).starts = s.starts := rfl
@[simp] theorem setStack_cores (h : Nat) (v : Stack) : (setStack s h v).cores = s.cores := rfl
@[simp] theorem setStack_clusters (h : Nat) (v : Stack) : (setStack s h v).clusters = s.clusters := rfl
@[simp] theorem setStack_dies (h : Nat) (v : Stack) : (setStack s h v).dies = s.dies := rfl
@[simp] theorem setStack_links (h : Nat) (v : Stack) : (setStack s h v).links = s.links := rfl
@[simp] theorem setStack_widths (h : Nat) (v : Stack) : (setStack s h v).widths = s.widths := rfl
@[simp] theorem setStack_managers (h : Nat) (v : Stack) : (setStack s h v).managers = s.managers := rfl
@[simp] theorem setStack_hdB (h : Nat) (v : Stack) : (setStack s h v).hdB = s.hdB := rfl
@[simp] theorem setStack_phase (h : Nat) (v : Stack) : (setStack s h v).phase = s.phase := rfl
@[simp] theorem setStack_count0 (h : Nat) (v : Stack) : (setStack s h v).count0 = s.count0 := rfl
@[simp] theorem setStack_count1 (h : Nat) (v : Stack) : (setStack s h v).count1 = s.count1 := rfl
@[simp] theorem setStack_count2 (h : Nat) (v : Stack) : (setStack s h v).count2 = s.count2 := rfl
@[simp] theorem setStack_count3 (h : Nat) (v : Stack) : (setStack s h v).count3 = s.count3 := rfl
@[simp] theorem setStack_countHost (h : Nat) (v : Stack) : (setStack s h v).countHost = s.countHost := rfl
@[simp] theorem setStack_countByte (h : Nat) (v : Stack) : (setStack s h v).countByte = s.countByte := rfl
@[simp] theorem setStack_countPeer (h : Nat) (v : Stack) : (setStack s h v).countPeer = s.countPeer := rfl
@[simp] theorem setStack_itab (h : Nat) (v : Stack) : (setStack s h v).itab = s.itab := rfl
@[simp] theorem setStack_locked (h : Nat) (v : Stack) : (setStack s h v).locked = s.locked := rfl
@[simp] theorem setStack_hT (h : Nat) (v : Stack) : (setStack s h v).hT = s.hT := rfl
@[simp] theorem setStack_hB (h : Nat) (v : Stack) : (setStack s h v).hB = s.hB := rfl
@[simp] theorem setStack_sT (h : Nat) (v : Stack) : (setStack s h v).sT = s.sT := rfl
@[simp] theorem setStack_sB (h : Nat) (v : Stack) : (setStack s h v).sB = s.sB := rfl
@[simp] theorem setStack_ports (h : Nat) (v : Stack) : (setStack s h v).ports = s.ports := rfl
@[simp] theorem setStack_keys (h : Nat) (v : Stack) : (setStack s h v).keys = s.keys := rfl
@[simp] theorem setStack_queues (h : Nat) (v : Stack) : (setStack s h v).queues = s.queues := rfl
@[simp] theorem setStack_fw (h : Nat) (v : Stack) : (setStack s h v).fw = s.fw := rfl
@[simp] theorem setStack_portData (h : Nat) (v : Stack) : (setStack s h v).portData = s.portData := rfl
@[simp] theorem setStack_signals (h : Nat) (v : Stack) : (setStack s h v).signals = s.signals := rfl
@[simp] theorem setStack_launches (h : Nat) (v : Stack) : (setStack s h v).launches = s.launches := rfl
@[simp] theorem setStack_teams (h : Nat) (v : Stack) : (setStack s h v).teams = s.teams := rfl
@[simp] theorem setStack_ops (h : Nat) (v : Stack) : (setStack s h v).ops = s.ops := rfl
@[simp] theorem setStack_qrys (h : Nat) (v : Stack) : (setStack s h v).qrys = s.qrys := rfl
@[simp] theorem setStack_invals (h : Nat) (v : Stack) : (setStack s h v).invals = s.invals := rfl
@[simp] theorem setStack_events (h : Nat) (v : Stack) : (setStack s h v).events = s.events := rfl
@[simp] theorem setStack_nextId (h : Nat) (v : Stack) : (setStack s h v).nextId = s.nextId := rfl
@[simp] theorem setStack_issue (h : Nat) (v : Stack) : (setStack s h v).issue = s.issue := rfl
@[simp] theorem setStack_agenda (h : Nat) (v : Stack) : (setStack s h v).agenda = s.agenda := rfl
@[simp] theorem setStack_fresh (h : Nat) (v : Stack) : (setStack s h v).fresh = s.fresh := rfl
@[simp] theorem setStack_nextQueue (h : Nat) (v : Stack) : (setStack s h v).nextQueue = s.nextQueue := rfl

/-! `setPort` -/

@[simp] theorem setPort_mem (p : Nat) (v : Port) : (setPort s p v).mem = s.mem := rfl
@[simp] theorem setPort_host (p : Nat) (v : Port) : (setPort s p v).host = s.host := rfl
@[simp] theorem setPort_late (p : Nat) (v : Port) : (setPort s p v).late = s.late := rfl
@[simp] theorem setPort_made (p : Nat) (v : Port) : (setPort s p v).made = s.made := rfl
@[simp] theorem setPort_taken (p : Nat) (v : Port) : (setPort s p v).taken = s.taken := rfl
@[simp] theorem setPort_code (p : Nat) (v : Port) : (setPort s p v).code = s.code := rfl
@[simp] theorem setPort_flights (p : Nat) (v : Port) : (setPort s p v).flights = s.flights := rfl
@[simp] theorem setPort_starts (p : Nat) (v : Port) : (setPort s p v).starts = s.starts := rfl
@[simp] theorem setPort_cores (p : Nat) (v : Port) : (setPort s p v).cores = s.cores := rfl
@[simp] theorem setPort_clusters (p : Nat) (v : Port) : (setPort s p v).clusters = s.clusters := rfl
@[simp] theorem setPort_dies (p : Nat) (v : Port) : (setPort s p v).dies = s.dies := rfl
@[simp] theorem setPort_sbs (p : Nat) (v : Port) : (setPort s p v).sbs = s.sbs := rfl
@[simp] theorem setPort_links (p : Nat) (v : Port) : (setPort s p v).links = s.links := rfl
@[simp] theorem setPort_widths (p : Nat) (v : Port) : (setPort s p v).widths = s.widths := rfl
@[simp] theorem setPort_managers (p : Nat) (v : Port) : (setPort s p v).managers = s.managers := rfl
@[simp] theorem setPort_hdB (p : Nat) (v : Port) : (setPort s p v).hdB = s.hdB := rfl
@[simp] theorem setPort_phase (p : Nat) (v : Port) : (setPort s p v).phase = s.phase := rfl
@[simp] theorem setPort_count0 (p : Nat) (v : Port) : (setPort s p v).count0 = s.count0 := rfl
@[simp] theorem setPort_count1 (p : Nat) (v : Port) : (setPort s p v).count1 = s.count1 := rfl
@[simp] theorem setPort_count2 (p : Nat) (v : Port) : (setPort s p v).count2 = s.count2 := rfl
@[simp] theorem setPort_count3 (p : Nat) (v : Port) : (setPort s p v).count3 = s.count3 := rfl
@[simp] theorem setPort_countHost (p : Nat) (v : Port) : (setPort s p v).countHost = s.countHost := rfl
@[simp] theorem setPort_countByte (p : Nat) (v : Port) : (setPort s p v).countByte = s.countByte := rfl
@[simp] theorem setPort_countPeer (p : Nat) (v : Port) : (setPort s p v).countPeer = s.countPeer := rfl
@[simp] theorem setPort_itab (p : Nat) (v : Port) : (setPort s p v).itab = s.itab := rfl
@[simp] theorem setPort_locked (p : Nat) (v : Port) : (setPort s p v).locked = s.locked := rfl
@[simp] theorem setPort_hT (p : Nat) (v : Port) : (setPort s p v).hT = s.hT := rfl
@[simp] theorem setPort_hB (p : Nat) (v : Port) : (setPort s p v).hB = s.hB := rfl
@[simp] theorem setPort_sT (p : Nat) (v : Port) : (setPort s p v).sT = s.sT := rfl
@[simp] theorem setPort_sB (p : Nat) (v : Port) : (setPort s p v).sB = s.sB := rfl
@[simp] theorem setPort_keys (p : Nat) (v : Port) : (setPort s p v).keys = s.keys := rfl
@[simp] theorem setPort_queues (p : Nat) (v : Port) : (setPort s p v).queues = s.queues := rfl
@[simp] theorem setPort_fw (p : Nat) (v : Port) : (setPort s p v).fw = s.fw := rfl
@[simp] theorem setPort_portData (p : Nat) (v : Port) : (setPort s p v).portData = s.portData := rfl
@[simp] theorem setPort_signals (p : Nat) (v : Port) : (setPort s p v).signals = s.signals := rfl
@[simp] theorem setPort_launches (p : Nat) (v : Port) : (setPort s p v).launches = s.launches := rfl
@[simp] theorem setPort_teams (p : Nat) (v : Port) : (setPort s p v).teams = s.teams := rfl
@[simp] theorem setPort_ops (p : Nat) (v : Port) : (setPort s p v).ops = s.ops := rfl
@[simp] theorem setPort_qrys (p : Nat) (v : Port) : (setPort s p v).qrys = s.qrys := rfl
@[simp] theorem setPort_invals (p : Nat) (v : Port) : (setPort s p v).invals = s.invals := rfl
@[simp] theorem setPort_events (p : Nat) (v : Port) : (setPort s p v).events = s.events := rfl
@[simp] theorem setPort_nextId (p : Nat) (v : Port) : (setPort s p v).nextId = s.nextId := rfl
@[simp] theorem setPort_issue (p : Nat) (v : Port) : (setPort s p v).issue = s.issue := rfl
@[simp] theorem setPort_agenda (p : Nat) (v : Port) : (setPort s p v).agenda = s.agenda := rfl
@[simp] theorem setPort_fresh (p : Nat) (v : Port) : (setPort s p v).fresh = s.fresh := rfl
@[simp] theorem setPort_nextQueue (p : Nat) (v : Port) : (setPort s p v).nextQueue = s.nextQueue := rfl

/-! `setManager` -/

@[simp] theorem setManager_mem (n : Nat) (v : Manager) : (setManager s n v).mem = s.mem := rfl
@[simp] theorem setManager_host (n : Nat) (v : Manager) : (setManager s n v).host = s.host := rfl
@[simp] theorem setManager_late (n : Nat) (v : Manager) : (setManager s n v).late = s.late := rfl
@[simp] theorem setManager_made (n : Nat) (v : Manager) : (setManager s n v).made = s.made := rfl
@[simp] theorem setManager_taken (n : Nat) (v : Manager) : (setManager s n v).taken = s.taken := rfl
@[simp] theorem setManager_code (n : Nat) (v : Manager) : (setManager s n v).code = s.code := rfl
@[simp] theorem setManager_flights (n : Nat) (v : Manager) : (setManager s n v).flights = s.flights := rfl
@[simp] theorem setManager_starts (n : Nat) (v : Manager) : (setManager s n v).starts = s.starts := rfl
@[simp] theorem setManager_cores (n : Nat) (v : Manager) : (setManager s n v).cores = s.cores := rfl
@[simp] theorem setManager_clusters (n : Nat) (v : Manager) : (setManager s n v).clusters = s.clusters := rfl
@[simp] theorem setManager_dies (n : Nat) (v : Manager) : (setManager s n v).dies = s.dies := rfl
@[simp] theorem setManager_sbs (n : Nat) (v : Manager) : (setManager s n v).sbs = s.sbs := rfl
@[simp] theorem setManager_links (n : Nat) (v : Manager) : (setManager s n v).links = s.links := rfl
@[simp] theorem setManager_widths (n : Nat) (v : Manager) : (setManager s n v).widths = s.widths := rfl
@[simp] theorem setManager_hdB (n : Nat) (v : Manager) : (setManager s n v).hdB = s.hdB := rfl
@[simp] theorem setManager_phase (n : Nat) (v : Manager) : (setManager s n v).phase = s.phase := rfl
@[simp] theorem setManager_count0 (n : Nat) (v : Manager) : (setManager s n v).count0 = s.count0 := rfl
@[simp] theorem setManager_count1 (n : Nat) (v : Manager) : (setManager s n v).count1 = s.count1 := rfl
@[simp] theorem setManager_count2 (n : Nat) (v : Manager) : (setManager s n v).count2 = s.count2 := rfl
@[simp] theorem setManager_count3 (n : Nat) (v : Manager) : (setManager s n v).count3 = s.count3 := rfl
@[simp] theorem setManager_countHost (n : Nat) (v : Manager) : (setManager s n v).countHost = s.countHost := rfl
@[simp] theorem setManager_countByte (n : Nat) (v : Manager) : (setManager s n v).countByte = s.countByte := rfl
@[simp] theorem setManager_countPeer (n : Nat) (v : Manager) : (setManager s n v).countPeer = s.countPeer := rfl
@[simp] theorem setManager_itab (n : Nat) (v : Manager) : (setManager s n v).itab = s.itab := rfl
@[simp] theorem setManager_locked (n : Nat) (v : Manager) : (setManager s n v).locked = s.locked := rfl
@[simp] theorem setManager_hT (n : Nat) (v : Manager) : (setManager s n v).hT = s.hT := rfl
@[simp] theorem setManager_hB (n : Nat) (v : Manager) : (setManager s n v).hB = s.hB := rfl
@[simp] theorem setManager_sT (n : Nat) (v : Manager) : (setManager s n v).sT = s.sT := rfl
@[simp] theorem setManager_sB (n : Nat) (v : Manager) : (setManager s n v).sB = s.sB := rfl
@[simp] theorem setManager_ports (n : Nat) (v : Manager) : (setManager s n v).ports = s.ports := rfl
@[simp] theorem setManager_keys (n : Nat) (v : Manager) : (setManager s n v).keys = s.keys := rfl
@[simp] theorem setManager_queues (n : Nat) (v : Manager) : (setManager s n v).queues = s.queues := rfl
@[simp] theorem setManager_fw (n : Nat) (v : Manager) : (setManager s n v).fw = s.fw := rfl
@[simp] theorem setManager_portData (n : Nat) (v : Manager) : (setManager s n v).portData = s.portData := rfl
@[simp] theorem setManager_signals (n : Nat) (v : Manager) : (setManager s n v).signals = s.signals := rfl
@[simp] theorem setManager_launches (n : Nat) (v : Manager) : (setManager s n v).launches = s.launches := rfl
@[simp] theorem setManager_teams (n : Nat) (v : Manager) : (setManager s n v).teams = s.teams := rfl
@[simp] theorem setManager_ops (n : Nat) (v : Manager) : (setManager s n v).ops = s.ops := rfl
@[simp] theorem setManager_qrys (n : Nat) (v : Manager) : (setManager s n v).qrys = s.qrys := rfl
@[simp] theorem setManager_invals (n : Nat) (v : Manager) : (setManager s n v).invals = s.invals := rfl
@[simp] theorem setManager_events (n : Nat) (v : Manager) : (setManager s n v).events = s.events := rfl
@[simp] theorem setManager_nextId (n : Nat) (v : Manager) : (setManager s n v).nextId = s.nextId := rfl
@[simp] theorem setManager_issue (n : Nat) (v : Manager) : (setManager s n v).issue = s.issue := rfl
@[simp] theorem setManager_agenda (n : Nat) (v : Manager) : (setManager s n v).agenda = s.agenda := rfl
@[simp] theorem setManager_fresh (n : Nat) (v : Manager) : (setManager s n v).fresh = s.fresh := rfl
@[simp] theorem setManager_nextQueue (n : Nat) (v : Manager) : (setManager s n v).nextQueue = s.nextQueue := rfl

/-! `updStack` -/

@[simp] theorem updStack_mem (h : Nat) (f : Stack → Stack) : (updStack s h f).mem = s.mem := rfl
@[simp] theorem updStack_host (h : Nat) (f : Stack → Stack) : (updStack s h f).host = s.host := rfl
@[simp] theorem updStack_late (h : Nat) (f : Stack → Stack) : (updStack s h f).late = s.late := rfl
@[simp] theorem updStack_made (h : Nat) (f : Stack → Stack) : (updStack s h f).made = s.made := rfl
@[simp] theorem updStack_taken (h : Nat) (f : Stack → Stack) : (updStack s h f).taken = s.taken := rfl
@[simp] theorem updStack_code (h : Nat) (f : Stack → Stack) : (updStack s h f).code = s.code := rfl
@[simp] theorem updStack_flights (h : Nat) (f : Stack → Stack) : (updStack s h f).flights = s.flights := rfl
@[simp] theorem updStack_starts (h : Nat) (f : Stack → Stack) : (updStack s h f).starts = s.starts := rfl
@[simp] theorem updStack_cores (h : Nat) (f : Stack → Stack) : (updStack s h f).cores = s.cores := rfl
@[simp] theorem updStack_clusters (h : Nat) (f : Stack → Stack) : (updStack s h f).clusters = s.clusters := rfl
@[simp] theorem updStack_dies (h : Nat) (f : Stack → Stack) : (updStack s h f).dies = s.dies := rfl
@[simp] theorem updStack_links (h : Nat) (f : Stack → Stack) : (updStack s h f).links = s.links := rfl
@[simp] theorem updStack_widths (h : Nat) (f : Stack → Stack) : (updStack s h f).widths = s.widths := rfl
@[simp] theorem updStack_managers (h : Nat) (f : Stack → Stack) : (updStack s h f).managers = s.managers := rfl
@[simp] theorem updStack_hdB (h : Nat) (f : Stack → Stack) : (updStack s h f).hdB = s.hdB := rfl
@[simp] theorem updStack_phase (h : Nat) (f : Stack → Stack) : (updStack s h f).phase = s.phase := rfl
@[simp] theorem updStack_count0 (h : Nat) (f : Stack → Stack) : (updStack s h f).count0 = s.count0 := rfl
@[simp] theorem updStack_count1 (h : Nat) (f : Stack → Stack) : (updStack s h f).count1 = s.count1 := rfl
@[simp] theorem updStack_count2 (h : Nat) (f : Stack → Stack) : (updStack s h f).count2 = s.count2 := rfl
@[simp] theorem updStack_count3 (h : Nat) (f : Stack → Stack) : (updStack s h f).count3 = s.count3 := rfl
@[simp] theorem updStack_countHost (h : Nat) (f : Stack → Stack) : (updStack s h f).countHost = s.countHost := rfl
@[simp] theorem updStack_countByte (h : Nat) (f : Stack → Stack) : (updStack s h f).countByte = s.countByte := rfl
@[simp] theorem updStack_countPeer (h : Nat) (f : Stack → Stack) : (updStack s h f).countPeer = s.countPeer := rfl
@[simp] theorem updStack_itab (h : Nat) (f : Stack → Stack) : (updStack s h f).itab = s.itab := rfl
@[simp] theorem updStack_locked (h : Nat) (f : Stack → Stack) : (updStack s h f).locked = s.locked := rfl
@[simp] theorem updStack_hT (h : Nat) (f : Stack → Stack) : (updStack s h f).hT = s.hT := rfl
@[simp] theorem updStack_hB (h : Nat) (f : Stack → Stack) : (updStack s h f).hB = s.hB := rfl
@[simp] theorem updStack_sT (h : Nat) (f : Stack → Stack) : (updStack s h f).sT = s.sT := rfl
@[simp] theorem updStack_sB (h : Nat) (f : Stack → Stack) : (updStack s h f).sB = s.sB := rfl
@[simp] theorem updStack_ports (h : Nat) (f : Stack → Stack) : (updStack s h f).ports = s.ports := rfl
@[simp] theorem updStack_keys (h : Nat) (f : Stack → Stack) : (updStack s h f).keys = s.keys := rfl
@[simp] theorem updStack_queues (h : Nat) (f : Stack → Stack) : (updStack s h f).queues = s.queues := rfl
@[simp] theorem updStack_fw (h : Nat) (f : Stack → Stack) : (updStack s h f).fw = s.fw := rfl
@[simp] theorem updStack_portData (h : Nat) (f : Stack → Stack) : (updStack s h f).portData = s.portData := rfl
@[simp] theorem updStack_signals (h : Nat) (f : Stack → Stack) : (updStack s h f).signals = s.signals := rfl
@[simp] theorem updStack_launches (h : Nat) (f : Stack → Stack) : (updStack s h f).launches = s.launches := rfl
@[simp] theorem updStack_teams (h : Nat) (f : Stack → Stack) : (updStack s h f).teams = s.teams := rfl
@[simp] theorem updStack_ops (h : Nat) (f : Stack → Stack) : (updStack s h f).ops = s.ops := rfl
@[simp] theorem updStack_qrys (h : Nat) (f : Stack → Stack) : (updStack s h f).qrys = s.qrys := rfl
@[simp] theorem updStack_invals (h : Nat) (f : Stack → Stack) : (updStack s h f).invals = s.invals := rfl
@[simp] theorem updStack_events (h : Nat) (f : Stack → Stack) : (updStack s h f).events = s.events := rfl
@[simp] theorem updStack_nextId (h : Nat) (f : Stack → Stack) : (updStack s h f).nextId = s.nextId := rfl
@[simp] theorem updStack_issue (h : Nat) (f : Stack → Stack) : (updStack s h f).issue = s.issue := rfl
@[simp] theorem updStack_agenda (h : Nat) (f : Stack → Stack) : (updStack s h f).agenda = s.agenda := rfl
@[simp] theorem updStack_fresh (h : Nat) (f : Stack → Stack) : (updStack s h f).fresh = s.fresh := rfl
@[simp] theorem updStack_nextQueue (h : Nat) (f : Stack → Stack) : (updStack s h f).nextQueue = s.nextQueue := rfl

/-! `setLink` -/

@[simp] theorem setLink_mem (l : Nat) (v : LinkEnd) : (setLink s l v).mem = s.mem := rfl
@[simp] theorem setLink_host (l : Nat) (v : LinkEnd) : (setLink s l v).host = s.host := rfl
@[simp] theorem setLink_late (l : Nat) (v : LinkEnd) : (setLink s l v).late = s.late := rfl
@[simp] theorem setLink_made (l : Nat) (v : LinkEnd) : (setLink s l v).made = s.made := rfl
@[simp] theorem setLink_taken (l : Nat) (v : LinkEnd) : (setLink s l v).taken = s.taken := rfl
@[simp] theorem setLink_code (l : Nat) (v : LinkEnd) : (setLink s l v).code = s.code := rfl
@[simp] theorem setLink_flights (l : Nat) (v : LinkEnd) : (setLink s l v).flights = s.flights := rfl
@[simp] theorem setLink_starts (l : Nat) (v : LinkEnd) : (setLink s l v).starts = s.starts := rfl
@[simp] theorem setLink_cores (l : Nat) (v : LinkEnd) : (setLink s l v).cores = s.cores := rfl
@[simp] theorem setLink_clusters (l : Nat) (v : LinkEnd) : (setLink s l v).clusters = s.clusters := rfl
@[simp] theorem setLink_dies (l : Nat) (v : LinkEnd) : (setLink s l v).dies = s.dies := rfl
@[simp] theorem setLink_sbs (l : Nat) (v : LinkEnd) : (setLink s l v).sbs = s.sbs := rfl
@[simp] theorem setLink_widths (l : Nat) (v : LinkEnd) : (setLink s l v).widths = s.widths := rfl
@[simp] theorem setLink_managers (l : Nat) (v : LinkEnd) : (setLink s l v).managers = s.managers := rfl
@[simp] theorem setLink_hdB (l : Nat) (v : LinkEnd) : (setLink s l v).hdB = s.hdB := rfl
@[simp] theorem setLink_phase (l : Nat) (v : LinkEnd) : (setLink s l v).phase = s.phase := rfl
@[simp] theorem setLink_count0 (l : Nat) (v : LinkEnd) : (setLink s l v).count0 = s.count0 := rfl
@[simp] theorem setLink_count1 (l : Nat) (v : LinkEnd) : (setLink s l v).count1 = s.count1 := rfl
@[simp] theorem setLink_count2 (l : Nat) (v : LinkEnd) : (setLink s l v).count2 = s.count2 := rfl
@[simp] theorem setLink_count3 (l : Nat) (v : LinkEnd) : (setLink s l v).count3 = s.count3 := rfl
@[simp] theorem setLink_countHost (l : Nat) (v : LinkEnd) : (setLink s l v).countHost = s.countHost := rfl
@[simp] theorem setLink_countByte (l : Nat) (v : LinkEnd) : (setLink s l v).countByte = s.countByte := rfl
@[simp] theorem setLink_countPeer (l : Nat) (v : LinkEnd) : (setLink s l v).countPeer = s.countPeer := rfl
@[simp] theorem setLink_itab (l : Nat) (v : LinkEnd) : (setLink s l v).itab = s.itab := rfl
@[simp] theorem setLink_locked (l : Nat) (v : LinkEnd) : (setLink s l v).locked = s.locked := rfl
@[simp] theorem setLink_hT (l : Nat) (v : LinkEnd) : (setLink s l v).hT = s.hT := rfl
@[simp] theorem setLink_hB (l : Nat) (v : LinkEnd) : (setLink s l v).hB = s.hB := rfl
@[simp] theorem setLink_sT (l : Nat) (v : LinkEnd) : (setLink s l v).sT = s.sT := rfl
@[simp] theorem setLink_sB (l : Nat) (v : LinkEnd) : (setLink s l v).sB = s.sB := rfl
@[simp] theorem setLink_ports (l : Nat) (v : LinkEnd) : (setLink s l v).ports = s.ports := rfl
@[simp] theorem setLink_keys (l : Nat) (v : LinkEnd) : (setLink s l v).keys = s.keys := rfl
@[simp] theorem setLink_queues (l : Nat) (v : LinkEnd) : (setLink s l v).queues = s.queues := rfl
@[simp] theorem setLink_fw (l : Nat) (v : LinkEnd) : (setLink s l v).fw = s.fw := rfl
@[simp] theorem setLink_portData (l : Nat) (v : LinkEnd) : (setLink s l v).portData = s.portData := rfl
@[simp] theorem setLink_signals (l : Nat) (v : LinkEnd) : (setLink s l v).signals = s.signals := rfl
@[simp] theorem setLink_launches (l : Nat) (v : LinkEnd) : (setLink s l v).launches = s.launches := rfl
@[simp] theorem setLink_teams (l : Nat) (v : LinkEnd) : (setLink s l v).teams = s.teams := rfl
@[simp] theorem setLink_ops (l : Nat) (v : LinkEnd) : (setLink s l v).ops = s.ops := rfl
@[simp] theorem setLink_qrys (l : Nat) (v : LinkEnd) : (setLink s l v).qrys = s.qrys := rfl
@[simp] theorem setLink_invals (l : Nat) (v : LinkEnd) : (setLink s l v).invals = s.invals := rfl
@[simp] theorem setLink_events (l : Nat) (v : LinkEnd) : (setLink s l v).events = s.events := rfl
@[simp] theorem setLink_nextId (l : Nat) (v : LinkEnd) : (setLink s l v).nextId = s.nextId := rfl
@[simp] theorem setLink_issue (l : Nat) (v : LinkEnd) : (setLink s l v).issue = s.issue := rfl
@[simp] theorem setLink_agenda (l : Nat) (v : LinkEnd) : (setLink s l v).agenda = s.agenda := rfl
@[simp] theorem setLink_fresh (l : Nat) (v : LinkEnd) : (setLink s l v).fresh = s.fresh := rfl
@[simp] theorem setLink_nextQueue (l : Nat) (v : LinkEnd) : (setLink s l v).nextQueue = s.nextQueue := rfl

/-! `setGroup` -/

@[simp] theorem setGroup_mem (core ctx : Nat) (g : Group) : (setGroup s core ctx g).mem = s.mem := rfl
@[simp] theorem setGroup_host (core ctx : Nat) (g : Group) : (setGroup s core ctx g).host = s.host := rfl
@[simp] theorem setGroup_late (core ctx : Nat) (g : Group) : (setGroup s core ctx g).late = s.late := rfl
@[simp] theorem setGroup_made (core ctx : Nat) (g : Group) : (setGroup s core ctx g).made = s.made := rfl
@[simp] theorem setGroup_taken (core ctx : Nat) (g : Group) : (setGroup s core ctx g).taken = s.taken := rfl
@[simp] theorem setGroup_code (core ctx : Nat) (g : Group) : (setGroup s core ctx g).code = s.code := rfl
@[simp] theorem setGroup_flights (core ctx : Nat) (g : Group) : (setGroup s core ctx g).flights = s.flights := rfl
@[simp] theorem setGroup_starts (core ctx : Nat) (g : Group) : (setGroup s core ctx g).starts = s.starts := rfl
@[simp] theorem setGroup_clusters (core ctx : Nat) (g : Group) : (setGroup s core ctx g).clusters = s.clusters := rfl
@[simp] theorem setGroup_dies (core ctx : Nat) (g : Group) : (setGroup s core ctx g).dies = s.dies := rfl
@[simp] theorem setGroup_sbs (core ctx : Nat) (g : Group) : (setGroup s core ctx g).sbs = s.sbs := rfl
@[simp] theorem setGroup_links (core ctx : Nat) (g : Group) : (setGroup s core ctx g).links = s.links := rfl
@[simp] theorem setGroup_widths (core ctx : Nat) (g : Group) : (setGroup s core ctx g).widths = s.widths := rfl
@[simp] theorem setGroup_managers (core ctx : Nat) (g : Group) : (setGroup s core ctx g).managers = s.managers := rfl
@[simp] theorem setGroup_hdB (core ctx : Nat) (g : Group) : (setGroup s core ctx g).hdB = s.hdB := rfl
@[simp] theorem setGroup_phase (core ctx : Nat) (g : Group) : (setGroup s core ctx g).phase = s.phase := rfl
@[simp] theorem setGroup_count0 (core ctx : Nat) (g : Group) : (setGroup s core ctx g).count0 = s.count0 := rfl
@[simp] theorem setGroup_count1 (core ctx : Nat) (g : Group) : (setGroup s core ctx g).count1 = s.count1 := rfl
@[simp] theorem setGroup_count2 (core ctx : Nat) (g : Group) : (setGroup s core ctx g).count2 = s.count2 := rfl
@[simp] theorem setGroup_count3 (core ctx : Nat) (g : Group) : (setGroup s core ctx g).count3 = s.count3 := rfl
@[simp] theorem setGroup_countHost (core ctx : Nat) (g : Group) : (setGroup s core ctx g).countHost = s.countHost := rfl
@[simp] theorem setGroup_countByte (core ctx : Nat) (g : Group) : (setGroup s core ctx g).countByte = s.countByte := rfl
@[simp] theorem setGroup_countPeer (core ctx : Nat) (g : Group) : (setGroup s core ctx g).countPeer = s.countPeer := rfl
@[simp] theorem setGroup_itab (core ctx : Nat) (g : Group) : (setGroup s core ctx g).itab = s.itab := rfl
@[simp] theorem setGroup_locked (core ctx : Nat) (g : Group) : (setGroup s core ctx g).locked = s.locked := rfl
@[simp] theorem setGroup_hT (core ctx : Nat) (g : Group) : (setGroup s core ctx g).hT = s.hT := rfl
@[simp] theorem setGroup_hB (core ctx : Nat) (g : Group) : (setGroup s core ctx g).hB = s.hB := rfl
@[simp] theorem setGroup_sT (core ctx : Nat) (g : Group) : (setGroup s core ctx g).sT = s.sT := rfl
@[simp] theorem setGroup_sB (core ctx : Nat) (g : Group) : (setGroup s core ctx g).sB = s.sB := rfl
@[simp] theorem setGroup_ports (core ctx : Nat) (g : Group) : (setGroup s core ctx g).ports = s.ports := rfl
@[simp] theorem setGroup_keys (core ctx : Nat) (g : Group) : (setGroup s core ctx g).keys = s.keys := rfl
@[simp] theorem setGroup_queues (core ctx : Nat) (g : Group) : (setGroup s core ctx g).queues = s.queues := rfl
@[simp] theorem setGroup_fw (core ctx : Nat) (g : Group) : (setGroup s core ctx g).fw = s.fw := rfl
@[simp] theorem setGroup_portData (core ctx : Nat) (g : Group) : (setGroup s core ctx g).portData = s.portData := rfl
@[simp] theorem setGroup_signals (core ctx : Nat) (g : Group) : (setGroup s core ctx g).signals = s.signals := rfl
@[simp] theorem setGroup_launches (core ctx : Nat) (g : Group) : (setGroup s core ctx g).launches = s.launches := rfl
@[simp] theorem setGroup_teams (core ctx : Nat) (g : Group) : (setGroup s core ctx g).teams = s.teams := rfl
@[simp] theorem setGroup_ops (core ctx : Nat) (g : Group) : (setGroup s core ctx g).ops = s.ops := rfl
@[simp] theorem setGroup_qrys (core ctx : Nat) (g : Group) : (setGroup s core ctx g).qrys = s.qrys := rfl
@[simp] theorem setGroup_invals (core ctx : Nat) (g : Group) : (setGroup s core ctx g).invals = s.invals := rfl
@[simp] theorem setGroup_events (core ctx : Nat) (g : Group) : (setGroup s core ctx g).events = s.events := rfl
@[simp] theorem setGroup_nextId (core ctx : Nat) (g : Group) : (setGroup s core ctx g).nextId = s.nextId := rfl
@[simp] theorem setGroup_issue (core ctx : Nat) (g : Group) : (setGroup s core ctx g).issue = s.issue := rfl
@[simp] theorem setGroup_agenda (core ctx : Nat) (g : Group) : (setGroup s core ctx g).agenda = s.agenda := rfl
@[simp] theorem setGroup_fresh (core ctx : Nat) (g : Group) : (setGroup s core ctx g).fresh = s.fresh := rfl
@[simp] theorem setGroup_nextQueue (core ctx : Nat) (g : Group) : (setGroup s core ctx g).nextQueue = s.nextQueue := rfl

/-! `setRange` -/

@[simp] theorem setRange_mem (core e : Nat) (r : Range) : (setRange s core e r).mem = s.mem := rfl
@[simp] theorem setRange_host (core e : Nat) (r : Range) : (setRange s core e r).host = s.host := rfl
@[simp] theorem setRange_late (core e : Nat) (r : Range) : (setRange s core e r).late = s.late := rfl
@[simp] theorem setRange_made (core e : Nat) (r : Range) : (setRange s core e r).made = s.made := rfl
@[simp] theorem setRange_taken (core e : Nat) (r : Range) : (setRange s core e r).taken = s.taken := rfl
@[simp] theorem setRange_code (core e : Nat) (r : Range) : (setRange s core e r).code = s.code := rfl
@[simp] theorem setRange_flights (core e : Nat) (r : Range) : (setRange s core e r).flights = s.flights := rfl
@[simp] theorem setRange_starts (core e : Nat) (r : Range) : (setRange s core e r).starts = s.starts := rfl
@[simp] theorem setRange_clusters (core e : Nat) (r : Range) : (setRange s core e r).clusters = s.clusters := rfl
@[simp] theorem setRange_dies (core e : Nat) (r : Range) : (setRange s core e r).dies = s.dies := rfl
@[simp] theorem setRange_sbs (core e : Nat) (r : Range) : (setRange s core e r).sbs = s.sbs := rfl
@[simp] theorem setRange_links (core e : Nat) (r : Range) : (setRange s core e r).links = s.links := rfl
@[simp] theorem setRange_widths (core e : Nat) (r : Range) : (setRange s core e r).widths = s.widths := rfl
@[simp] theorem setRange_managers (core e : Nat) (r : Range) : (setRange s core e r).managers = s.managers := rfl
@[simp] theorem setRange_hdB (core e : Nat) (r : Range) : (setRange s core e r).hdB = s.hdB := rfl
@[simp] theorem setRange_phase (core e : Nat) (r : Range) : (setRange s core e r).phase = s.phase := rfl
@[simp] theorem setRange_count0 (core e : Nat) (r : Range) : (setRange s core e r).count0 = s.count0 := rfl
@[simp] theorem setRange_count1 (core e : Nat) (r : Range) : (setRange s core e r).count1 = s.count1 := rfl
@[simp] theorem setRange_count2 (core e : Nat) (r : Range) : (setRange s core e r).count2 = s.count2 := rfl
@[simp] theorem setRange_count3 (core e : Nat) (r : Range) : (setRange s core e r).count3 = s.count3 := rfl
@[simp] theorem setRange_countHost (core e : Nat) (r : Range) : (setRange s core e r).countHost = s.countHost := rfl
@[simp] theorem setRange_countByte (core e : Nat) (r : Range) : (setRange s core e r).countByte = s.countByte := rfl
@[simp] theorem setRange_countPeer (core e : Nat) (r : Range) : (setRange s core e r).countPeer = s.countPeer := rfl
@[simp] theorem setRange_itab (core e : Nat) (r : Range) : (setRange s core e r).itab = s.itab := rfl
@[simp] theorem setRange_locked (core e : Nat) (r : Range) : (setRange s core e r).locked = s.locked := rfl
@[simp] theorem setRange_hT (core e : Nat) (r : Range) : (setRange s core e r).hT = s.hT := rfl
@[simp] theorem setRange_hB (core e : Nat) (r : Range) : (setRange s core e r).hB = s.hB := rfl
@[simp] theorem setRange_sT (core e : Nat) (r : Range) : (setRange s core e r).sT = s.sT := rfl
@[simp] theorem setRange_sB (core e : Nat) (r : Range) : (setRange s core e r).sB = s.sB := rfl
@[simp] theorem setRange_ports (core e : Nat) (r : Range) : (setRange s core e r).ports = s.ports := rfl
@[simp] theorem setRange_keys (core e : Nat) (r : Range) : (setRange s core e r).keys = s.keys := rfl
@[simp] theorem setRange_queues (core e : Nat) (r : Range) : (setRange s core e r).queues = s.queues := rfl
@[simp] theorem setRange_fw (core e : Nat) (r : Range) : (setRange s core e r).fw = s.fw := rfl
@[simp] theorem setRange_portData (core e : Nat) (r : Range) : (setRange s core e r).portData = s.portData := rfl
@[simp] theorem setRange_signals (core e : Nat) (r : Range) : (setRange s core e r).signals = s.signals := rfl
@[simp] theorem setRange_launches (core e : Nat) (r : Range) : (setRange s core e r).launches = s.launches := rfl
@[simp] theorem setRange_teams (core e : Nat) (r : Range) : (setRange s core e r).teams = s.teams := rfl
@[simp] theorem setRange_ops (core e : Nat) (r : Range) : (setRange s core e r).ops = s.ops := rfl
@[simp] theorem setRange_qrys (core e : Nat) (r : Range) : (setRange s core e r).qrys = s.qrys := rfl
@[simp] theorem setRange_invals (core e : Nat) (r : Range) : (setRange s core e r).invals = s.invals := rfl
@[simp] theorem setRange_events (core e : Nat) (r : Range) : (setRange s core e r).events = s.events := rfl
@[simp] theorem setRange_nextId (core e : Nat) (r : Range) : (setRange s core e r).nextId = s.nextId := rfl
@[simp] theorem setRange_issue (core e : Nat) (r : Range) : (setRange s core e r).issue = s.issue := rfl
@[simp] theorem setRange_agenda (core e : Nat) (r : Range) : (setRange s core e r).agenda = s.agenda := rfl
@[simp] theorem setRange_fresh (core e : Nat) (r : Range) : (setRange s core e r).fresh = s.fresh := rfl
@[simp] theorem setRange_nextQueue (core e : Nat) (r : Range) : (setRange s core e r).nextQueue = s.nextQueue := rfl

/-! `updCore` -/

@[simp] theorem updCore_mem (c : Nat) (f : Core → Core) : (updCore s c f).mem = s.mem := rfl
@[simp] theorem updCore_host (c : Nat) (f : Core → Core) : (updCore s c f).host = s.host := rfl
@[simp] theorem updCore_late (c : Nat) (f : Core → Core) : (updCore s c f).late = s.late := rfl
@[simp] theorem updCore_made (c : Nat) (f : Core → Core) : (updCore s c f).made = s.made := rfl
@[simp] theorem updCore_taken (c : Nat) (f : Core → Core) : (updCore s c f).taken = s.taken := rfl
@[simp] theorem updCore_code (c : Nat) (f : Core → Core) : (updCore s c f).code = s.code := rfl
@[simp] theorem updCore_flights (c : Nat) (f : Core → Core) : (updCore s c f).flights = s.flights := rfl
@[simp] theorem updCore_starts (c : Nat) (f : Core → Core) : (updCore s c f).starts = s.starts := rfl
@[simp] theorem updCore_clusters (c : Nat) (f : Core → Core) : (updCore s c f).clusters = s.clusters := rfl
@[simp] theorem updCore_dies (c : Nat) (f : Core → Core) : (updCore s c f).dies = s.dies := rfl
@[simp] theorem updCore_sbs (c : Nat) (f : Core → Core) : (updCore s c f).sbs = s.sbs := rfl
@[simp] theorem updCore_links (c : Nat) (f : Core → Core) : (updCore s c f).links = s.links := rfl
@[simp] theorem updCore_widths (c : Nat) (f : Core → Core) : (updCore s c f).widths = s.widths := rfl
@[simp] theorem updCore_managers (c : Nat) (f : Core → Core) : (updCore s c f).managers = s.managers := rfl
@[simp] theorem updCore_hdB (c : Nat) (f : Core → Core) : (updCore s c f).hdB = s.hdB := rfl
@[simp] theorem updCore_phase (c : Nat) (f : Core → Core) : (updCore s c f).phase = s.phase := rfl
@[simp] theorem updCore_count0 (c : Nat) (f : Core → Core) : (updCore s c f).count0 = s.count0 := rfl
@[simp] theorem updCore_count1 (c : Nat) (f : Core → Core) : (updCore s c f).count1 = s.count1 := rfl
@[simp] theorem updCore_count2 (c : Nat) (f : Core → Core) : (updCore s c f).count2 = s.count2 := rfl
@[simp] theorem updCore_count3 (c : Nat) (f : Core → Core) : (updCore s c f).count3 = s.count3 := rfl
@[simp] theorem updCore_countHost (c : Nat) (f : Core → Core) : (updCore s c f).countHost = s.countHost := rfl
@[simp] theorem updCore_countByte (c : Nat) (f : Core → Core) : (updCore s c f).countByte = s.countByte := rfl
@[simp] theorem updCore_countPeer (c : Nat) (f : Core → Core) : (updCore s c f).countPeer = s.countPeer := rfl
@[simp] theorem updCore_itab (c : Nat) (f : Core → Core) : (updCore s c f).itab = s.itab := rfl
@[simp] theorem updCore_locked (c : Nat) (f : Core → Core) : (updCore s c f).locked = s.locked := rfl
@[simp] theorem updCore_hT (c : Nat) (f : Core → Core) : (updCore s c f).hT = s.hT := rfl
@[simp] theorem updCore_hB (c : Nat) (f : Core → Core) : (updCore s c f).hB = s.hB := rfl
@[simp] theorem updCore_sT (c : Nat) (f : Core → Core) : (updCore s c f).sT = s.sT := rfl
@[simp] theorem updCore_sB (c : Nat) (f : Core → Core) : (updCore s c f).sB = s.sB := rfl
@[simp] theorem updCore_ports (c : Nat) (f : Core → Core) : (updCore s c f).ports = s.ports := rfl
@[simp] theorem updCore_keys (c : Nat) (f : Core → Core) : (updCore s c f).keys = s.keys := rfl
@[simp] theorem updCore_queues (c : Nat) (f : Core → Core) : (updCore s c f).queues = s.queues := rfl
@[simp] theorem updCore_fw (c : Nat) (f : Core → Core) : (updCore s c f).fw = s.fw := rfl
@[simp] theorem updCore_portData (c : Nat) (f : Core → Core) : (updCore s c f).portData = s.portData := rfl
@[simp] theorem updCore_signals (c : Nat) (f : Core → Core) : (updCore s c f).signals = s.signals := rfl
@[simp] theorem updCore_launches (c : Nat) (f : Core → Core) : (updCore s c f).launches = s.launches := rfl
@[simp] theorem updCore_teams (c : Nat) (f : Core → Core) : (updCore s c f).teams = s.teams := rfl
@[simp] theorem updCore_ops (c : Nat) (f : Core → Core) : (updCore s c f).ops = s.ops := rfl
@[simp] theorem updCore_qrys (c : Nat) (f : Core → Core) : (updCore s c f).qrys = s.qrys := rfl
@[simp] theorem updCore_invals (c : Nat) (f : Core → Core) : (updCore s c f).invals = s.invals := rfl
@[simp] theorem updCore_events (c : Nat) (f : Core → Core) : (updCore s c f).events = s.events := rfl
@[simp] theorem updCore_nextId (c : Nat) (f : Core → Core) : (updCore s c f).nextId = s.nextId := rfl
@[simp] theorem updCore_issue (c : Nat) (f : Core → Core) : (updCore s c f).issue = s.issue := rfl
@[simp] theorem updCore_agenda (c : Nat) (f : Core → Core) : (updCore s c f).agenda = s.agenda := rfl
@[simp] theorem updCore_fresh (c : Nat) (f : Core → Core) : (updCore s c f).fresh = s.fresh := rfl
@[simp] theorem updCore_nextQueue (c : Nat) (f : Core → Core) : (updCore s c f).nextQueue = s.nextQueue := rfl

/-! `updCluster` -/

@[simp] theorem updCluster_mem (c : Nat) (f : Cluster → Cluster) : (updCluster s c f).mem = s.mem := rfl
@[simp] theorem updCluster_host (c : Nat) (f : Cluster → Cluster) : (updCluster s c f).host = s.host := rfl
@[simp] theorem updCluster_late (c : Nat) (f : Cluster → Cluster) : (updCluster s c f).late = s.late := rfl
@[simp] theorem updCluster_made (c : Nat) (f : Cluster → Cluster) : (updCluster s c f).made = s.made := rfl
@[simp] theorem updCluster_taken (c : Nat) (f : Cluster → Cluster) : (updCluster s c f).taken = s.taken := rfl
@[simp] theorem updCluster_code (c : Nat) (f : Cluster → Cluster) : (updCluster s c f).code = s.code := rfl
@[simp] theorem updCluster_flights (c : Nat) (f : Cluster → Cluster) : (updCluster s c f).flights = s.flights := rfl
@[simp] theorem updCluster_starts (c : Nat) (f : Cluster → Cluster) : (updCluster s c f).starts = s.starts := rfl
@[simp] theorem updCluster_cores (c : Nat) (f : Cluster → Cluster) : (updCluster s c f).cores = s.cores := rfl
@[simp] theorem updCluster_dies (c : Nat) (f : Cluster → Cluster) : (updCluster s c f).dies = s.dies := rfl
@[simp] theorem updCluster_sbs (c : Nat) (f : Cluster → Cluster) : (updCluster s c f).sbs = s.sbs := rfl
@[simp] theorem updCluster_links (c : Nat) (f : Cluster → Cluster) : (updCluster s c f).links = s.links := rfl
@[simp] theorem updCluster_widths (c : Nat) (f : Cluster → Cluster) : (updCluster s c f).widths = s.widths := rfl
@[simp] theorem updCluster_managers (c : Nat) (f : Cluster → Cluster) : (updCluster s c f).managers = s.managers := rfl
@[simp] theorem updCluster_hdB (c : Nat) (f : Cluster → Cluster) : (updCluster s c f).hdB = s.hdB := rfl
@[simp] theorem updCluster_phase (c : Nat) (f : Cluster → Cluster) : (updCluster s c f).phase = s.phase := rfl
@[simp] theorem updCluster_count0 (c : Nat) (f : Cluster → Cluster) : (updCluster s c f).count0 = s.count0 := rfl
@[simp] theorem updCluster_count1 (c : Nat) (f : Cluster → Cluster) : (updCluster s c f).count1 = s.count1 := rfl
@[simp] theorem updCluster_count2 (c : Nat) (f : Cluster → Cluster) : (updCluster s c f).count2 = s.count2 := rfl
@[simp] theorem updCluster_count3 (c : Nat) (f : Cluster → Cluster) : (updCluster s c f).count3 = s.count3 := rfl
@[simp] theorem updCluster_countHost (c : Nat) (f : Cluster → Cluster) : (updCluster s c f).countHost = s.countHost := rfl
@[simp] theorem updCluster_countByte (c : Nat) (f : Cluster → Cluster) : (updCluster s c f).countByte = s.countByte := rfl
@[simp] theorem updCluster_countPeer (c : Nat) (f : Cluster → Cluster) : (updCluster s c f).countPeer = s.countPeer := rfl
@[simp] theorem updCluster_itab (c : Nat) (f : Cluster → Cluster) : (updCluster s c f).itab = s.itab := rfl
@[simp] theorem updCluster_locked (c : Nat) (f : Cluster → Cluster) : (updCluster s c f).locked = s.locked := rfl
@[simp] theorem updCluster_hT (c : Nat) (f : Cluster → Cluster) : (updCluster s c f).hT = s.hT := rfl
@[simp] theorem updCluster_hB (c : Nat) (f : Cluster → Cluster) : (updCluster s c f).hB = s.hB := rfl
@[simp] theorem updCluster_sT (c : Nat) (f : Cluster → Cluster) : (updCluster s c f).sT = s.sT := rfl
@[simp] theorem updCluster_sB (c : Nat) (f : Cluster → Cluster) : (updCluster s c f).sB = s.sB := rfl
@[simp] theorem updCluster_ports (c : Nat) (f : Cluster → Cluster) : (updCluster s c f).ports = s.ports := rfl
@[simp] theorem updCluster_keys (c : Nat) (f : Cluster → Cluster) : (updCluster s c f).keys = s.keys := rfl
@[simp] theorem updCluster_queues (c : Nat) (f : Cluster → Cluster) : (updCluster s c f).queues = s.queues := rfl
@[simp] theorem updCluster_fw (c : Nat) (f : Cluster → Cluster) : (updCluster s c f).fw = s.fw := rfl
@[simp] theorem updCluster_portData (c : Nat) (f : Cluster → Cluster) : (updCluster s c f).portData = s.portData := rfl
@[simp] theorem updCluster_signals (c : Nat) (f : Cluster → Cluster) : (updCluster s c f).signals = s.signals := rfl
@[simp] theorem updCluster_launches (c : Nat) (f : Cluster → Cluster) : (updCluster s c f).launches = s.launches := rfl
@[simp] theorem updCluster_teams (c : Nat) (f : Cluster → Cluster) : (updCluster s c f).teams = s.teams := rfl
@[simp] theorem updCluster_ops (c : Nat) (f : Cluster → Cluster) : (updCluster s c f).ops = s.ops := rfl
@[simp] theorem updCluster_qrys (c : Nat) (f : Cluster → Cluster) : (updCluster s c f).qrys = s.qrys := rfl
@[simp] theorem updCluster_invals (c : Nat) (f : Cluster → Cluster) : (updCluster s c f).invals = s.invals := rfl
@[simp] theorem updCluster_events (c : Nat) (f : Cluster → Cluster) : (updCluster s c f).events = s.events := rfl
@[simp] theorem updCluster_nextId (c : Nat) (f : Cluster → Cluster) : (updCluster s c f).nextId = s.nextId := rfl
@[simp] theorem updCluster_issue (c : Nat) (f : Cluster → Cluster) : (updCluster s c f).issue = s.issue := rfl
@[simp] theorem updCluster_agenda (c : Nat) (f : Cluster → Cluster) : (updCluster s c f).agenda = s.agenda := rfl
@[simp] theorem updCluster_fresh (c : Nat) (f : Cluster → Cluster) : (updCluster s c f).fresh = s.fresh := rfl
@[simp] theorem updCluster_nextQueue (c : Nat) (f : Cluster → Cluster) : (updCluster s c f).nextQueue = s.nextQueue := rfl

/-! `updDie` -/

@[simp] theorem updDie_mem (d : Nat) (f : Die → Die) : (updDie s d f).mem = s.mem := rfl
@[simp] theorem updDie_host (d : Nat) (f : Die → Die) : (updDie s d f).host = s.host := rfl
@[simp] theorem updDie_late (d : Nat) (f : Die → Die) : (updDie s d f).late = s.late := rfl
@[simp] theorem updDie_made (d : Nat) (f : Die → Die) : (updDie s d f).made = s.made := rfl
@[simp] theorem updDie_taken (d : Nat) (f : Die → Die) : (updDie s d f).taken = s.taken := rfl
@[simp] theorem updDie_code (d : Nat) (f : Die → Die) : (updDie s d f).code = s.code := rfl
@[simp] theorem updDie_flights (d : Nat) (f : Die → Die) : (updDie s d f).flights = s.flights := rfl
@[simp] theorem updDie_starts (d : Nat) (f : Die → Die) : (updDie s d f).starts = s.starts := rfl
@[simp] theorem updDie_cores (d : Nat) (f : Die → Die) : (updDie s d f).cores = s.cores := rfl
@[simp] theorem updDie_clusters (d : Nat) (f : Die → Die) : (updDie s d f).clusters = s.clusters := rfl
@[simp] theorem updDie_sbs (d : Nat) (f : Die → Die) : (updDie s d f).sbs = s.sbs := rfl
@[simp] theorem updDie_links (d : Nat) (f : Die → Die) : (updDie s d f).links = s.links := rfl
@[simp] theorem updDie_widths (d : Nat) (f : Die → Die) : (updDie s d f).widths = s.widths := rfl
@[simp] theorem updDie_managers (d : Nat) (f : Die → Die) : (updDie s d f).managers = s.managers := rfl
@[simp] theorem updDie_hdB (d : Nat) (f : Die → Die) : (updDie s d f).hdB = s.hdB := rfl
@[simp] theorem updDie_phase (d : Nat) (f : Die → Die) : (updDie s d f).phase = s.phase := rfl
@[simp] theorem updDie_count0 (d : Nat) (f : Die → Die) : (updDie s d f).count0 = s.count0 := rfl
@[simp] theorem updDie_count1 (d : Nat) (f : Die → Die) : (updDie s d f).count1 = s.count1 := rfl
@[simp] theorem updDie_count2 (d : Nat) (f : Die → Die) : (updDie s d f).count2 = s.count2 := rfl
@[simp] theorem updDie_count3 (d : Nat) (f : Die → Die) : (updDie s d f).count3 = s.count3 := rfl
@[simp] theorem updDie_countHost (d : Nat) (f : Die → Die) : (updDie s d f).countHost = s.countHost := rfl
@[simp] theorem updDie_countByte (d : Nat) (f : Die → Die) : (updDie s d f).countByte = s.countByte := rfl
@[simp] theorem updDie_countPeer (d : Nat) (f : Die → Die) : (updDie s d f).countPeer = s.countPeer := rfl
@[simp] theorem updDie_itab (d : Nat) (f : Die → Die) : (updDie s d f).itab = s.itab := rfl
@[simp] theorem updDie_locked (d : Nat) (f : Die → Die) : (updDie s d f).locked = s.locked := rfl
@[simp] theorem updDie_hT (d : Nat) (f : Die → Die) : (updDie s d f).hT = s.hT := rfl
@[simp] theorem updDie_hB (d : Nat) (f : Die → Die) : (updDie s d f).hB = s.hB := rfl
@[simp] theorem updDie_sT (d : Nat) (f : Die → Die) : (updDie s d f).sT = s.sT := rfl
@[simp] theorem updDie_sB (d : Nat) (f : Die → Die) : (updDie s d f).sB = s.sB := rfl
@[simp] theorem updDie_ports (d : Nat) (f : Die → Die) : (updDie s d f).ports = s.ports := rfl
@[simp] theorem updDie_keys (d : Nat) (f : Die → Die) : (updDie s d f).keys = s.keys := rfl
@[simp] theorem updDie_queues (d : Nat) (f : Die → Die) : (updDie s d f).queues = s.queues := rfl
@[simp] theorem updDie_fw (d : Nat) (f : Die → Die) : (updDie s d f).fw = s.fw := rfl
@[simp] theorem updDie_portData (d : Nat) (f : Die → Die) : (updDie s d f).portData = s.portData := rfl
@[simp] theorem updDie_signals (d : Nat) (f : Die → Die) : (updDie s d f).signals = s.signals := rfl
@[simp] theorem updDie_launches (d : Nat) (f : Die → Die) : (updDie s d f).launches = s.launches := rfl
@[simp] theorem updDie_teams (d : Nat) (f : Die → Die) : (updDie s d f).teams = s.teams := rfl
@[simp] theorem updDie_ops (d : Nat) (f : Die → Die) : (updDie s d f).ops = s.ops := rfl
@[simp] theorem updDie_qrys (d : Nat) (f : Die → Die) : (updDie s d f).qrys = s.qrys := rfl
@[simp] theorem updDie_invals (d : Nat) (f : Die → Die) : (updDie s d f).invals = s.invals := rfl
@[simp] theorem updDie_events (d : Nat) (f : Die → Die) : (updDie s d f).events = s.events := rfl
@[simp] theorem updDie_nextId (d : Nat) (f : Die → Die) : (updDie s d f).nextId = s.nextId := rfl
@[simp] theorem updDie_issue (d : Nat) (f : Die → Die) : (updDie s d f).issue = s.issue := rfl
@[simp] theorem updDie_agenda (d : Nat) (f : Die → Die) : (updDie s d f).agenda = s.agenda := rfl
@[simp] theorem updDie_fresh (d : Nat) (f : Die → Die) : (updDie s d f).fresh = s.fresh := rfl
@[simp] theorem updDie_nextQueue (d : Nat) (f : Die → Die) : (updDie s d f).nextQueue = s.nextQueue := rfl

/-! `updBank` -/

@[simp] theorem updBank_mem (c b : Nat) (f : Bank → Bank) : (updBank s c b f).mem = s.mem := rfl
@[simp] theorem updBank_host (c b : Nat) (f : Bank → Bank) : (updBank s c b f).host = s.host := rfl
@[simp] theorem updBank_late (c b : Nat) (f : Bank → Bank) : (updBank s c b f).late = s.late := rfl
@[simp] theorem updBank_made (c b : Nat) (f : Bank → Bank) : (updBank s c b f).made = s.made := rfl
@[simp] theorem updBank_taken (c b : Nat) (f : Bank → Bank) : (updBank s c b f).taken = s.taken := rfl
@[simp] theorem updBank_code (c b : Nat) (f : Bank → Bank) : (updBank s c b f).code = s.code := rfl
@[simp] theorem updBank_flights (c b : Nat) (f : Bank → Bank) : (updBank s c b f).flights = s.flights := rfl
@[simp] theorem updBank_starts (c b : Nat) (f : Bank → Bank) : (updBank s c b f).starts = s.starts := rfl
@[simp] theorem updBank_cores (c b : Nat) (f : Bank → Bank) : (updBank s c b f).cores = s.cores := rfl
@[simp] theorem updBank_dies (c b : Nat) (f : Bank → Bank) : (updBank s c b f).dies = s.dies := rfl
@[simp] theorem updBank_sbs (c b : Nat) (f : Bank → Bank) : (updBank s c b f).sbs = s.sbs := rfl
@[simp] theorem updBank_links (c b : Nat) (f : Bank → Bank) : (updBank s c b f).links = s.links := rfl
@[simp] theorem updBank_widths (c b : Nat) (f : Bank → Bank) : (updBank s c b f).widths = s.widths := rfl
@[simp] theorem updBank_managers (c b : Nat) (f : Bank → Bank) : (updBank s c b f).managers = s.managers := rfl
@[simp] theorem updBank_hdB (c b : Nat) (f : Bank → Bank) : (updBank s c b f).hdB = s.hdB := rfl
@[simp] theorem updBank_phase (c b : Nat) (f : Bank → Bank) : (updBank s c b f).phase = s.phase := rfl
@[simp] theorem updBank_count0 (c b : Nat) (f : Bank → Bank) : (updBank s c b f).count0 = s.count0 := rfl
@[simp] theorem updBank_count1 (c b : Nat) (f : Bank → Bank) : (updBank s c b f).count1 = s.count1 := rfl
@[simp] theorem updBank_count2 (c b : Nat) (f : Bank → Bank) : (updBank s c b f).count2 = s.count2 := rfl
@[simp] theorem updBank_count3 (c b : Nat) (f : Bank → Bank) : (updBank s c b f).count3 = s.count3 := rfl
@[simp] theorem updBank_countHost (c b : Nat) (f : Bank → Bank) : (updBank s c b f).countHost = s.countHost := rfl
@[simp] theorem updBank_countByte (c b : Nat) (f : Bank → Bank) : (updBank s c b f).countByte = s.countByte := rfl
@[simp] theorem updBank_countPeer (c b : Nat) (f : Bank → Bank) : (updBank s c b f).countPeer = s.countPeer := rfl
@[simp] theorem updBank_itab (c b : Nat) (f : Bank → Bank) : (updBank s c b f).itab = s.itab := rfl
@[simp] theorem updBank_locked (c b : Nat) (f : Bank → Bank) : (updBank s c b f).locked = s.locked := rfl
@[simp] theorem updBank_hT (c b : Nat) (f : Bank → Bank) : (updBank s c b f).hT = s.hT := rfl
@[simp] theorem updBank_hB (c b : Nat) (f : Bank → Bank) : (updBank s c b f).hB = s.hB := rfl
@[simp] theorem updBank_sT (c b : Nat) (f : Bank → Bank) : (updBank s c b f).sT = s.sT := rfl
@[simp] theorem updBank_sB (c b : Nat) (f : Bank → Bank) : (updBank s c b f).sB = s.sB := rfl
@[simp] theorem updBank_ports (c b : Nat) (f : Bank → Bank) : (updBank s c b f).ports = s.ports := rfl
@[simp] theorem updBank_keys (c b : Nat) (f : Bank → Bank) : (updBank s c b f).keys = s.keys := rfl
@[simp] theorem updBank_queues (c b : Nat) (f : Bank → Bank) : (updBank s c b f).queues = s.queues := rfl
@[simp] theorem updBank_fw (c b : Nat) (f : Bank → Bank) : (updBank s c b f).fw = s.fw := rfl
@[simp] theorem updBank_portData (c b : Nat) (f : Bank → Bank) : (updBank s c b f).portData = s.portData := rfl
@[simp] theorem updBank_signals (c b : Nat) (f : Bank → Bank) : (updBank s c b f).signals = s.signals := rfl
@[simp] theorem updBank_launches (c b : Nat) (f : Bank → Bank) : (updBank s c b f).launches = s.launches := rfl
@[simp] theorem updBank_teams (c b : Nat) (f : Bank → Bank) : (updBank s c b f).teams = s.teams := rfl
@[simp] theorem updBank_ops (c b : Nat) (f : Bank → Bank) : (updBank s c b f).ops = s.ops := rfl
@[simp] theorem updBank_qrys (c b : Nat) (f : Bank → Bank) : (updBank s c b f).qrys = s.qrys := rfl
@[simp] theorem updBank_invals (c b : Nat) (f : Bank → Bank) : (updBank s c b f).invals = s.invals := rfl
@[simp] theorem updBank_events (c b : Nat) (f : Bank → Bank) : (updBank s c b f).events = s.events := rfl
@[simp] theorem updBank_nextId (c b : Nat) (f : Bank → Bank) : (updBank s c b f).nextId = s.nextId := rfl
@[simp] theorem updBank_issue (c b : Nat) (f : Bank → Bank) : (updBank s c b f).issue = s.issue := rfl
@[simp] theorem updBank_agenda (c b : Nat) (f : Bank → Bank) : (updBank s c b f).agenda = s.agenda := rfl
@[simp] theorem updBank_fresh (c b : Nat) (f : Bank → Bank) : (updBank s c b f).fresh = s.fresh := rfl
@[simp] theorem updBank_nextQueue (c b : Nat) (f : Bank → Bank) : (updBank s c b f).nextQueue = s.nextQueue := rfl

/-! `setTeam` -/

@[simp] theorem setTeam_mem (t : Nat) (v : Team) : (setTeam s t v).mem = s.mem := rfl
@[simp] theorem setTeam_host (t : Nat) (v : Team) : (setTeam s t v).host = s.host := rfl
@[simp] theorem setTeam_late (t : Nat) (v : Team) : (setTeam s t v).late = s.late := rfl
@[simp] theorem setTeam_made (t : Nat) (v : Team) : (setTeam s t v).made = s.made := rfl
@[simp] theorem setTeam_taken (t : Nat) (v : Team) : (setTeam s t v).taken = s.taken := rfl
@[simp] theorem setTeam_code (t : Nat) (v : Team) : (setTeam s t v).code = s.code := rfl
@[simp] theorem setTeam_flights (t : Nat) (v : Team) : (setTeam s t v).flights = s.flights := rfl
@[simp] theorem setTeam_starts (t : Nat) (v : Team) : (setTeam s t v).starts = s.starts := rfl
@[simp] theorem setTeam_cores (t : Nat) (v : Team) : (setTeam s t v).cores = s.cores := rfl
@[simp] theorem setTeam_clusters (t : Nat) (v : Team) : (setTeam s t v).clusters = s.clusters := rfl
@[simp] theorem setTeam_dies (t : Nat) (v : Team) : (setTeam s t v).dies = s.dies := rfl
@[simp] theorem setTeam_sbs (t : Nat) (v : Team) : (setTeam s t v).sbs = s.sbs := rfl
@[simp] theorem setTeam_links (t : Nat) (v : Team) : (setTeam s t v).links = s.links := rfl
@[simp] theorem setTeam_widths (t : Nat) (v : Team) : (setTeam s t v).widths = s.widths := rfl
@[simp] theorem setTeam_managers (t : Nat) (v : Team) : (setTeam s t v).managers = s.managers := rfl
@[simp] theorem setTeam_hdB (t : Nat) (v : Team) : (setTeam s t v).hdB = s.hdB := rfl
@[simp] theorem setTeam_phase (t : Nat) (v : Team) : (setTeam s t v).phase = s.phase := rfl
@[simp] theorem setTeam_count0 (t : Nat) (v : Team) : (setTeam s t v).count0 = s.count0 := rfl
@[simp] theorem setTeam_count1 (t : Nat) (v : Team) : (setTeam s t v).count1 = s.count1 := rfl
@[simp] theorem setTeam_count2 (t : Nat) (v : Team) : (setTeam s t v).count2 = s.count2 := rfl
@[simp] theorem setTeam_count3 (t : Nat) (v : Team) : (setTeam s t v).count3 = s.count3 := rfl
@[simp] theorem setTeam_countHost (t : Nat) (v : Team) : (setTeam s t v).countHost = s.countHost := rfl
@[simp] theorem setTeam_countByte (t : Nat) (v : Team) : (setTeam s t v).countByte = s.countByte := rfl
@[simp] theorem setTeam_countPeer (t : Nat) (v : Team) : (setTeam s t v).countPeer = s.countPeer := rfl
@[simp] theorem setTeam_itab (t : Nat) (v : Team) : (setTeam s t v).itab = s.itab := rfl
@[simp] theorem setTeam_locked (t : Nat) (v : Team) : (setTeam s t v).locked = s.locked := rfl
@[simp] theorem setTeam_hT (t : Nat) (v : Team) : (setTeam s t v).hT = s.hT := rfl
@[simp] theorem setTeam_hB (t : Nat) (v : Team) : (setTeam s t v).hB = s.hB := rfl
@[simp] theorem setTeam_sT (t : Nat) (v : Team) : (setTeam s t v).sT = s.sT := rfl
@[simp] theorem setTeam_sB (t : Nat) (v : Team) : (setTeam s t v).sB = s.sB := rfl
@[simp] theorem setTeam_ports (t : Nat) (v : Team) : (setTeam s t v).ports = s.ports := rfl
@[simp] theorem setTeam_keys (t : Nat) (v : Team) : (setTeam s t v).keys = s.keys := rfl
@[simp] theorem setTeam_queues (t : Nat) (v : Team) : (setTeam s t v).queues = s.queues := rfl
@[simp] theorem setTeam_fw (t : Nat) (v : Team) : (setTeam s t v).fw = s.fw := rfl
@[simp] theorem setTeam_portData (t : Nat) (v : Team) : (setTeam s t v).portData = s.portData := rfl
@[simp] theorem setTeam_signals (t : Nat) (v : Team) : (setTeam s t v).signals = s.signals := rfl
@[simp] theorem setTeam_launches (t : Nat) (v : Team) : (setTeam s t v).launches = s.launches := rfl
@[simp] theorem setTeam_ops (t : Nat) (v : Team) : (setTeam s t v).ops = s.ops := rfl
@[simp] theorem setTeam_qrys (t : Nat) (v : Team) : (setTeam s t v).qrys = s.qrys := rfl
@[simp] theorem setTeam_invals (t : Nat) (v : Team) : (setTeam s t v).invals = s.invals := rfl
@[simp] theorem setTeam_events (t : Nat) (v : Team) : (setTeam s t v).events = s.events := rfl
@[simp] theorem setTeam_nextId (t : Nat) (v : Team) : (setTeam s t v).nextId = s.nextId := rfl
@[simp] theorem setTeam_issue (t : Nat) (v : Team) : (setTeam s t v).issue = s.issue := rfl
@[simp] theorem setTeam_agenda (t : Nat) (v : Team) : (setTeam s t v).agenda = s.agenda := rfl
@[simp] theorem setTeam_fresh (t : Nat) (v : Team) : (setTeam s t v).fresh = s.fresh := rfl
@[simp] theorem setTeam_nextQueue (t : Nat) (v : Team) : (setTeam s t v).nextQueue = s.nextQueue := rfl

/-! `setLaunch` -/

@[simp] theorem setLaunch_mem (l : Nat) (v : Launch) : (setLaunch s l v).mem = s.mem := rfl
@[simp] theorem setLaunch_host (l : Nat) (v : Launch) : (setLaunch s l v).host = s.host := rfl
@[simp] theorem setLaunch_late (l : Nat) (v : Launch) : (setLaunch s l v).late = s.late := rfl
@[simp] theorem setLaunch_made (l : Nat) (v : Launch) : (setLaunch s l v).made = s.made := rfl
@[simp] theorem setLaunch_taken (l : Nat) (v : Launch) : (setLaunch s l v).taken = s.taken := rfl
@[simp] theorem setLaunch_code (l : Nat) (v : Launch) : (setLaunch s l v).code = s.code := rfl
@[simp] theorem setLaunch_flights (l : Nat) (v : Launch) : (setLaunch s l v).flights = s.flights := rfl
@[simp] theorem setLaunch_starts (l : Nat) (v : Launch) : (setLaunch s l v).starts = s.starts := rfl
@[simp] theorem setLaunch_cores (l : Nat) (v : Launch) : (setLaunch s l v).cores = s.cores := rfl
@[simp] theorem setLaunch_clusters (l : Nat) (v : Launch) : (setLaunch s l v).clusters = s.clusters := rfl
@[simp] theorem setLaunch_dies (l : Nat) (v : Launch) : (setLaunch s l v).dies = s.dies := rfl
@[simp] theorem setLaunch_sbs (l : Nat) (v : Launch) : (setLaunch s l v).sbs = s.sbs := rfl
@[simp] theorem setLaunch_links (l : Nat) (v : Launch) : (setLaunch s l v).links = s.links := rfl
@[simp] theorem setLaunch_widths (l : Nat) (v : Launch) : (setLaunch s l v).widths = s.widths := rfl
@[simp] theorem setLaunch_managers (l : Nat) (v : Launch) : (setLaunch s l v).managers = s.managers := rfl
@[simp] theorem setLaunch_hdB (l : Nat) (v : Launch) : (setLaunch s l v).hdB = s.hdB := rfl
@[simp] theorem setLaunch_phase (l : Nat) (v : Launch) : (setLaunch s l v).phase = s.phase := rfl
@[simp] theorem setLaunch_count0 (l : Nat) (v : Launch) : (setLaunch s l v).count0 = s.count0 := rfl
@[simp] theorem setLaunch_count1 (l : Nat) (v : Launch) : (setLaunch s l v).count1 = s.count1 := rfl
@[simp] theorem setLaunch_count2 (l : Nat) (v : Launch) : (setLaunch s l v).count2 = s.count2 := rfl
@[simp] theorem setLaunch_count3 (l : Nat) (v : Launch) : (setLaunch s l v).count3 = s.count3 := rfl
@[simp] theorem setLaunch_countHost (l : Nat) (v : Launch) : (setLaunch s l v).countHost = s.countHost := rfl
@[simp] theorem setLaunch_countByte (l : Nat) (v : Launch) : (setLaunch s l v).countByte = s.countByte := rfl
@[simp] theorem setLaunch_countPeer (l : Nat) (v : Launch) : (setLaunch s l v).countPeer = s.countPeer := rfl
@[simp] theorem setLaunch_itab (l : Nat) (v : Launch) : (setLaunch s l v).itab = s.itab := rfl
@[simp] theorem setLaunch_locked (l : Nat) (v : Launch) : (setLaunch s l v).locked = s.locked := rfl
@[simp] theorem setLaunch_hT (l : Nat) (v : Launch) : (setLaunch s l v).hT = s.hT := rfl
@[simp] theorem setLaunch_hB (l : Nat) (v : Launch) : (setLaunch s l v).hB = s.hB := rfl
@[simp] theorem setLaunch_sT (l : Nat) (v : Launch) : (setLaunch s l v).sT = s.sT := rfl
@[simp] theorem setLaunch_sB (l : Nat) (v : Launch) : (setLaunch s l v).sB = s.sB := rfl
@[simp] theorem setLaunch_ports (l : Nat) (v : Launch) : (setLaunch s l v).ports = s.ports := rfl
@[simp] theorem setLaunch_keys (l : Nat) (v : Launch) : (setLaunch s l v).keys = s.keys := rfl
@[simp] theorem setLaunch_queues (l : Nat) (v : Launch) : (setLaunch s l v).queues = s.queues := rfl
@[simp] theorem setLaunch_fw (l : Nat) (v : Launch) : (setLaunch s l v).fw = s.fw := rfl
@[simp] theorem setLaunch_portData (l : Nat) (v : Launch) : (setLaunch s l v).portData = s.portData := rfl
@[simp] theorem setLaunch_signals (l : Nat) (v : Launch) : (setLaunch s l v).signals = s.signals := rfl
@[simp] theorem setLaunch_teams (l : Nat) (v : Launch) : (setLaunch s l v).teams = s.teams := rfl
@[simp] theorem setLaunch_ops (l : Nat) (v : Launch) : (setLaunch s l v).ops = s.ops := rfl
@[simp] theorem setLaunch_qrys (l : Nat) (v : Launch) : (setLaunch s l v).qrys = s.qrys := rfl
@[simp] theorem setLaunch_invals (l : Nat) (v : Launch) : (setLaunch s l v).invals = s.invals := rfl
@[simp] theorem setLaunch_events (l : Nat) (v : Launch) : (setLaunch s l v).events = s.events := rfl
@[simp] theorem setLaunch_nextId (l : Nat) (v : Launch) : (setLaunch s l v).nextId = s.nextId := rfl
@[simp] theorem setLaunch_issue (l : Nat) (v : Launch) : (setLaunch s l v).issue = s.issue := rfl
@[simp] theorem setLaunch_agenda (l : Nat) (v : Launch) : (setLaunch s l v).agenda = s.agenda := rfl
@[simp] theorem setLaunch_fresh (l : Nat) (v : Launch) : (setLaunch s l v).fresh = s.fresh := rfl
@[simp] theorem setLaunch_nextQueue (l : Nat) (v : Launch) : (setLaunch s l v).nextQueue = s.nextQueue := rfl

/-! `push` -/

@[simp] theorem push_mem (e : Event) : (push s e).mem = s.mem := rfl
@[simp] theorem push_host (e : Event) : (push s e).host = s.host := rfl
@[simp] theorem push_late (e : Event) : (push s e).late = s.late := rfl
@[simp] theorem push_made (e : Event) : (push s e).made = s.made := rfl
@[simp] theorem push_taken (e : Event) : (push s e).taken = s.taken := rfl
@[simp] theorem push_code (e : Event) : (push s e).code = s.code := rfl
@[simp] theorem push_flights (e : Event) : (push s e).flights = s.flights := rfl
@[simp] theorem push_starts (e : Event) : (push s e).starts = s.starts := rfl
@[simp] theorem push_cores (e : Event) : (push s e).cores = s.cores := rfl
@[simp] theorem push_clusters (e : Event) : (push s e).clusters = s.clusters := rfl
@[simp] theorem push_dies (e : Event) : (push s e).dies = s.dies := rfl
@[simp] theorem push_sbs (e : Event) : (push s e).sbs = s.sbs := rfl
@[simp] theorem push_links (e : Event) : (push s e).links = s.links := rfl
@[simp] theorem push_widths (e : Event) : (push s e).widths = s.widths := rfl
@[simp] theorem push_managers (e : Event) : (push s e).managers = s.managers := rfl
@[simp] theorem push_hdB (e : Event) : (push s e).hdB = s.hdB := rfl
@[simp] theorem push_phase (e : Event) : (push s e).phase = s.phase := rfl
@[simp] theorem push_count0 (e : Event) : (push s e).count0 = s.count0 := rfl
@[simp] theorem push_count1 (e : Event) : (push s e).count1 = s.count1 := rfl
@[simp] theorem push_count2 (e : Event) : (push s e).count2 = s.count2 := rfl
@[simp] theorem push_count3 (e : Event) : (push s e).count3 = s.count3 := rfl
@[simp] theorem push_countHost (e : Event) : (push s e).countHost = s.countHost := rfl
@[simp] theorem push_countByte (e : Event) : (push s e).countByte = s.countByte := rfl
@[simp] theorem push_countPeer (e : Event) : (push s e).countPeer = s.countPeer := rfl
@[simp] theorem push_itab (e : Event) : (push s e).itab = s.itab := rfl
@[simp] theorem push_locked (e : Event) : (push s e).locked = s.locked := rfl
@[simp] theorem push_hT (e : Event) : (push s e).hT = s.hT := rfl
@[simp] theorem push_hB (e : Event) : (push s e).hB = s.hB := rfl
@[simp] theorem push_sT (e : Event) : (push s e).sT = s.sT := rfl
@[simp] theorem push_sB (e : Event) : (push s e).sB = s.sB := rfl
@[simp] theorem push_ports (e : Event) : (push s e).ports = s.ports := rfl
@[simp] theorem push_keys (e : Event) : (push s e).keys = s.keys := rfl
@[simp] theorem push_queues (e : Event) : (push s e).queues = s.queues := rfl
@[simp] theorem push_fw (e : Event) : (push s e).fw = s.fw := rfl
@[simp] theorem push_portData (e : Event) : (push s e).portData = s.portData := rfl
@[simp] theorem push_signals (e : Event) : (push s e).signals = s.signals := rfl
@[simp] theorem push_launches (e : Event) : (push s e).launches = s.launches := rfl
@[simp] theorem push_teams (e : Event) : (push s e).teams = s.teams := rfl
@[simp] theorem push_ops (e : Event) : (push s e).ops = s.ops := rfl
@[simp] theorem push_qrys (e : Event) : (push s e).qrys = s.qrys := rfl
@[simp] theorem push_invals (e : Event) : (push s e).invals = s.invals := rfl
@[simp] theorem push_events (e : Event) : (push s e).events = s.events := rfl
@[simp] theorem push_nextId (e : Event) : (push s e).nextId = s.nextId := rfl
@[simp] theorem push_issue (e : Event) : (push s e).issue = s.issue := rfl
@[simp] theorem push_fresh (e : Event) : (push s e).fresh = s.fresh := rfl
@[simp] theorem push_nextQueue (e : Event) : (push s e).nextQueue = s.nextQueue := rfl

/-! `tick` -/

@[simp] theorem tick_mem : (tick s).mem = s.mem := rfl
@[simp] theorem tick_host : (tick s).host = s.host := rfl
@[simp] theorem tick_late : (tick s).late = s.late := rfl
@[simp] theorem tick_made : (tick s).made = s.made := rfl
@[simp] theorem tick_taken : (tick s).taken = s.taken := rfl
@[simp] theorem tick_code : (tick s).code = s.code := rfl
@[simp] theorem tick_flights : (tick s).flights = s.flights := rfl
@[simp] theorem tick_starts : (tick s).starts = s.starts := rfl
@[simp] theorem tick_cores : (tick s).cores = s.cores := rfl
@[simp] theorem tick_clusters : (tick s).clusters = s.clusters := rfl
@[simp] theorem tick_dies : (tick s).dies = s.dies := rfl
@[simp] theorem tick_sbs : (tick s).sbs = s.sbs := rfl
@[simp] theorem tick_links : (tick s).links = s.links := rfl
@[simp] theorem tick_widths : (tick s).widths = s.widths := rfl
@[simp] theorem tick_managers : (tick s).managers = s.managers := rfl
@[simp] theorem tick_hdB : (tick s).hdB = s.hdB := rfl
@[simp] theorem tick_phase : (tick s).phase = s.phase := rfl
@[simp] theorem tick_count0 : (tick s).count0 = s.count0 := rfl
@[simp] theorem tick_count1 : (tick s).count1 = s.count1 := rfl
@[simp] theorem tick_count2 : (tick s).count2 = s.count2 := rfl
@[simp] theorem tick_count3 : (tick s).count3 = s.count3 := rfl
@[simp] theorem tick_countHost : (tick s).countHost = s.countHost := rfl
@[simp] theorem tick_countByte : (tick s).countByte = s.countByte := rfl
@[simp] theorem tick_countPeer : (tick s).countPeer = s.countPeer := rfl
@[simp] theorem tick_itab : (tick s).itab = s.itab := rfl
@[simp] theorem tick_locked : (tick s).locked = s.locked := rfl
@[simp] theorem tick_hT : (tick s).hT = s.hT := rfl
@[simp] theorem tick_hB : (tick s).hB = s.hB := rfl
@[simp] theorem tick_sT : (tick s).sT = s.sT := rfl
@[simp] theorem tick_sB : (tick s).sB = s.sB := rfl
@[simp] theorem tick_ports : (tick s).ports = s.ports := rfl
@[simp] theorem tick_keys : (tick s).keys = s.keys := rfl
@[simp] theorem tick_queues : (tick s).queues = s.queues := rfl
@[simp] theorem tick_fw : (tick s).fw = s.fw := rfl
@[simp] theorem tick_portData : (tick s).portData = s.portData := rfl
@[simp] theorem tick_signals : (tick s).signals = s.signals := rfl
@[simp] theorem tick_launches : (tick s).launches = s.launches := rfl
@[simp] theorem tick_teams : (tick s).teams = s.teams := rfl
@[simp] theorem tick_ops : (tick s).ops = s.ops := rfl
@[simp] theorem tick_qrys : (tick s).qrys = s.qrys := rfl
@[simp] theorem tick_invals : (tick s).invals = s.invals := rfl
@[simp] theorem tick_events : (tick s).events = s.events := rfl
@[simp] theorem tick_nextId : (tick s).nextId = s.nextId := rfl
@[simp] theorem tick_issue : (tick s).issue = s.issue := rfl
@[simp] theorem tick_agenda : (tick s).agenda = s.agenda := rfl
@[simp] theorem tick_nextQueue : (tick s).nextQueue = s.nextQueue := rfl

/-! `setAtom` -/

@[simp] theorem setAtom_host (b : Int) (a : Atom) : (setAtom s b a).host = s.host := rfl
@[simp] theorem setAtom_late (b : Int) (a : Atom) : (setAtom s b a).late = s.late := rfl
@[simp] theorem setAtom_made (b : Int) (a : Atom) : (setAtom s b a).made = s.made := rfl
@[simp] theorem setAtom_taken (b : Int) (a : Atom) : (setAtom s b a).taken = s.taken := rfl
@[simp] theorem setAtom_code (b : Int) (a : Atom) : (setAtom s b a).code = s.code := rfl
@[simp] theorem setAtom_flights (b : Int) (a : Atom) : (setAtom s b a).flights = s.flights := rfl
@[simp] theorem setAtom_starts (b : Int) (a : Atom) : (setAtom s b a).starts = s.starts := rfl
@[simp] theorem setAtom_cores (b : Int) (a : Atom) : (setAtom s b a).cores = s.cores := rfl
@[simp] theorem setAtom_clusters (b : Int) (a : Atom) : (setAtom s b a).clusters = s.clusters := rfl
@[simp] theorem setAtom_dies (b : Int) (a : Atom) : (setAtom s b a).dies = s.dies := rfl
@[simp] theorem setAtom_sbs (b : Int) (a : Atom) : (setAtom s b a).sbs = s.sbs := rfl
@[simp] theorem setAtom_links (b : Int) (a : Atom) : (setAtom s b a).links = s.links := rfl
@[simp] theorem setAtom_widths (b : Int) (a : Atom) : (setAtom s b a).widths = s.widths := rfl
@[simp] theorem setAtom_managers (b : Int) (a : Atom) : (setAtom s b a).managers = s.managers := rfl
@[simp] theorem setAtom_hdB (b : Int) (a : Atom) : (setAtom s b a).hdB = s.hdB := rfl
@[simp] theorem setAtom_phase (b : Int) (a : Atom) : (setAtom s b a).phase = s.phase := rfl
@[simp] theorem setAtom_count0 (b : Int) (a : Atom) : (setAtom s b a).count0 = s.count0 := rfl
@[simp] theorem setAtom_count1 (b : Int) (a : Atom) : (setAtom s b a).count1 = s.count1 := rfl
@[simp] theorem setAtom_count2 (b : Int) (a : Atom) : (setAtom s b a).count2 = s.count2 := rfl
@[simp] theorem setAtom_count3 (b : Int) (a : Atom) : (setAtom s b a).count3 = s.count3 := rfl
@[simp] theorem setAtom_countHost (b : Int) (a : Atom) : (setAtom s b a).countHost = s.countHost := rfl
@[simp] theorem setAtom_countByte (b : Int) (a : Atom) : (setAtom s b a).countByte = s.countByte := rfl
@[simp] theorem setAtom_countPeer (b : Int) (a : Atom) : (setAtom s b a).countPeer = s.countPeer := rfl
@[simp] theorem setAtom_itab (b : Int) (a : Atom) : (setAtom s b a).itab = s.itab := rfl
@[simp] theorem setAtom_locked (b : Int) (a : Atom) : (setAtom s b a).locked = s.locked := rfl
@[simp] theorem setAtom_hT (b : Int) (a : Atom) : (setAtom s b a).hT = s.hT := rfl
@[simp] theorem setAtom_hB (b : Int) (a : Atom) : (setAtom s b a).hB = s.hB := rfl
@[simp] theorem setAtom_sT (b : Int) (a : Atom) : (setAtom s b a).sT = s.sT := rfl
@[simp] theorem setAtom_sB (b : Int) (a : Atom) : (setAtom s b a).sB = s.sB := rfl
@[simp] theorem setAtom_ports (b : Int) (a : Atom) : (setAtom s b a).ports = s.ports := rfl
@[simp] theorem setAtom_keys (b : Int) (a : Atom) : (setAtom s b a).keys = s.keys := rfl
@[simp] theorem setAtom_queues (b : Int) (a : Atom) : (setAtom s b a).queues = s.queues := rfl
@[simp] theorem setAtom_fw (b : Int) (a : Atom) : (setAtom s b a).fw = s.fw := rfl
@[simp] theorem setAtom_portData (b : Int) (a : Atom) : (setAtom s b a).portData = s.portData := rfl
@[simp] theorem setAtom_signals (b : Int) (a : Atom) : (setAtom s b a).signals = s.signals := rfl
@[simp] theorem setAtom_launches (b : Int) (a : Atom) : (setAtom s b a).launches = s.launches := rfl
@[simp] theorem setAtom_teams (b : Int) (a : Atom) : (setAtom s b a).teams = s.teams := rfl
@[simp] theorem setAtom_ops (b : Int) (a : Atom) : (setAtom s b a).ops = s.ops := rfl
@[simp] theorem setAtom_qrys (b : Int) (a : Atom) : (setAtom s b a).qrys = s.qrys := rfl
@[simp] theorem setAtom_invals (b : Int) (a : Atom) : (setAtom s b a).invals = s.invals := rfl
@[simp] theorem setAtom_events (b : Int) (a : Atom) : (setAtom s b a).events = s.events := rfl
@[simp] theorem setAtom_nextId (b : Int) (a : Atom) : (setAtom s b a).nextId = s.nextId := rfl
@[simp] theorem setAtom_issue (b : Int) (a : Atom) : (setAtom s b a).issue = s.issue := rfl
@[simp] theorem setAtom_agenda (b : Int) (a : Atom) : (setAtom s b a).agenda = s.agenda := rfl
@[simp] theorem setAtom_fresh (b : Int) (a : Atom) : (setAtom s b a).fresh = s.fresh := rfl
@[simp] theorem setAtom_nextQueue (b : Int) (a : Atom) : (setAtom s b a).nextQueue = s.nextQueue := rfl

/-! `setHostByte` -/

@[simp] theorem setHostByte_mem (a : Nat) (v : Byte) : (setHostByte s a v).mem = s.mem := rfl
@[simp] theorem setHostByte_late (a : Nat) (v : Byte) : (setHostByte s a v).late = s.late := rfl
@[simp] theorem setHostByte_made (a : Nat) (v : Byte) : (setHostByte s a v).made = s.made := rfl
@[simp] theorem setHostByte_taken (a : Nat) (v : Byte) : (setHostByte s a v).taken = s.taken := rfl
@[simp] theorem setHostByte_code (a : Nat) (v : Byte) : (setHostByte s a v).code = s.code := rfl
@[simp] theorem setHostByte_flights (a : Nat) (v : Byte) : (setHostByte s a v).flights = s.flights := rfl
@[simp] theorem setHostByte_starts (a : Nat) (v : Byte) : (setHostByte s a v).starts = s.starts := rfl
@[simp] theorem setHostByte_cores (a : Nat) (v : Byte) : (setHostByte s a v).cores = s.cores := rfl
@[simp] theorem setHostByte_clusters (a : Nat) (v : Byte) : (setHostByte s a v).clusters = s.clusters := rfl
@[simp] theorem setHostByte_dies (a : Nat) (v : Byte) : (setHostByte s a v).dies = s.dies := rfl
@[simp] theorem setHostByte_sbs (a : Nat) (v : Byte) : (setHostByte s a v).sbs = s.sbs := rfl
@[simp] theorem setHostByte_links (a : Nat) (v : Byte) : (setHostByte s a v).links = s.links := rfl
@[simp] theorem setHostByte_widths (a : Nat) (v : Byte) : (setHostByte s a v).widths = s.widths := rfl
@[simp] theorem setHostByte_managers (a : Nat) (v : Byte) : (setHostByte s a v).managers = s.managers := rfl
@[simp] theorem setHostByte_hdB (a : Nat) (v : Byte) : (setHostByte s a v).hdB = s.hdB := rfl
@[simp] theorem setHostByte_phase (a : Nat) (v : Byte) : (setHostByte s a v).phase = s.phase := rfl
@[simp] theorem setHostByte_count0 (a : Nat) (v : Byte) : (setHostByte s a v).count0 = s.count0 := rfl
@[simp] theorem setHostByte_count1 (a : Nat) (v : Byte) : (setHostByte s a v).count1 = s.count1 := rfl
@[simp] theorem setHostByte_count2 (a : Nat) (v : Byte) : (setHostByte s a v).count2 = s.count2 := rfl
@[simp] theorem setHostByte_count3 (a : Nat) (v : Byte) : (setHostByte s a v).count3 = s.count3 := rfl
@[simp] theorem setHostByte_countHost (a : Nat) (v : Byte) : (setHostByte s a v).countHost = s.countHost := rfl
@[simp] theorem setHostByte_countByte (a : Nat) (v : Byte) : (setHostByte s a v).countByte = s.countByte := rfl
@[simp] theorem setHostByte_countPeer (a : Nat) (v : Byte) : (setHostByte s a v).countPeer = s.countPeer := rfl
@[simp] theorem setHostByte_itab (a : Nat) (v : Byte) : (setHostByte s a v).itab = s.itab := rfl
@[simp] theorem setHostByte_locked (a : Nat) (v : Byte) : (setHostByte s a v).locked = s.locked := rfl
@[simp] theorem setHostByte_hT (a : Nat) (v : Byte) : (setHostByte s a v).hT = s.hT := rfl
@[simp] theorem setHostByte_hB (a : Nat) (v : Byte) : (setHostByte s a v).hB = s.hB := rfl
@[simp] theorem setHostByte_sT (a : Nat) (v : Byte) : (setHostByte s a v).sT = s.sT := rfl
@[simp] theorem setHostByte_sB (a : Nat) (v : Byte) : (setHostByte s a v).sB = s.sB := rfl
@[simp] theorem setHostByte_ports (a : Nat) (v : Byte) : (setHostByte s a v).ports = s.ports := rfl
@[simp] theorem setHostByte_keys (a : Nat) (v : Byte) : (setHostByte s a v).keys = s.keys := rfl
@[simp] theorem setHostByte_queues (a : Nat) (v : Byte) : (setHostByte s a v).queues = s.queues := rfl
@[simp] theorem setHostByte_fw (a : Nat) (v : Byte) : (setHostByte s a v).fw = s.fw := rfl
@[simp] theorem setHostByte_portData (a : Nat) (v : Byte) : (setHostByte s a v).portData = s.portData := rfl
@[simp] theorem setHostByte_signals (a : Nat) (v : Byte) : (setHostByte s a v).signals = s.signals := rfl
@[simp] theorem setHostByte_launches (a : Nat) (v : Byte) : (setHostByte s a v).launches = s.launches := rfl
@[simp] theorem setHostByte_teams (a : Nat) (v : Byte) : (setHostByte s a v).teams = s.teams := rfl
@[simp] theorem setHostByte_ops (a : Nat) (v : Byte) : (setHostByte s a v).ops = s.ops := rfl
@[simp] theorem setHostByte_qrys (a : Nat) (v : Byte) : (setHostByte s a v).qrys = s.qrys := rfl
@[simp] theorem setHostByte_invals (a : Nat) (v : Byte) : (setHostByte s a v).invals = s.invals := rfl
@[simp] theorem setHostByte_events (a : Nat) (v : Byte) : (setHostByte s a v).events = s.events := rfl
@[simp] theorem setHostByte_nextId (a : Nat) (v : Byte) : (setHostByte s a v).nextId = s.nextId := rfl
@[simp] theorem setHostByte_issue (a : Nat) (v : Byte) : (setHostByte s a v).issue = s.issue := rfl
@[simp] theorem setHostByte_agenda (a : Nat) (v : Byte) : (setHostByte s a v).agenda = s.agenda := rfl
@[simp] theorem setHostByte_fresh (a : Nat) (v : Byte) : (setHostByte s a v).fresh = s.fresh := rfl
@[simp] theorem setHostByte_nextQueue (a : Nat) (v : Byte) : (setHostByte s a v).nextQueue = s.nextQueue := rfl

end Fields

end Sys2Proof.Machine
end

