-- ==== Sys2Proof/Laws/Access.lean ====
section
/-! SUPPORT. Reads after updates of the parts of the state, and the shared operations over contexts and their registers,
each said once. -/

namespace Sys2Proof.Machine

open Sys2Proof

/-! ## Parts -/

theorem getCore_setCore (s : State) (c d : Nat) (v : Core) :
    getCore (setCore s c v) d = if d = c then v else getCore s d := mget_mput _ _ _ _ _
@[simp] theorem getCore_setCore_same (s : State) (c : Nat) (v : Core) : getCore (setCore s c v) c = v := by
  simp [getCore_setCore]
@[simp] theorem setCore_setCore (s : State) (c : Nat) (v w : Core) : setCore (setCore s c v) c w = setCore s c w := by
  simp [setCore]
@[simp] theorem getCore_updCore_same (s : State) (c : Nat) (f : Core → Core) :
    getCore (updCore s c f) c = f (getCore s c) := getCore_setCore_same _ _ _
@[simp] theorem updCore_updCore (s : State) (c : Nat) (f g : Core → Core) :
    updCore (updCore s c f) c g = updCore s c fun k => g (f k) := by
  simp [updCore]

theorem getDie_setDie (s : State) (c d : Nat) (v : Die) :
    getDie (setDie s c v) d = if d = c then v else getDie s d := mget_mput _ _ _ _ _
@[simp] theorem getDie_setDie_same (s : State) (c : Nat) (v : Die) : getDie (setDie s c v) c = v := by
  simp [getDie_setDie]
@[simp] theorem getDie_updDie_same (s : State) (c : Nat) (f : Die → Die) :
    getDie (updDie s c f) c = f (getDie s c) := getDie_setDie_same _ _ _
@[simp] theorem setDie_setDie (s : State) (c : Nat) (v w : Die) : setDie (setDie s c v) c w = setDie s c w := by
  simp [setDie]

theorem getCluster_setCluster (s : State) (c d : Nat) (v : Cluster) :
    getCluster (setCluster s c v) d = if d = c then v else getCluster s d := mget_mput _ _ _ _ _
@[simp] theorem getCluster_updCluster_same (s : State) (c : Nat) (f : Cluster → Cluster) :
    getCluster (updCluster s c f) c = f (getCluster s c) := by
  simp [updCluster, getCluster_setCluster]

theorem getBank_setBank (s : State) (c b d : Nat) (v : Bank) :
    getBank (setBank s c b v) d = fun e => if d = c ∧ e = b then v else getBank s d e := by
  funext e
  by_cases h : d = c
  · subst h; simp [getBank, setBank, mget_mput]
  · simp [getBank, setBank, updCluster, getCluster_setCluster, h]

theorem getStack_setStack (s : State) (c d : Nat) (v : Stack) :
    getStack (setStack s c v) d = if d = c then v else getStack s d := mget_mput _ _ _ _ _
@[simp] theorem getStack_updStack_same (s : State) (c : Nat) (f : Stack → Stack) :
    getStack (updStack s c f) c = f (getStack s c) := by
  simp [updStack, getStack_setStack]

theorem getQueue_setQueue (s : State) (p q : Nat) (v : Queue) :
    getQueue (setQueue s p v) q = if q = p then v else getQueue s q := by
  unfold getQueue setQueue
  by_cases hp : p = 81 <;> by_cases hq : q = 81 <;> simp [hp, hq, mget_mput]
  · exact fun h => absurd h.symm hp

theorem getLaunch_setLaunch (s : State) (l k : Nat) (v : Launch) :
    getLaunch (setLaunch s l v) k = if k = l then some v else getLaunch s k := mfind_mset _ _ _ _
theorem getTeam_setTeam (s : State) (l k : Nat) (v : Team) :
    getTeam (setTeam s l v) k = if k = l then some v else getTeam s k := mfind_mset _ _ _ _

/-! ## Contexts -/

theorem getGroup_setGroup (s : State) (core ctx c x : Nat) (g : Group) :
    getGroup (setGroup s core ctx g) c x = if c = core ∧ x = ctx then some g else getGroup s c x := by
  unfold getGroup setGroup updCore
  rw [getCore_setCore]
  by_cases h : c = core
  · subst h; simp [mfind_mset]
  · simp [h]
@[simp] theorem getGroup_setGroup_same (s : State) (core ctx : Nat) (g : Group) :
    getGroup (setGroup s core ctx g) core ctx = some g := by simp [getGroup_setGroup]
@[simp] theorem setGroup_setGroup (s : State) (core ctx : Nat) (g h : Group) :
    setGroup (setGroup s core ctx g) core ctx h = setGroup s core ctx h := by
  simp [setGroup]

theorem updGroup_eq {s : State} {core ctx : Nat} {g : Group} (h : getGroup s core ctx = some g) (f : Group → Group) :
    updGroup s core ctx f = setGroup s core ctx (f g) := by simp [updGroup, h]

theorem getRange_setRange (s : State) (core e c x : Nat) (q : Range) :
    getRange (setRange s core e q) c x = if c = core ∧ x = e then some q else getRange s c x := by
  unfold getRange setRange updCore
  rw [getCore_setCore]
  by_cases h : c = core
  · subst h; simp [mfind_mset]
  · simp [h]
@[simp] theorem getRange_setRange_same (s : State) (core e : Nat) (q : Range) :
    getRange (setRange s core e q) core e = some q := by simp [getRange_setRange]
@[simp] theorem setRange_setRange (s : State) (core e : Nat) (q r : Range) :
    setRange (setRange s core e q) core e r = setRange s core e r := by
  simp [setRange]

theorem updRange_eq {s : State} {core e : Nat} {q : Range} (h : getRange s core e = some q) (f : Range → Range) :
    updRange s core e f = setRange s core e (f q) := by simp [updRange, h]

/-- Reads of a context do not see the issue slot. -/
@[simp] theorem getGroup_issue (s : State) (x : Option Issue) (core ctx : Nat) :
    getGroup { s with issue := x } core ctx = getGroup s core ctx := rfl
@[simp] theorem getRange_issue (s : State) (x : Option Issue) (core e : Nat) :
    getRange { s with issue := x } core e = getRange s core e := rfl
@[simp] theorem getDie_setGroup (s : State) (core ctx d : Nat) (g : Group) :
    getDie (setGroup s core ctx g) d = getDie s d := rfl
@[simp] theorem getDie_setRange (s : State) (core e d : Nat) (q : Range) :
    getDie (setRange s core e q) d = getDie s d := rfl
@[simp] theorem getCore_issue (s : State) (x : Option Issue) (c : Nat) : getCore { s with issue := x } c = getCore s c := rfl

/-! ## Registers of the executing context -/

/-- A write to the registers of a group, with what its region records. -/
theorem updRegs_region_group {s : State} {core c : Nat} {g : Group} (h : getGroup s core c = some g) (f : Regs → Regs)
    (r : Reg) : noteRegion (updRegs s core (.group c) f) core (.group c) r =
      setGroup s core c { g with r := f g.r, region := if g.region.contains r then g.region else r :: g.region } := by
  simp only [noteRegion, updRegs, updGroup_eq h]
  rw [updGroup_eq (getGroup_setGroup_same _ _ _ _), setGroup_setGroup]
  congr 1
  by_cases hr : r ∈ g.region <;> simp [hr]

/-- A write to the registers of a range. -/
theorem updRegs_region_range {s : State} {core e : Nat} {q : Range} (h : getRange s core e = some q) (f : Regs → Regs)
    (r : Reg) : noteRegion (updRegs s core (.range e) f) core (.range e) r =
      setRange s core e { q with r := f q.r } := by
  simp only [noteRegion, updRegs, updRange_eq h]

/-- A write to the registers of the executing context changes those registers alone. -/
theorem updRegs_region {s : State} {core : Nat} {w : Who} (h : s.holds core w = true) (f : Regs → Regs) (r : Reg) :
    RegsBecome s (noteRegion (updRegs s core w f) core w r) core w (f (whoRegs s core w)) := by
  cases w with
  | group c =>
    simp only [State.holds, Option.isSome_iff_exists] at h
    obtain ⟨g, hg⟩ := h
    rw [updRegs_region_group hg]
    exact ⟨g, _, hg, by simp [whoRegs, hg]; rfl⟩
  | range e =>
    simp only [State.holds, Option.isSome_iff_exists] at h
    obtain ⟨q, hq⟩ := h
    rw [updRegs_region_range hq]
    exact ⟨q, hq, by simp [whoRegs, hq]⟩

/-! ## Results of the scalar pipe -/

/-- A write of an `s` register. -/
theorem setS_writes {s : State} {i : Issue} (h : s.holds i.core i.who = true) (n : Nat) (v : Int) :
    SWritten s (setS s i n v) i n v :=
  ⟨_, updRegs_region h _ _, fun _ => mget_mput _ _ _ _ _⟩

/-- A write of an address register. -/
theorem setA_writes {s : State} {i : Issue} (h : s.holds i.core i.who = true) (n : Nat) (v : AReg) :
    AWritten s (setA s i n v) i n v :=
  ⟨_, updRegs_region h _ _, fun _ => mget_mput _ _ _ _ _⟩

/-- A result enters the latches of its pipe. -/
theorem latchWrite_takes (s : State) (i : Issue) (vector : Bool) (v : Int) :
    LatchTakes s (latchWrite s i vector v) i vector v := by
  unfold LatchTakes latchWrite
  by_cases hp : i.packed = true
  · simp [hp]
  · simp only [hp, Bool.false_eq_true, ↓reduceIte]
    cases vector
    · refine ⟨v :: (getCore s i.core).slatch.take 2, by simp, ?_, ?_, ?_⟩
      · rcases (getCore s i.core).slatch with _ | ⟨a, _ | ⟨b, t⟩⟩ <;> simp
      · rcases (getCore s i.core).slatch with _ | ⟨a, _ | ⟨b, t⟩⟩ <;> simp
      · simp [updCore]
    · refine ⟨v :: (getCore s i.core).vlatch.take 2, by simp, ?_, ?_, ?_⟩
      · rcases (getCore s i.core).vlatch with _ | ⟨a, _ | ⟨b, t⟩⟩ <;> simp
      · rcases (getCore s i.core).vlatch with _ | ⟨a, _ | ⟨b, t⟩⟩ <;> simp
      · simp [updCore]

/-- A scalar result is done at its destination. -/
theorem swrite_done {s : State} {i : Issue} (h : s.holds i.core i.who = true) (d : Dst) (v : Int) :
    ScalarDone s (swrite s i d v) i d v := by
  match d with
  | .reg n false => exact setS_writes h n v
  | .reg n true => exact ⟨setS s i n v, setS_writes h n v, latchWrite_takes _ _ _ _⟩
  | .latchOnly => exact latchWrite_takes _ _ _ _

/-- What the slot's meaning answers. -/
theorem inIssue_next {s : State} {i : Issue} (h : s.issue = some i) (f : Issue → State → State) :
    inIssue s f = .next (f i s) := by simp [inIssue, h]
theorem scalarOp_next {s : State} {i : Issue} (h : s.issue = some i) (hg : i.guard ≠ []) (f : Issue → State → State) :
    scalarOp s f = .next (f i s) := by simp [scalarOp, inIssue, h, hg]
/-- A scalar operation, where its context does not cast. -/
theorem scalarAlu_done {s : State} {i : Issue} (h : Runs s i) {ops : List Opd} (hp : ReadsPlace i ops) (d : Dst)
    (f : List Int → Int) :
    ∃ t, scalarAlu s d ops f = .next t ∧ ScalarDone s t i d (f (ops.map (ssrc s i))) := by
  refine ⟨swrite s i d (f (ops.map (ssrc s i))), ?_, swrite_done h.2.2 _ _⟩
  unfold scalarAlu
  rw [scalarOp_next h.1 h.2.1]
  have hc : (inRange i && ops.any sCasts) = false := by
    by_cases hr : inRange i = true
    · rw [hp hr]; simp
    · simp [hr]
  simp only [hc, Bool.false_eq_true, ↓reduceIte]

/-! ## Traps and casts -/

/-- A bundle of a range given up. -/
theorem breakIssue_range {s : State} {i : Issue} {e : Nat} {q : Range} (h : i.who = .range e)
    (hq : getRange s i.core e = some q) :
    breakIssue s i = setRange { s with issue := some { i with broke := true } } i.core e { q with pc := i.pc } := by
  unfold breakIssue
  generalize hj : ({ i with broke := true } : Issue) = j
  rw [h]
  exact updRange_eq (s := { s with issue := some j }) hq _

/-- A trap of a group's bundle. -/
theorem raise_traps {s : State} {i : Issue} {c : Nat} (h : i.who = .group c) (cls : Nat) (lanes : List LaneEntry) :
    Traps s (raise s i cls 0 lanes) i c cls lanes := by
  unfold Traps raise breakIssue
  generalize ({ i with broke := true } : Issue) = j
  rw [h]

/-- Every active lane of a group is marked. -/
theorem whoActive_group {s : State} {core c : Nat} {g : Group} (h : getGroup s core c = some g) :
    whoActive s core (.group c) = activeLanes g := by simp [whoActive, h]
theorem raiseAll_traps {s : State} {i : Issue} {c : Nat} {g : Group} (h : i.who = .group c)
    (hg : getGroup s i.core c = some g) (cls : Nat) :
    Traps s (raiseAll s i cls) i c cls (plainLanes (activeLanes g)) := by
  rw [raiseAll, h, whoActive_group hg]
  exact raise_traps h _ _
theorem boundsAll_traps {s : State} {i : Issue} {c : Nat} {g : Group} (h : i.who = .group c)
    (hg : getGroup s i.core c = some g) (a : Int) : Traps s (boundsAll s i a) i c 5
      ((activeLanes g).map fun l => { slot := l, addr := a, cause := 1, level := 3 }) := by
  rw [boundsAll, h, whoActive_group hg]
  exact raise_traps h _ _

/-- What a group does with an instruction that a range casts at. -/
theorem groupOnly_group {s : State} {i : Issue} {c : Nat} {g : Group} (h : i.who = .group c)
    (hg : getGroup s i.core c = some g) (f : Nat → Group → State) : groupOnly s i f = f c g := by
  simp [groupOnly, h, hg]
/-- What a range does with it. -/
theorem groupOnly_casts {s : State} {i : Issue} {e : Nat} {q : Range} (h : i.who = .range e)
    (hq : getRange s i.core e = some q) (f : Nat → Group → State) : Casts s (groupOnly s i f) i e q := by
  have hg : groupOnly s i f = castRange (breakIssue s i) i.core e := by unfold groupOnly; rw [h]
  unfold Casts
  rw [hg, breakIssue_range h hq, castRange, updRange_eq (getRange_setRange_same _ _ _ _), setRange_setRange]
  rfl

end Sys2Proof.Machine
end

