-- ==== Sys2Proof/Laws/Exec.lean ====
section
/-! SUPPORT. The arm of each instruction, as a lemma: `exec` of a constructor is its meaning. -/

namespace Sys2Proof.Machine

open Sys2Proof

theorem exec_nopScalar (s : State) : exec .nopScalar s = execNopScalar s := rfl
theorem exec_addScalar (d : Dst) (a b : Opd) (s : State) : exec (.addScalar d a b) s = execAddScalar d a b s := rfl
theorem exec_subScalar (d : Dst) (a b : Opd) (s : State) : exec (.subScalar d a b) s = execSubScalar d a b s := rfl
theorem exec_mulScalar (d : Dst) (a b : Opd) (s : State) : exec (.mulScalar d a b) s = execMulScalar d a b s := rfl
theorem exec_mulhScalar (d : Dst) (a b : Opd) (s : State) : exec (.mulhScalar d a b) s = execMulhScalar d a b s := rfl
theorem exec_divScalar (d : Dst) (a b : Opd) (s : State) : exec (.divScalar d a b) s = execDivScalar d a b s := rfl
theorem exec_remScalar (d : Dst) (a b : Opd) (s : State) : exec (.remScalar d a b) s = execRemScalar d a b s := rfl
theorem exec_addsScalar (d : Dst) (a b : Opd) (s : State) : exec (.addsScalar d a b) s = execAddsScalar d a b s := rfl
theorem exec_subsScalar (d : Dst) (a b : Opd) (s : State) : exec (.subsScalar d a b) s = execSubsScalar d a b s := rfl
theorem exec_mulsScalar (d : Dst) (a b : Opd) (s : State) : exec (.mulsScalar d a b) s = execMulsScalar d a b s := rfl
theorem exec_minScalar (d : Dst) (a b : Opd) (s : State) : exec (.minScalar d a b) s = execMinScalar d a b s := rfl
theorem exec_maxScalar (d : Dst) (a b : Opd) (s : State) : exec (.maxScalar d a b) s = execMaxScalar d a b s := rfl
theorem exec_satnScalar (d : Dst) (a b : Opd) (s : State) : exec (.satnScalar d a b) s = execSatnScalar d a b s := rfl
theorem exec_wrapnScalar (d : Dst) (a b : Opd) (s : State) : exec (.wrapnScalar d a b) s = execWrapnScalar d a b s := rfl
theorem exec_tminScalar (d : Dst) (a b : Opd) (s : State) : exec (.tminScalar d a b) s = execTminScalar d a b s := rfl
theorem exec_tmaxScalar (d : Dst) (a b : Opd) (s : State) : exec (.tmaxScalar d a b) s = execTmaxScalar d a b s := rfl
theorem exec_negScalar (d : Dst) (a : Opd) (s : State) : exec (.negScalar d a) s = execNegScalar d a s := rfl
theorem exec_tsumScalar (d : Dst) (a b : Opd) (s : State) : exec (.tsumScalar d a b) s = execTsumScalar d a b s := rfl
theorem exec_tmulScalar (d : Dst) (a b : Opd) (s : State) : exec (.tmulScalar d a b) s = execTmulScalar d a b s := rfl
theorem exec_absScalar (d : Dst) (a : Opd) (s : State) : exec (.absScalar d a) s = execAbsScalar d a s := rfl
theorem exec_shScalar (d : Dst) (a b : Opd) (s : State) : exec (.shScalar d a b) s = execShScalar d a b s := rfl
theorem exec_shsScalar (d : Dst) (a b : Opd) (s : State) : exec (.shsScalar d a b) s = execShsScalar d a b s := rfl
theorem exec_movScalar (d : MovDst) (a : Opd) (s : State) : exec (.movScalar d a) s = execMovScalar d a s := rfl
theorem exec_cmpScalar (d : Dst) (a b : Opd) (s : State) : exec (.cmpScalar d a b) s = execCmpScalar d a b s := rfl
theorem exec_ext (d : Dst) (a : Int) (s : State) : exec (.ext d a) s = execExt d a s := rfl
theorem exec_li (d : Dst) (m : Int) (s : State) : exec (.li d m) s = execLi d m s := rfl
theorem exec_liv (d : Dst) (m : Int) (s : State) : exec (.liv d m) s = execLiv d m s := rfl
theorem exec_armx (d : Dst) (m : Int) (s : State) : exec (.armx d m) s = execArmx d m s := rfl
theorem exec_army (d : Dst) (m : Int) (s : State) : exec (.army d m) s = execArmy d m s := rfl
theorem exec_armz (d : Dst) (m : Int) (s : State) : exec (.armz d m) s = execArmz d m s := rfl
theorem exec_ali (d : Nat) (m : Int) (s : State) : exec (.ali d m) s = execAli d m s := rfl
theorem exec_amov (d a : Nat) (s : State) : exec (.amov d a) s = execAmov d a s := rfl
theorem exec_aadv (d : Nat) (b : Opd) (s : State) : exec (.aadv d b) s = execAadv d b s := rfl
theorem exec_awin (d : Nat) (a b : Opd) (s : State) : exec (.awin d a b) s = execAwin d a b s := rfl
theorem exec_aperm (d : Nat) (a : Opd) (s : State) : exec (.aperm d a) s = execAperm d a s := rfl
theorem exec_aget (d : Dst) (a : Nat) (b : Int) (s : State) : exec (.aget d a b) s = execAget d a b s := rfl
theorem exec_acat (d : Nat) (a b : Opd) (s : State) : exec (.acat d a b) s = execAcat d a b s := rfl
theorem exec_br (b : Int) (s : State) : exec (.br b) s = execBr b s := rfl
theorem exec_loop (d : Nat) (b : Int) (s : State) : exec (.loop d b) s = execLoop d b s := rfl
theorem exec_ret (a : Nat) (s : State) : exec (.ret a) s = execRet a s := rfl
theorem exec_cut (d a : Nat) (s : State) : exec (.cut d a) s = execCut d a s := rfl
theorem exec_join (s : State) : exec .join s = execJoin s := rfl
theorem exec_joinD (a : Opd) (s : State) : exec (.joinD a) s = execJoinD a s := rfl
theorem exec_exit (s : State) : exec .exit s = execExit s := rfl
theorem exec_yield (s : State) : exec .yield s = execYield s := rfl
theorem exec_region (s : State) : exec .region s = execRegion s := rfl
theorem exec_safe (s : State) : exec .safe s = execSafe s := rfl
theorem exec_br3 (c : Nat) (tn tz tp : Int) (s : State) : exec (.br3 c tn tz tp) s = execBr3 c tn tz tp s := rfl
theorem exec_br3s (c : Nat) (tn tz tp : Int) (s : State) : exec (.br3s c tn tz tp) s = execBr3s c tn tz tp s := rfl
theorem exec_jmp (tz : Int) (s : State) : exec (.jmp tz) s = execJmp tz s := rfl
theorem exec_call (c : Nat) (tz : Int) (s : State) : exec (.call c tz) s = execCall c tz s := rfl
theorem exec_srd (d : Dst) (a : Opd) (s : State) : exec (.srd d a) s = execSrd d a s := rfl
theorem exec_swr (a b : Opd) (s : State) : exec (.swr a b) s = execSwr a b s := rfl
theorem exec_trap (a : Opd) (s : State) : exec (.trap a) s = execTrap a s := rfl
theorem exec_rft (s : State) : exec .rft s = execRft s := rfl
theorem exec_bkpt (a : Int) (s : State) : exec (.bkpt a) s = execBkpt a s := rfl
theorem exec_inval (d a : Nat) (b : Int) (s : State) : exec (.inval d a b) s = execInval d a b s := rfl
theorem exec_bkmode (a b : Opd) (s : State) : exec (.bkmode a b) s = execBkmode a b s := rfl
theorem exec_launch (d a : Nat) (s : State) : exec (.launch d a) s = execLaunch d a s := rfl
theorem exec_mbox (d a : Nat) (s : State) : exec (.mbox d a) s = execMbox d a s := rfl
theorem exec_share (d a : Nat) (b : Opd) (s : State) : exec (.share d a b) s = execShare d a b s := rfl
theorem exec_pcomp (a : Nat) (b : Opd) (s : State) : exec (.pcomp a b) s = execPcomp a b s := rfl
theorem exec_tcbsig (a : Nat) (s : State) : exec (.tcbsig a) s = execTcbsig a s := rfl
theorem exec_prog (a : Opd) (s : State) : exec (.prog a) s = execProg a s := rfl
theorem exec_nopVector (s : State) : exec .nopVector s = execNopVector s := rfl
theorem exec_addVector (d : Dst) (a b : Opd) (s : State) : exec (.addVector d a b) s = execAddVector d a b s := rfl
theorem exec_subVector (d : Dst) (a b : Opd) (s : State) : exec (.subVector d a b) s = execSubVector d a b s := rfl
theorem exec_mulVector (d : Dst) (a b : Opd) (s : State) : exec (.mulVector d a b) s = execMulVector d a b s := rfl
theorem exec_mulhVector (d : Dst) (a b : Opd) (s : State) : exec (.mulhVector d a b) s = execMulhVector d a b s := rfl
theorem exec_divVector (d : Dst) (a b : Opd) (s : State) : exec (.divVector d a b) s = execDivVector d a b s := rfl
theorem exec_remVector (d : Dst) (a b : Opd) (s : State) : exec (.remVector d a b) s = execRemVector d a b s := rfl
theorem exec_addsVector (d : Dst) (a b : Opd) (s : State) : exec (.addsVector d a b) s = execAddsVector d a b s := rfl
theorem exec_subsVector (d : Dst) (a b : Opd) (s : State) : exec (.subsVector d a b) s = execSubsVector d a b s := rfl
theorem exec_mulsVector (d : Dst) (a b : Opd) (s : State) : exec (.mulsVector d a b) s = execMulsVector d a b s := rfl
theorem exec_minVector (d : Dst) (a b : Opd) (s : State) : exec (.minVector d a b) s = execMinVector d a b s := rfl
theorem exec_maxVector (d : Dst) (a b : Opd) (s : State) : exec (.maxVector d a b) s = execMaxVector d a b s := rfl
theorem exec_satnVector (d : Dst) (a b : Opd) (s : State) : exec (.satnVector d a b) s = execSatnVector d a b s := rfl
theorem exec_wrapnVector (d : Dst) (a b : Opd) (s : State) : exec (.wrapnVector d a b) s = execWrapnVector d a b s := rfl
theorem exec_tminVector (d : Dst) (a b : Opd) (s : State) : exec (.tminVector d a b) s = execTminVector d a b s := rfl
theorem exec_tmaxVector (d : Dst) (a b : Opd) (s : State) : exec (.tmaxVector d a b) s = execTmaxVector d a b s := rfl
theorem exec_negVector (d : Dst) (a : Opd) (s : State) : exec (.negVector d a) s = execNegVector d a s := rfl
theorem exec_tsumVector (d : Dst) (a b : Opd) (s : State) : exec (.tsumVector d a b) s = execTsumVector d a b s := rfl
theorem exec_tmulVector (d : Dst) (a b : Opd) (s : State) : exec (.tmulVector d a b) s = execTmulVector d a b s := rfl
theorem exec_absVector (d : Dst) (a : Opd) (s : State) : exec (.absVector d a) s = execAbsVector d a s := rfl
theorem exec_shVector (d : Dst) (a b : Opd) (s : State) : exec (.shVector d a b) s = execShVector d a b s := rfl
theorem exec_shsVector (d : Dst) (a b : Opd) (s : State) : exec (.shsVector d a b) s = execShsVector d a b s := rfl
theorem exec_movVector (d : Dst) (a : Opd) (s : State) : exec (.movVector d a) s = execMovVector d a s := rfl
theorem exec_sgn (d : Dst) (a : Opd) (s : State) : exec (.sgn d a) s = execSgn d a s := rfl
theorem exec_fadd (d : Dst) (a b : Opd) (s : State) : exec (.fadd d a b) s = execFadd d a b s := rfl
theorem exec_fsub (d : Dst) (a b : Opd) (s : State) : exec (.fsub d a b) s = execFsub d a b s := rfl
theorem exec_fmul (d : Dst) (a b : Opd) (s : State) : exec (.fmul d a b) s = execFmul d a b s := rfl
theorem exec_fdiv (d : Dst) (a b : Opd) (s : State) : exec (.fdiv d a b) s = execFdiv d a b s := rfl
theorem exec_fsqrt (d : Dst) (a : Opd) (s : State) : exec (.fsqrt d a) s = execFsqrt d a s := rfl
theorem exec_fmin (d : Dst) (a b : Opd) (s : State) : exec (.fmin d a b) s = execFmin d a b s := rfl
theorem exec_fmax (d : Dst) (a b : Opd) (s : State) : exec (.fmax d a b) s = execFmax d a b s := rfl
theorem exec_fneg (d : Dst) (a : Opd) (s : State) : exec (.fneg d a) s = execFneg d a s := rfl
theorem exec_fabs (d : Dst) (a : Opd) (s : State) : exec (.fabs d a) s = execFabs d a s := rfl
theorem exec_fscl (d : Dst) (a b : Opd) (s : State) : exec (.fscl d a b) s = execFscl d a b s := rfl
theorem exec_fint (d : Dst) (a : Opd) (s : State) : exec (.fint d a) s = execFint d a s := rfl
theorem exec_fexp (d : Dst) (a : Opd) (s : State) : exec (.fexp d a) s = execFexp d a s := rfl
theorem exec_fexp3 (d : Dst) (a : Opd) (s : State) : exec (.fexp3 d a) s = execFexp3 d a s := rfl
theorem exec_flog (d : Dst) (a : Opd) (s : State) : exec (.flog d a) s = execFlog d a s := rfl
theorem exec_flog3 (d : Dst) (a : Opd) (s : State) : exec (.flog3 d a) s = execFlog3 d a s := rfl
theorem exec_frcp (d : Dst) (a : Opd) (s : State) : exec (.frcp d a) s = execFrcp d a s := rfl
theorem exec_frsqrt (d : Dst) (a : Opd) (s : State) : exec (.frsqrt d a) s = execFrsqrt d a s := rfl
theorem exec_fsin (d : Dst) (a : Opd) (s : State) : exec (.fsin d a) s = execFsin d a s := rfl
theorem exec_fcos (d : Dst) (a : Opd) (s : State) : exec (.fcos d a) s = execFcos d a s := rfl
theorem exec_ftanh (d : Dst) (a : Opd) (s : State) : exec (.ftanh d a) s = execFtanh d a s := rfl
theorem exec_fma (d : Dst) (a b c : Opd) (s : State) : exec (.fma d a b c) s = execFma d a b c s := rfl
theorem exec_fms (d : Dst) (a b c : Opd) (s : State) : exec (.fms d a b c) s = execFms d a b c s := rfl
theorem exec_fnma (d : Dst) (a b c : Opd) (s : State) : exec (.fnma d a b c) s = execFnma d a b c s := rfl
theorem exec_mad (d : Dst) (a b c : Opd) (s : State) : exec (.mad d a b c) s = execMad d a b c s := rfl
theorem exec_mads (d : Dst) (a b c : Opd) (s : State) : exec (.mads d a b c) s = execMads d a b c s := rfl
theorem exec_sel3 (d : Dst) (a b c : Opd) (x : Nat) (s : State) : exec (.sel3 d a b c x) s = execSel3 d a b c x s := rfl
theorem exec_clamp (d : Dst) (a b c : Opd) (s : State) : exec (.clamp d a b c) s = execClamp d a b c s := rfl
theorem exec_fclamp (d : Dst) (a b c : Opd) (s : State) : exec (.fclamp d a b c) s = execFclamp d a b c s := rfl
theorem exec_cmpVector (d : Nat) (a b : Opd) (s : State) : exec (.cmpVector d a b) s = execCmpVector d a b s := rfl
theorem exec_fcmp (d : Nat) (a b : Opd) (s : State) : exec (.fcmp d a b) s = execFcmp d a b s := rfl
theorem exec_fcls (d : Nat) (a : Opd) (s : State) : exec (.fcls d a) s = execFcls d a s := rfl
theorem exec_sgnMask (d : Nat) (a : Opd) (s : State) : exec (.sgnMask d a) s = execSgnMask d a s := rfl
theorem exec_kmin (d a b : Nat) (s : State) : exec (.kmin d a b) s = execKmin d a b s := rfl
theorem exec_kmax (d a b : Nat) (s : State) : exec (.kmax d a b) s = execKmax d a b s := rfl
theorem exec_kneg (d a : Nat) (s : State) : exec (.kneg d a) s = execKneg d a s := rfl
theorem exec_ksum (d a b : Nat) (s : State) : exec (.ksum d a b) s = execKsum d a b s := rfl
theorem exec_kmul (d a b : Nat) (s : State) : exec (.kmul d a b) s = execKmul d a b s := rfl
theorem exec_kval (d a : Nat) (s : State) : exec (.kval d a) s = execKval d a s := rfl
theorem exec_cvt (d : Dst) (a : Opd) (b : Int) (s : State) : exec (.cvt d a b) s = execCvt d a b s := rfl
theorem exec_frombin (d : Dst) (a : Opd) (b : Int) (s : State) : exec (.frombin d a b) s = execFrombin d a b s := rfl
theorem exec_tobin (d : Dst) (a : Opd) (b : Int) (s : State) : exec (.tobin d a b) s = execTobin d a b s := rfl
theorem exec_rot (d : Dst) (a b : Opd) (s : State) : exec (.rot d a b) s = execRot d a b s := rfl
theorem exec_slide (d : Dst) (a b : Opd) (s : State) : exec (.slide d a b) s = execSlide d a b s := rfl
theorem exec_shfl (d : Dst) (a b : Opd) (s : State) : exec (.shfl d a b) s = execShfl d a b s := rfl
theorem exec_bcast (d : Dst) (a b : Opd) (s : State) : exec (.bcast d a b) s = execBcast d a b s := rfl
theorem exec_radd (d : Dst) (a : Opd) (s : State) : exec (.radd d a) s = execRadd d a s := rfl
theorem exec_radds (d : Dst) (a : Opd) (s : State) : exec (.radds d a) s = execRadds d a s := rfl
theorem exec_rmin (d : Dst) (a : Opd) (s : State) : exec (.rmin d a) s = execRmin d a s := rfl
theorem exec_rmax (d : Dst) (a : Opd) (s : State) : exec (.rmax d a) s = execRmax d a s := rfl
theorem exec_rfadd (d : Dst) (a : Opd) (s : State) : exec (.rfadd d a) s = execRfadd d a s := rfl
theorem exec_rfmin (d : Dst) (a : Opd) (s : State) : exec (.rfmin d a) s = execRfmin d a s := rfl
theorem exec_rfmax (d : Dst) (a : Opd) (s : State) : exec (.rfmax d a) s = execRfmax d a s := rfl
theorem exec_kcnt (d : Dst) (a : Nat) (b : Int) (s : State) : exec (.kcnt d a b) s = execKcnt d a b s := rfl
theorem exec_kfirst (d : Dst) (a : Nat) (s : State) : exec (.kfirst d a) s = execKfirst d a s := rfl
theorem exec_sadd (d : Dst) (a : Opd) (s : State) : exec (.sadd d a) s = execSadd d a s := rfl
theorem exec_sadds (d : Dst) (a : Opd) (s : State) : exec (.sadds d a) s = execSadds d a s := rfl
theorem exec_smin (d : Dst) (a : Opd) (s : State) : exec (.smin d a) s = execSmin d a s := rfl
theorem exec_smax (d : Dst) (a : Opd) (s : State) : exec (.smax d a) s = execSmax d a s := rfl
theorem exec_sfadd (d : Dst) (a : Opd) (s : State) : exec (.sfadd d a) s = execSfadd d a s := rfl
theorem exec_ld9 (d a : Nat) (b : Opd) (s : State) : exec (.ld9 d a b) s = execLd9 d a b s := rfl
theorem exec_ld27 (d a : Nat) (b : Opd) (s : State) : exec (.ld27 d a b) s = execLd27 d a b s := rfl
theorem exec_ldb8 (d a : Nat) (b : Opd) (s : State) : exec (.ldb8 d a b) s = execLdb8 d a b s := rfl
theorem exec_ldb16 (d a : Nat) (b : Opd) (s : State) : exec (.ldb16 d a b) s = execLdb16 d a b s := rfl
theorem exec_ldb32 (d a : Nat) (b : Opd) (s : State) : exec (.ldb32 d a b) s = execLdb32 d a b s := rfl
theorem exec_ldw9 (d a : Nat) (b : Opd) (s : State) : exec (.ldw9 d a b) s = execLdw9 d a b s := rfl
theorem exec_ldw27 (d a : Nat) (b : Opd) (s : State) : exec (.ldw27 d a b) s = execLdw27 d a b s := rfl
theorem exec_lds27 (d a : Nat) (b : Opd) (s : State) : exec (.lds27 d a b) s = execLds27 d a b s := rfl
theorem exec_st9 (d a : Nat) (b : Opd) (s : State) : exec (.st9 d a b) s = execSt9 d a b s := rfl
theorem exec_st27 (d a : Nat) (b : Opd) (s : State) : exec (.st27 d a b) s = execSt27 d a b s := rfl
theorem exec_stb8 (d a : Nat) (b : Opd) (s : State) : exec (.stb8 d a b) s = execStb8 d a b s := rfl
theorem exec_stb16 (d a : Nat) (b : Opd) (s : State) : exec (.stb16 d a b) s = execStb16 d a b s := rfl
theorem exec_stb32 (d a : Nat) (b : Opd) (s : State) : exec (.stb32 d a b) s = execStb32 d a b s := rfl
theorem exec_stnt9 (d a : Nat) (b : Opd) (s : State) : exec (.stnt9 d a b) s = execStnt9 d a b s := rfl
theorem exec_stnt27 (d a : Nat) (b : Opd) (s : State) : exec (.stnt27 d a b) s = execStnt27 d a b s := rfl
theorem exec_sts27 (d a : Nat) (b : Opd) (s : State) : exec (.sts27 d a b) s = execSts27 d a b s := rfl
theorem exec_pf (a : Nat) (b : Opd) (s : State) : exec (.pf a b) s = execPf a b s := rfl
theorem exec_fenceAcq (a b : Int) (s : State) : exec (.fenceAcq a b) s = execFenceAcq a b s := rfl
theorem exec_fenceRel (a b : Int) (s : State) : exec (.fenceRel a b) s = execFenceRel a b s := rfl
theorem exec_fenceFull (a b : Int) (s : State) : exec (.fenceFull a b) s = execFenceFull a b s := rfl
theorem exec_fenceSc (a b : Int) (s : State) : exec (.fenceSc a b) s = execFenceSc a b s := rfl
theorem exec_lds54 (d a : Nat) (b : Opd) (s : State) : exec (.lds54 d a b) s = execLds54 d a b s := rfl
theorem exec_sts54 (d a : Nat) (b : Opd) (s : State) : exec (.sts54 d a b) s = execSts54 d a b s := rfl
theorem exec_ldsp (d a : Nat) (b : Opd) (s : State) : exec (.ldsp d a b) s = execLdsp d a b s := rfl
theorem exec_stsp (d a : Nat) (b : Opd) (s : State) : exec (.stsp d a b) s = execStsp d a b s := rfl
theorem exec_ldx9 (d : Nat) (a : Opd) (x : Nat) (e : Int) (s : State) : exec (.ldx9 d a x e) s = execLdx9 d a x e s := rfl
theorem exec_ldx27 (d : Nat) (a : Opd) (x : Nat) (e : Int) (s : State) : exec (.ldx27 d a x e) s = execLdx27 d a x e s := rfl
theorem exec_ldxb8 (d : Nat) (a : Opd) (x : Nat) (e : Int) (s : State) : exec (.ldxb8 d a x e) s = execLdxb8 d a x e s := rfl
theorem exec_ldxb16 (d : Nat) (a : Opd) (x : Nat) (e : Int) (s : State) : exec (.ldxb16 d a x e) s = execLdxb16 d a x e s := rfl
theorem exec_ldxb32 (d : Nat) (a : Opd) (x : Nat) (e : Int) (s : State) : exec (.ldxb32 d a x e) s = execLdxb32 d a x e s := rfl
theorem exec_ldpk (d : Nat) (a : Opd) (c : Int) (x : Nat) (e : Int) (s : State) : exec (.ldpk d a c x e) s = execLdpk d a c x e s := rfl
theorem exec_ldwx9 (d : Nat) (a : Opd) (c : Int) (x : Nat) (e : Int) (s : State) : exec (.ldwx9 d a c x e) s = execLdwx9 d a c x e s := rfl
theorem exec_ldwx27 (d : Nat) (a : Opd) (c : Int) (x : Nat) (e : Int) (s : State) : exec (.ldwx27 d a c x e) s = execLdwx27 d a c x e s := rfl
theorem exec_ld27Rlx (d : Nat) (a : Opd) (c : Int) (x : Nat) (e : Int) (s : State) : exec (.ld27Rlx d a c x e) s = execLd27Rlx d a c x e s := rfl
theorem exec_ld27Acq (d : Nat) (a : Opd) (c : Int) (x : Nat) (e : Int) (s : State) : exec (.ld27Acq d a c x e) s = execLd27Acq d a c x e s := rfl
theorem exec_stx9 (a b : Opd) (x : Nat) (e : Int) (s : State) : exec (.stx9 a b x e) s = execStx9 a b x e s := rfl
theorem exec_stx27 (a b : Opd) (x : Nat) (e : Int) (s : State) : exec (.stx27 a b x e) s = execStx27 a b x e s := rfl
theorem exec_stxb8 (a b : Opd) (x : Nat) (e : Int) (s : State) : exec (.stxb8 a b x e) s = execStxb8 a b x e s := rfl
theorem exec_stxb16 (a b : Opd) (x : Nat) (e : Int) (s : State) : exec (.stxb16 a b x e) s = execStxb16 a b x e s := rfl
theorem exec_stxb32 (a b : Opd) (x : Nat) (e : Int) (s : State) : exec (.stxb32 a b x e) s = execStxb32 a b x e s := rfl
theorem exec_stpk (a b : Opd) (c : Int) (x : Nat) (e : Int) (s : State) : exec (.stpk a b c x e) s = execStpk a b c x e s := rfl
theorem exec_st27Rlx (a b : Opd) (c : Int) (x : Nat) (e : Int) (s : State) : exec (.st27Rlx a b c x e) s = execSt27Rlx a b c x e s := rfl
theorem exec_st27Rel (a b : Opd) (c : Int) (x : Nat) (e : Int) (s : State) : exec (.st27Rel a b c x e) s = execSt27Rel a b c x e s := rfl
theorem exec_atmAdd (d : Nat) (a b : Opd) (c : Int) (x : Nat) (e : Int) (s : State) : exec (.atmAdd d a b c x e) s = execAtmAdd d a b c x e s := rfl
theorem exec_atmAdds (d : Nat) (a b : Opd) (c : Int) (x : Nat) (e : Int) (s : State) : exec (.atmAdds d a b c x e) s = execAtmAdds d a b c x e s := rfl
theorem exec_atmMin (d : Nat) (a b : Opd) (c : Int) (x : Nat) (e : Int) (s : State) : exec (.atmMin d a b c x e) s = execAtmMin d a b c x e s := rfl
theorem exec_atmMax (d : Nat) (a b : Opd) (c : Int) (x : Nat) (e : Int) (s : State) : exec (.atmMax d a b c x e) s = execAtmMax d a b c x e s := rfl
theorem exec_atmTmin (d : Nat) (a b : Opd) (c : Int) (x : Nat) (e : Int) (s : State) : exec (.atmTmin d a b c x e) s = execAtmTmin d a b c x e s := rfl
theorem exec_atmTmax (d : Nat) (a b : Opd) (c : Int) (x : Nat) (e : Int) (s : State) : exec (.atmTmax d a b c x e) s = execAtmTmax d a b c x e s := rfl
theorem exec_atmSwap (d : Nat) (a b : Opd) (c : Int) (x : Nat) (e : Int) (s : State) : exec (.atmSwap d a b c x e) s = execAtmSwap d a b c x e s := rfl
theorem exec_atmCas (d : Nat) (a b : Opd) (c : Int) (x : Nat) (e : Int) (s : State) : exec (.atmCas d a b c x e) s = execAtmCas d a b c x e s := rfl
theorem exec_atmFadd (d : Nat) (a b : Opd) (c : Int) (x : Nat) (e : Int) (s : State) : exec (.atmFadd d a b c x e) s = execAtmFadd d a b c x e s := rfl
theorem exec_mpass (d : Option Nat) (a b : Nat) (s : State) : exec (.mpass d a b) s = execMpass d a b s := rfl
theorem exec_mpassx (d : Option Nat) (a x : Nat) (e : Int) (s : State) : exec (.mpassx d a x e) s = execMpassx d a x e s := rfl
theorem exec_mdrain (d : Option Nat) (a b : Nat) (s : State) : exec (.mdrain d a b) s = execMdrain d a b s := rfl
theorem exec_mdrainx (d : Option Nat) (a x : Nat) (e : Int) (s : State) : exec (.mdrainx d a x e) s = execMdrainx d a x e s := rfl
theorem exec_mzero (a : Nat) (b : Int) (s : State) : exec (.mzero a b) s = execMzero a b s := rfl
theorem exec_mpin (d : Option Nat) (a : Nat) (s : State) : exec (.mpin d a) s = execMpin d a s := rfl
theorem exec_munpin (a : Nat) (s : State) : exec (.munpin a) s = execMunpin a s := rfl
theorem exec_cpy (d : Option Nat) (a : Nat) (s : State) : exec (.cpy d a) s = execCpy d a s := rfl
theorem exec_cpyx (d : Option Nat) (x : Nat) (e : Int) (s : State) : exec (.cpyx d x e) s = execCpyx d x e s := rfl
theorem exec_nbinit (a : Nat) (b : Opd) (s : State) : exec (.nbinit a b) s = execNbinit a b s := rfl
theorem exec_nbarr (d : Option Nat) (a : Nat) (b : Opd) (s : State) : exec (.nbarr d a b) s = execNbarr d a b s := rfl
theorem exec_nbarrx (d : Option Nat) (a : Nat) (b : Opd) (c : Int) (s : State) : exec (.nbarrx d a b c) s = execNbarrx d a b c s := rfl
theorem exec_nbwait (a : Nat) (b : Opd) (s : State) : exec (.nbwait a b) s = execNbwait a b s := rfl
theorem exec_nbwaitx (a : Nat) (b : Opd) (c : Int) (s : State) : exec (.nbwaitx a b c) s = execNbwaitx a b c s := rfl
theorem exec_nbget (d a : Nat) (s : State) : exec (.nbget d a) s = execNbget d a s := rfl
theorem exec_fpush (a : Opd) (b : Nat) (s : State) : exec (.fpush a b) s = execFpush a b s := rfl
theorem exec_fpop (d : Nat) (a : Opd) (s : State) : exec (.fpop d a) s = execFpop d a s := rfl
theorem exec_pclr (a : Nat) (b : Opd) (s : State) : exec (.pclr a b) s = execPclr a b s := rfl
theorem exec_qpost (d : Option Nat) (a : Nat) (s : State) : exec (.qpost d a) s = execQpost d a s := rfl
theorem exec_qstat (d : Option Nat) (a : Opd) (s : State) : exec (.qstat d a) s = execQstat d a s := rfl
theorem exec_leave (a : Opd) (s : State) : exec (.leave a) s = execLeave a s := rfl
theorem exec_unleave (s : State) : exec .unleave s = execUnleave s := rfl
theorem exec_issueChoice (core : Nat) (s : State) : exec (.issueChoice core) s = execIssueChoice core s := rfl
theorem exec_valueLanding (core ctx id : Nat) (s : State) : exec (.valueLanding core ctx id) s = execValueLanding core ctx id s := rfl
theorem exec_itemMove (core ctx slot : Nat) (s : State) : exec (.itemMove core ctx slot) s = execItemMove core ctx slot s := rfl
theorem exec_formerGroupIssue (core build : Nat) (s : State) : exec (.formerGroupIssue core build) s = execFormerGroupIssue core build s := rfl
theorem exec_formerIssueTimeout (core build : Nat) (s : State) : exec (.formerIssueTimeout core build) s = execFormerIssueTimeout core build s := rfl
theorem exec_teamCast (core entry : Nat) (s : State) : exec (.teamCast core entry) s = execTeamCast core entry s := rfl
theorem exec_rangeMerge (core family : Nat) (s : State) : exec (.rangeMerge core family) s = execRangeMerge core family s := rfl
theorem exec_teamDissolve (team : Nat) (s : State) : exec (.teamDissolve team) s = execTeamDissolve team s := rfl
theorem exec_drainingEnd (core ctx : Nat) (s : State) : exec (.drainingEnd core ctx) s = execDrainingEnd core ctx s := rfl
theorem exec_teamRetire (team : Nat) (s : State) : exec (.teamRetire team) s = execTeamRetire team s := rfl
theorem exec_launchCommand (q : Nat) (s : State) : exec (.launchCommand q) s = execLaunchCommand q s := rfl
theorem exec_abort (q : Nat) (s : State) : exec (.abort q) s = execAbort q s := rfl
theorem exec_noOperation (q : Nat) (s : State) : exec (.noOperation q) s = execNoOperation q s := rfl
theorem exec_doorbell (q : Nat) (v : Int) (s : State) : exec (.doorbell q v) s = execDoorbell q v s := rfl
theorem exec_hqCtlWrite (q : Nat) (v : Int) (s : State) : exec (.hqCtlWrite q v) s = execHqCtlWrite q v s := rfl
theorem exec_hqPtailWrite (q : Nat) (v : Int) (s : State) : exec (.hqPtailWrite q v) s = execHqPtailWrite q v s := rfl
theorem exec_completionRecordWrite (q : Nat) (s : State) : exec (.completionRecordWrite q) s = execCompletionRecordWrite q s := rfl
theorem exec_eventRecordWrite (s : State) : exec .eventRecordWrite s = execEventRecordWrite s := rfl
theorem exec_launchStart (lid : Nat) (s : State) : exec (.launchStart lid) s = execLaunchStart lid s := rfl
theorem exec_coResidencyCast (lid : Nat) (s : State) : exec (.coResidencyCast lid) s = execCoResidencyCast lid s := rfl
theorem exec_launchComplete (lid : Nat) (s : State) : exec (.launchComplete lid) s = execLaunchComplete lid s := rfl
theorem exec_workPacket (die : Nat) (s : State) : exec (.workPacket die) s = execWorkPacket die s := rfl
theorem exec_mboxPacketArrival (die : Nat) (s : State) : exec (.mboxPacketArrival die) s = execMboxPacketArrival die s := rfl
theorem exec_leaveGrant (die : Nat) (s : State) : exec (.leaveGrant die) s = execLeaveGrant die s := rfl
theorem exec_timeSliceExpiry (die lid : Nat) (s : State) : exec (.timeSliceExpiry die lid) s = execTimeSliceExpiry die lid s := rfl
theorem exec_shareSave (die lid : Nat) (s : State) : exec (.shareSave die lid) s = execShareSave die lid s := rfl
theorem exec_shareRestore (die lid : Nat) (s : State) : exec (.shareRestore die lid) s = execShareRestore die lid s := rfl
theorem exec_shadowSwap (core : Nat) (s : State) : exec (.shadowSwap core) s = execShadowSwap core s := rfl
theorem exec_shadowSwapBack (core : Nat) (s : State) : exec (.shadowSwapBack core) s = execShadowSwapBack core s := rfl
theorem exec_pageTableWalk (die walk : Nat) (s : State) : exec (.pageTableWalk die walk) s = execPageTableWalk die walk s := rfl
theorem exec_invalidationByRange (agent req : Nat) (s : State) : exec (.invalidationByRange agent req) s = execInvalidationByRange agent req s := rfl
theorem exec_drainedReport (agent req : Nat) (s : State) : exec (.drainedReport agent req) s = execDrainedReport agent req s := rfl
theorem exec_bkModeloWrite (core : Nat) (hi : Bool) (v : Int) (s : State) : exec (.bkModeloWrite core hi v) s = execBkModeloWrite core hi v s := rfl
theorem exec_bankConversion (core bank : Nat) (s : State) : exec (.bankConversion core bank) s = execBankConversion core bank s := rfl
theorem exec_waitingLoadRetry (core ctx : Nat) (s : State) : exec (.waitingLoadRetry core ctx) s = execWaitingLoadRetry core ctx s := rfl
theorem exec_fifoPushEntry (cluster bank : Nat) (s : State) : exec (.fifoPushEntry cluster bank) s = execFifoPushEntry cluster bank s := rfl
theorem exec_fifoPopRemove (cluster bank : Nat) (s : State) : exec (.fifoPopRemove cluster bank) s = execFifoPopRemove cluster bank s := rfl
theorem exec_scrubAtom (st : Nat) (s : State) : exec (.scrubAtom st) s = execScrubAtom st s := rfl
theorem exec_scrubLevelChange (st : Nat) (s : State) : exec (.scrubLevelChange st) s = execScrubLevelChange st s := rfl
theorem exec_scrubPeriodEnd (st : Nat) (s : State) : exec (.scrubPeriodEnd st) s = execScrubPeriodEnd st s := rfl
theorem exec_scCtlWrite (st : Nat) (v : Int) (s : State) : exec (.scCtlWrite st v) s = execScCtlWrite st v s := rfl
theorem exec_scStatusWrite (st : Nat) (v : Int) (s : State) : exec (.scStatusWrite st v) s = execScStatusWrite st v s := rfl
theorem exec_retraining (st ch : Nat) (s : State) : exec (.retraining st ch) s = execRetraining st ch s := rfl
theorem exec_forcedRetraining (st ch : Nat) (s : State) : exec (.forcedRetraining st ch) s = execForcedRetraining st ch s := rfl
theorem exec_miItabWrite (j : Nat) (v : Int) (s : State) : exec (.miItabWrite j v) s = execMiItabWrite j v s := rfl
theorem exec_miCtlLock (v : Int) (s : State) : exec (.miCtlLock v) s = execMiCtlLock v s := rfl
theorem exec_queryAccept (query : Nat) (s : State) : exec (.queryAccept query) s = execQueryAccept query s := rfl
theorem exec_expansion (query : Nat) (s : State) : exec (.expansion query) s = execExpansion query s := rfl
theorem exec_searchProbe (query node : Nat) (s : State) : exec (.searchProbe query node) s = execSearchProbe query node s := rfl
theorem exec_queryCompletion (query : Nat) (s : State) : exec (.queryCompletion query) s = execQueryCompletion query s := rfl
theorem exec_matrixPass (op : Nat) (s : State) : exec (.matrixPass op) s = execMatrixPass op s := rfl
theorem exec_drain (op : Nat) (s : State) : exec (.drain op) s = execDrain op s := rfl
theorem exec_blockCopy (op : Nat) (s : State) : exec (.blockCopy op) s = execBlockCopy op s := rfl
theorem exec_copyIntoRegisters (op : Nat) (s : State) : exec (.copyIntoRegisters op) s = execCopyIntoRegisters op s := rfl
theorem exec_trapEntry (core ctx : Nat) (s : State) : exec (.trapEntry core ctx) s = execTrapEntry core ctx s := rfl
theorem exec_rollback (core ctx : Nat) (reg : Option Reg) (s : State) : exec (.rollback core ctx reg) s = execRollback core ctx reg s := rfl
theorem exec_halt (core ctx : Nat) (s : State) : exec (.halt core ctx) s = execHalt core ctx s := rfl
theorem exec_resume (core ctx : Nat) (s : State) : exec (.resume core ctx) s = execResume core ctx s := rfl
theorem exec_step (core ctx : Nat) (s : State) : exec (.step core ctx) s = execStep core ctx s := rfl
theorem exec_readVectorLane (core ctx lane reg : Nat) (s : State) : exec (.readVectorLane core ctx lane reg) s = execReadVectorLane core ctx lane reg s := rfl
theorem exec_readScalar (core ctx reg : Nat) (s : State) : exec (.readScalar core ctx reg) s = execReadScalar core ctx reg s := rfl
theorem exec_readState (core ctx : Nat) (s : State) : exec (.readState core ctx) s = execReadState core ctx s := rfl
theorem exec_friezeSample (core : Nat) (s : State) : exec (.friezeSample core) s = execFriezeSample core s := rfl
theorem exec_causalTrialStart (die : Nat) (v : Int) (s : State) : exec (.causalTrialStart die v) s = execCausalTrialStart die v s := rfl
theorem exec_causalTrialEnd (die : Nat) (s : State) : exec (.causalTrialEnd die) s = execCausalTrialEnd die s := rfl
theorem exec_ckLoRead (core ctx : Nat) (s : State) : exec (.ckLoRead core ctx) s = execCkLoRead core ctx s := rfl
theorem exec_systemRegisterWrite (core ctx : Nat) (n v : Int) (s : State) : exec (.systemRegisterWrite core ctx n v) s = execSystemRegisterWrite core ctx n v s := rfl
theorem exec_hostWrite (addr : Nat) (l : List Nat) (s : State) : exec (.hostWrite addr l) s = execHostWrite addr l s := rfl
theorem exec_hostRead (addr : Nat) (s : State) : exec (.hostRead addr) s = execHostRead addr s := rfl
theorem exec_peerAccess (port : Nat) (block : Int) (w : List (Nat × Int)) (s : State) : exec (.peerAccess port block w) s = execPeerAccess port block w s := rfl
theorem exec_peerNegotiation (port gen : Nat) (base count outBase outCount : Int) (s : State) : exec (.peerNegotiation port gen base count outBase outCount) s = execPeerNegotiation port gen base count outBase outCount s := rfl
theorem exec_windowRegisterWrite (r v : Nat) (s : State) : exec (.windowRegisterWrite r v) s = execWindowRegisterWrite r v s := rfl
theorem exec_flitReceive (tail : Nat) (l : List Nat) (ok : Bool) (s : State) : exec (.flitReceive tail l ok) s = execFlitReceive tail l ok s := rfl
theorem exec_replay (tail good : Nat) (s : State) : exec (.replay tail good) s = execReplay tail good s := rfl
theorem exec_linkTraining (link ga gb : Nat) (s : State) : exec (.linkTraining link ga gb) s = execLinkTraining link ga gb s := rfl
theorem exec_widthReduction (die : Nat) (s : State) : exec (.widthReduction die) s = execWidthReduction die s := rfl
theorem exec_frequencyChange (die : Nat) (s : State) : exec (.frequencyChange die) s = execFrequencyChange die s := rfl
theorem exec_readShared (m : Msg) (s : State) : exec (.readShared m) s = execReadShared m s := rfl
theorem exec_readOwned (m : Msg) (s : State) : exec (.readOwned m) s = execReadOwned m s := rfl
theorem exec_upgrade (m : Msg) (s : State) : exec (.upgrade m) s = execUpgrade m s := rfl
theorem exec_writeBack (m : Msg) (s : State) : exec (.writeBack m) s = execWriteBack m s := rfl
theorem exec_partialWrite (m : Msg) (s : State) : exec (.partialWrite m) s = execPartialWrite m s := rfl
theorem exec_atomicRequest (m : Msg) (s : State) : exec (.atomicRequest m) s = execAtomicRequest m s := rfl
theorem exec_evictionNotice (m : Msg) (s : State) : exec (.evictionNotice m) s = execEvictionNotice m s := rfl
theorem exec_invalidate (m : Msg) (s : State) : exec (.invalidate m) s = execInvalidate m s := rfl
theorem exec_downgrade (m : Msg) (s : State) : exec (.downgrade m) s = execDowngrade m s := rfl
theorem exec_fetchAndInvalidate (m : Msg) (s : State) : exec (.fetchAndInvalidate m) s = execFetchAndInvalidate m s := rfl
theorem exec_data (m : Msg) (s : State) : exec (.data m) s = execData m s := rfl
theorem exec_acknowledge (m : Msg) (s : State) : exec (.acknowledge m) s = execAcknowledge m s := rfl
theorem exec_dataDirty (m : Msg) (s : State) : exec (.dataDirty m) s = execDataDirty m s := rfl
theorem exec_acknowledgeAlreadyWrittenBack (m : Msg) (s : State) : exec (.acknowledgeAlreadyWrittenBack m) s = execAcknowledgeAlreadyWrittenBack m s := rfl
theorem exec_errorResponse (m : Msg) (s : State) : exec (.errorResponse m) s = execErrorResponse m s := rfl
theorem exec_mailboxPacket (m : Msg) (s : State) : exec (.mailboxPacket m) s = execMailboxPacket m s := rfl
theorem exec_linkManagement (m : Msg) (s : State) : exec (.linkManagement m) s = execLinkManagement m s := rfl
theorem exec_generation (s : State) : exec .generation s = execGeneration s := rfl
theorem exec_loadKeySlot (s : State) : exec .loadKeySlot s = execLoadKeySlot s := rfl
theorem exec_clearKeySlot (s : State) : exec .clearKeySlot s = execClearKeySlot s := rfl
theorem exec_operatingPoint (s : State) : exec .operatingPoint s = execOperatingPoint s := rfl
theorem exec_quote (s : State) : exec .quote s = execQuote s := rfl
theorem exec_dieMap (s : State) : exec .dieMap s = execDieMap s := rfl
theorem exec_imageUpload (s : State) : exec .imageUpload s = execImageUpload s := rfl
theorem exec_transportKey (s : State) : exec .transportKey s = execTransportKey s := rfl
theorem exec_powerOn (b : BringUp) (s : State) : exec (.powerOn b) s = execPowerOn b s := rfl
theorem exec_packageReset (s : State) : exec .packageReset s = execPackageReset s := rfl
theorem exec_malformedCommand (q : Nat) (s : State) : exec (.malformedCommand q) s = execMalformedCommand q s := rfl
theorem exec_lgBudgetWrite (die : Nat) (v : Int) (s : State) : exec (.lgBudgetWrite die v) s = execLgBudgetWrite die v s := rfl
theorem exec_peerPortDown (port : Nat) (s : State) : exec (.peerPortDown port) s = execPeerPortDown port s := rfl

end Sys2Proof.Machine
end

