-- ==== Sys2Proof/Laws/Vector.lean ====
section
/-! SUPPORT. The shared operations of the vector pipe, each said once: what a write leaves in each lane, what a lane-by-lane
operation answers. -/

namespace Sys2Proof.Machine

open Sys2Proof

/-! ## Lanes -/

theorem storedVal_eq_laneVal (v : VReg) {items : SMap Item} {k : Nat} (h : (mfind items k).isSome = true) :
    storedVal v items k = laneVal v items k := by
  obtain ⟨it, hi⟩ := Option.isSome_iff_exists.mp h
  cases v <;> simp [storedVal, laneVal, hi]

theorem getD_map_range (w k : Nat) (f : Nat → Int) (h : k < w) : ((List.range w).map f).getD k 0 = f k := by
  simp [List.getD, h]

/-- Every slot of an occupied lane is listed. -/
theorem mem_occupied {g : Group} {k : Nat} (h : (mfind g.items k).isSome = true) : k ∈ occupied g := by
  unfold occupied
  generalize g.items = m at h
  induction m with
  | nil => simp [mfind] at h
  | cons e t ih =>
    obtain ⟨j, w⟩ := e
    simp only [mfind] at h
    by_cases hk : k = j
    · simp [hk]
    · simp only [hk, ↓reduceIte] at h
      simpa using .inr (by simpa using ih h)

/-- A write of a vector register: in the lanes of the guard the result, in the others what was there. -/
theorem laneVal_merged (g : Group) (i : Issue) (old res : VReg) {k : Nat} (hk : k < g.width)
    (ho : (mfind g.items k).isSome = true) :
    laneVal (merged g i old res) g.items k = if k ∈ i.guard then laneVal res g.items k else laneVal old g.items k := by
  have full : laneVal (.f ((List.range g.width).map fun k =>
      if i.guard.contains k then storedVal res g.items k else storedVal old g.items k)) g.items k =
        if k ∈ i.guard then laneVal res g.items k else laneVal old g.items k := by
    obtain ⟨it, hi⟩ := Option.isSome_iff_exists.mp ho
    rw [laneVal]
    simp only [hi]
    rw [getD_map_range _ _ _ hk]
    simp [storedVal_eq_laneVal _ ho]
  have all : covers g i = true → k ∈ i.guard := fun hc => by
    simpa using List.all_eq_true.mp hc k (mem_occupied ho)
  unfold merged
  cases hc : covers g i
  · exact full
  · cases res with
    | f l => exact full
    | u b => simp [all hc]
    | a b x y z => simp [all hc]

/-- A result that covers the group keeps its form where that is U or A. -/
theorem merged_covers {g : Group} {i : Issue} (h : covers g i = true) (old : VReg) {res : VReg} (hf : isF res = false) :
    merged g i old res = res := by
  unfold merged
  rw [h]
  cases res <;> simp_all [isF]

/-- A register that a handler may write in every form. -/
theorem handlerAllows_of_free {g : Group} {n : Nat} (h : WriteFree g n) (v : VReg) : handlerAllows g n v = true := by
  rcases h with h | ⟨k, hk, hf⟩
  · simp [handlerAllows, h]
  · simp [handlerAllows, hk, hf]

/-! ## Flags -/

theorem Flags.or_none (f : Flags) : f.or Flags.none = f := by
  cases f; simp [Flags.or, Flags.none]

/-- Flags raised in a group. -/
theorem setFlags_group {s : State} {i : Issue} {c : Nat} {g : Group} (h : i.who = .group c)
    (hg : getGroup s i.core c = some g) (fl : Flags) :
    (setFlags s i fl = s ∧ g.r.sticky.or fl = g.r.sticky) ∨
      setFlags s i fl = setGroup s i.core c { g with r := { g.r with sticky := g.r.sticky.or fl } } := by
  unfold setFlags
  by_cases hf : fl = Flags.none
  · exact .inl (by simp [hf, Flags.or_none])
  · refine .inr ?_
    simp only [hf, ↓reduceIte, h, updRegs]
    rw [updGroup_eq hg]
    rfl

/-- Flags, then a vector register, of a group. -/
theorem setV_setFlags {s : State} {i : Issue} {c : Nat} {g : Group} (h : i.who = .group c)
    (hg : getGroup s i.core c = some g) (fl : Flags) (n : Nat) (v : VReg) :
    ∃ rg, setV (setFlags s i fl) i n v = setGroup s i.core c
      { g with r := { g.r with v := mput (.u 0) g.r.v n v, sticky := g.r.sticky.or fl }, region := rg } := by
  rcases setFlags_group h hg fl with ⟨h1, h2⟩ | h1
  · rw [h1, setV, h, updRegs_region_group hg, h2]
    exact ⟨_, rfl⟩
  · rw [h1, setV, h, updRegs_region_group (getGroup_setGroup_same _ _ _ _), setGroup_setGroup]
    exact ⟨_, rfl⟩

/-! ## Vector results -/

/-- A vector result at a register of a group that admits it. -/
theorem vwrite_done {s : State} {i : Issue} {c : Nat} {g : Group} (h : i.who = .group c)
    (hg : getGroup s i.core c = some g) {n : Nat} (hw : WriteFree g n) {res : VReg} (fl : Flags)
    (hn : n < g.nf ∨ covers g i = true ∧ isF res = false) :
    VectorDone s (vwrite s i (.reg n false) res fl) i c g n (fun k => laneVal res g.items k) fl := by
  have ok : (isF (merged g i (mget (.u 0) g.r.v n) res) && decide (g.nf ≤ n)) = false := by
    rcases hn with hn | ⟨hc, hf⟩
    · simp; omega
    · rw [merged_covers hc _ hf, hf]; rfl
  have eq : vwrite s i (.reg n false) res fl =
      setV (setFlags s i fl) i n (merged g i (mget (.u 0) g.r.v n) res) := by
    unfold vwrite
    simp only [h, hg, ok, handlerAllows_of_free hw]
    simp
  obtain ⟨rg, hr⟩ := setV_setFlags h hg fl n (merged g i (mget (.u 0) g.r.v n) res)
  rw [eq, hr]
  refine ⟨_, rg, rfl, fun j hj => ?_, fun k hk ho => ?_⟩
  · simp [mget_mput, hj]
  · rw [mget_mput_same]
    exact laneVal_merged g i _ res hk ho

/-- Only the lanes of the guard matter. -/
theorem VectorDone.congr {s t : State} {i : Issue} {c n : Nat} {g : Group} {f f' : Nat → Int} {fl : Flags}
    (h : VectorDone s t i c g n f fl)
    (he : ∀ k, k < g.width → (mfind g.items k).isSome = true → k ∈ i.guard → f k = f' k) :
    VectorDone s t i c g n f' fl := by
  obtain ⟨m, rg, h1, h2, h3⟩ := h
  refine ⟨m, rg, h1, h2, fun k hk ho => ?_⟩
  rw [h3 k hk ho]
  by_cases hm : k ∈ i.guard
  · simp [hm, he k hk ho hm]
  · simp [hm]

/-- A form F result holds its function in the lanes given. -/
theorem laneVal_lanesOf {w : Nat} {slots : List Nat} {f : Nat → Int} {items : SMap Item} {k : Nat} (hk : k < w)
    (ho : (mfind items k).isSome = true) (hs : k ∈ slots) : laneVal (lanesOf w slots f) items k = f k := by
  obtain ⟨it, hi⟩ := Option.isSome_iff_exists.mp ho
  unfold lanesOf laneVal
  simp only [hi]
  rw [getD_map_range _ _ _ hk]
  simp [hs]

/-- A uniform register reads alike in every lane. -/
theorem laneVal_uniform {v : VReg} (h : isU v = true) (items : SMap Item) (k : Nat) : laneVal v items k = uVal v := by
  cases v <;> simp_all [isU, laneVal, uVal]

/-- One flag from many equal ones. -/
theorem allFlags_same (fl : Flags) {l : List Nat} (h : l ≠ []) : allFlags (l.map fun _ => fl) = fl := by
  have idem : ∀ m : List Nat, (m.map fun _ => fl).foldl Flags.or fl = fl := by
    intro m
    induction m with
    | nil => rfl
    | cons a t ih =>
      simp only [List.map_cons, List.foldl_cons]
      rw [show fl.or fl = fl by cases fl; simp [Flags.or]]
      exact ih
  cases l with
  | nil => exact absurd rfl h
  | cons a t =>
    simp only [allFlags, List.map_cons, List.foldl_cons]
    rw [show Flags.none.or fl = fl by cases fl; simp [Flags.or, Flags.none]]
    exact idem t

/-- A lane-by-lane operation of a group: where its armature result agrees with its function in every lane, its result is that
function of each lane's values. -/
theorem vectorAlu_done {s : State} {i : Issue} {c : Nat} {g : Group} (h : GroupRuns s i c g) {n : Nat}
    (hw : WriteFree g n) (ops : List Opd) (arm : List VReg → Option VReg) (f : List Int → Int × Flags)
    (hn : n < g.nf ∨ covers g i = true ∧ ∀ o ∈ ops, isU (vsrc s i g.width o) = true)
    (ha : ∀ v, arm (ops.map (vsrc s i g.width)) = some v →
      isF v = false ∧ (∀ l, (f l).2 = Flags.none) ∧
      ∀ k, (mfind g.items k).isSome = true → laneVal v g.items k = (f (laneVals s i g ops k)).1) :
    ∃ t, vectorAlu s (.reg n false) ops arm f = .next t ∧
      VectorDone s t i c g n (fun k => (f (laneVals s i g ops k)).1)
        (allFlags (i.guard.map fun k => (f (laneVals s i g ops k)).2)) := by
  obtain ⟨hs, hgd, hwho, hg⟩ := h
  have eq : vectorAlu s (.reg n false) ops arm f = .next (
      match arm (ops.map (vsrc s i g.width)) with
      | some v => vwrite s i (.reg n false) v Flags.none
      | none =>
        if (ops.map (vsrc s i g.width)).all isU then
          let r := f ((ops.map (vsrc s i g.width)).map uVal)
          vwrite s i (.reg n false) (.u r.1) r.2
        else
          vwrite s i (.reg n false)
            (lanesOf g.width i.guard fun l => (f ((ops.map (vsrc s i g.width)).map fun v => laneVal v g.items l)).1)
            (allFlags (i.guard.map fun l => (f ((ops.map (vsrc s i g.width)).map fun v => laneVal v g.items l)).2))) := by
    unfold vectorAlu
    rw [inIssue_next hs]
    simp only [hgd, ↓reduceIte, hwho, hg]
    try rfl
  rw [eq]
  refine ⟨_, rfl, ?_⟩
  have vals : ∀ k, laneVals s i g ops k = (ops.map (vsrc s i g.width)).map fun v => laneVal v g.items k := fun k => by
    simp [laneVals]
  cases ho : arm (ops.map (vsrc s i g.width)) with
  | some v =>
    obtain ⟨hf, hfl, hl⟩ := ha v ho
    have fl : allFlags (i.guard.map fun k => (f (laneVals s i g ops k)).2) = Flags.none := by
      simp only [hfl]
      exact allFlags_same _ hgd
    rw [fl]
    refine (vwrite_done hwho hg hw Flags.none ?_).congr fun k _ hk _ => hl k hk
    exact hn.imp id fun hc => ⟨hc.1, hf⟩
  | none =>
    by_cases hall : (ops.map (vsrc s i g.width)).all isU = true
    · have uni : ∀ k, laneVals s i g ops k = (ops.map (vsrc s i g.width)).map uVal := fun k => by
        rw [vals]
        apply List.map_congr_left
        intro v hv
        exact laneVal_uniform (List.all_eq_true.mp hall v hv) _ _
      simp only [hall, ↓reduceIte, uni]
      rw [allFlags_same _ hgd]
      exact vwrite_done hwho hg hw _ (hn.imp id fun hc => ⟨hc.1, rfl⟩)
    · simp only [hall, Bool.false_eq_true, ↓reduceIte, vals]
      have hnf : n < g.nf := by
        rcases hn with hn | ⟨_, hc⟩
        · exact hn
        · exact absurd (by simpa using hc) hall
      exact (vwrite_done hwho hg hw _ (.inl hnf)).congr fun k hk ho hm => laneVal_lanesOf hk ho hm

end Sys2Proof.Machine
end

