-- ==== Sys2Proof/Tests/Slice0.lean ====
section
/-! SUPPORT. Tests: ill-formed operands that the check refuses, words of the spec that decode, worked cases of the spec, and for
each claim with hypotheses a state and operands that meet them. -/

namespace Sys2Proof.Tests

set_option Elab.async false

open Sys2Proof Sys2Proof.Machine Sys2Proof.Claims

/-! ## Small states -/

/-- A group of nine lanes in the issue slot of core 0, its guard true in every lane. -/
def iss : Issue := { core := 0, who := .group 0, pc := placedPc, guard := List.range 9 }
/-- The state with that group. -/
def grp (g : Group) : State :=
  { (setGroup (State.reset.withFetchWord 162 0) 0 0 g) with issue := some iss }
/-- The group with some registers. -/
def gWith (r : Regs) : Group := { placedGroup with r := r }
def sG : State := grp placedGroup
/-- A range of items 0 to 26 in its place. -/
def rIss : Issue := { core := 0, who := .range 0, pc := placedPc, guard := [0] }
def sR (q : Range) : State :=
  let s := setRange (delGroup (State.reset.withFetchWord 162 0) 0 0) 0 0 q
  { s with issue := some rIss }
def rng : Range := { lid := 1, p1 := 26, pc := placedPc }

/-! ## Ill-formed operands (08; one for each check of WellFormed) -/

theorem refused_field : (Instr.addScalar (.reg 243 false) (.imm 0) (.imm 0)).wf = false := by decide

/-! ## The bundle and the step -/

def pairBundle : Bundle :=
  let v : Instr := .addVector (.reg 3 false) (.shared 84) (.imm (-5))
  { gmask := 2, gtest := 1, body := .pair v (.addScalar (.reg 4 true) (.reg 4) (.shared 0)) }
theorem witness_admitted : Admitted pairBundle :=
  ⟨by decide, by decide, by decide, by decide, by decide, by decide, by decide, by decide, by decide⟩
theorem witness_admitted_wide :
    Admitted { gmask := 4, gtest := 0, body := .wide (.ld27Acq 5 (.reg 3) 80 2 4) } :=
  ⟨by decide, by decide, by decide, by decide, by decide, by decide⟩

theorem witness_group : GroupRuns sG iss 0 placedGroup ∧ Runs sG iss :=
  ⟨⟨rfl, by decide, rfl, by decide⟩, rfl, by decide, by decide⟩
theorem witness_range : RangeRuns (sR rng) rIss 0 rng ∧ Runs (sR rng) rIss :=
  ⟨⟨rfl, by decide, rfl, by decide⟩, rfl, by decide, by decide⟩

/-- The group with a bundle of the spec's worked encodings in its fetch buffer (08 "A worked encoding"). -/
def sBundle (l : List Int) : State :=
  updCore sG 0 fun c => { c with fetch := [{ lid := 1, addr := placedPc, value := bundleOfNonets l }] }
theorem witness_step : let s := sBundle [-3273, -8787, 6563, -8912, 1122, -4131]
    s.issue = some iss ∧ slotReady s iss = true ∧
    bundleFor s 0 (.group 0) = some (bundleOfNonets [-3273, -8787, 6563, -8912, 1122, -4131]) :=
  by decide +kernel
theorem witness_step_goes : let s : State := { State.reset with issue := some iss }
    s.canon = true ∧ ∃ t, step s = .next t := ⟨by decide, _, rfl⟩
theorem witness_canon : State.reset.canon = true ∧ (sBundle [0]).canon = true := by decide
theorem witness_illegal : ∃ e, decodeBundle (bundleOfNonets [0, 0, 0, 0, 0, 9841]) = .error e := ⟨_, rfl⟩
theorem witness_bundle_in : InTrits 54 (bundleOfNonets [-3273, -8787, 6563, -8912, 1122, -4131]) := by
  unfold InTrits; decide

/-! ## Scalar and address registers (09) -/

theorem witness_ScalarResult : scalarLaw (.addScalar (.reg 1 false) (.imm 2) (.reg 3)) ≠ none ∧ ReadsPlace iss [.imm 2, .reg 3] ∧
    ReadsPlace rIss [.imm 2] := by
  exact ⟨by simp [scalarLaw], by simp [ReadsPlace, inRange, iss], by simp [ReadsPlace, sCasts]⟩
/-- R217: `mulh` of 3^26 and 3 is 1, `mul` is 0. -/
theorem test_mulh : mulh (3 ^ 26) 3 = 1 ∧ wrap 27 (3 ^ 26 * 3) = 0 := by decide
/-- R16, the table. -/
theorem test_division : (divq 8 3, remq 8 3) = (3, -1) ∧ (divq 7 2, remq 7 2) = (3, 1) ∧ (divq (-7) 2, remq (-7) 2) = (-3, -1) ∧
    (divq 5 (-2), remq 5 (-2)) = (-2, 1) ∧ (divq 9 0, remq 9 0) = (0, 9) := by decide
/-- R9: x = 16. -/
theorem test_wrap : wrap 3 16 = -11 ∧ sat 3 16 = 13 := by decide
/-- R17: 0t+0- = 8 and 0t-+- = -7. -/
theorem test_tritwise : tmin 8 (-7) = -10 ∧ tmax 8 (-7) = 11 ∧ tsum 8 (-7) = 4 ∧ tmul 8 (-7) = -8 := by decide
/-- R219: a format of width 3 with one exponent trit and special values, and one that it does not. -/
theorem witness_MovAndExt : (ffmtOf (3 * 3 ^ 9 + 3 ^ 6 + 1)).isSome = true ∧ ffmtOf 0 = none := by decide

/-! ## Ill-formed operands: one for each check -/

theorem refused_sources : [Instr.negScalar (.reg 0 false) (.reg 81), .negScalar (.reg 0 false) (.reg 166), .negScalar (.reg 0 false) (.shared 84),
    .negScalar (.reg 0 false) (.shared 92), .negScalar (.reg 0 false) (.imm 122), .movScalar (.fm 0) (.reg 126),
    .negVector (.reg 0 false) (.reg 243), .negVector (.reg 0 false) (.shared 92), .rot (.reg 0 false) (.reg 0) (.shared 87),
    .lds27 0 0 (.reg 0), .lds27 0 0 (.shared 84)].all (fun i => !i.wf) = true := by decide
theorem refused_destinations : [Instr.negScalar (.reg 81 false) (.imm 0), .negVector (.reg 243 false) (.imm 0), .armx .latchOnly 0,
    .cut 0 0, .cut 9 0, .movScalar (.k 0) (.imm 0), .movScalar (.fm 9) (.imm 0), .movScalar (.s (.reg 81 false)) (.imm 0), .mpin (some 81) 0,
    .lds54 80 0 (.imm 0), .ldsp 27 0 (.imm 0), .nbarrx none 0 (.imm 1) 2, .nbarrx none 0 (.imm 1) 65].all (fun i => !i.wf) = true := by decide
theorem refused_fields : [Instr.li (.reg 0 false) (3 ^ 27), .br 122, .jmp (3 ^ 12), .ext (.reg 0 false) 7, .aget (.reg 0 false) 0 5, .amov 27 0,
    .inval 0 79 0, .fenceAcq 6 1, .fenceAcq 1 64, .cvt (.reg 0 false) (.imm 0) 98, .frombin (.reg 0 false) (.imm 0) 63, .ldpk 0 (.imm 0) 10 0 0,
    .ldx9 0 (.imm 0) 27 0, .ldx9 0 (.imm 0) 0 (3 ^ 13), .atmAdd 0 (.imm 0) (.imm 0) 21 0 0, .ld27Acq 0 (.imm 0) 96 0 0, .mzero 0 10,
    .kcnt (.reg 0 false) 0 2, .sel3 (.reg 0 false) (.imm 0) (.imm 0) (.imm 0) 9, .bkpt 122].all (fun i => !i.wf) = true := by decide
theorem refused_events : [Instr.issueChoice 729, .valueLanding 0 27 0, .itemMove 0 0 81, .launchCommand 81, .malformedCommand 82, .workPacket 9,
    .invalidationByRange 20 0, .bankConversion 0 36, .fifoPushEntry 243 0, .fifoPushEntry 0 108, .scrubAtom 9, .miItabWrite 9 0,
    .readScalar 0 0 81, .readVectorLane 0 0 0 243, .peerAccess 8 0 [], .windowRegisterWrite 4 0, .flitReceive 54 [] true,
    .linkTraining 27 0 0].all (fun i => !i.wf) = true := by decide

/-! ## Words written out from the tables of 08 to 11 -/

/-- A half (R199): opcode at trit 19, destination at 14, the kinds at 13 and 7, the fields at 8 and 2, the mode at 1. -/
def halfW (op d ka a kb b m : Int) : Int := op * 3 ^ 19 + d * 3 ^ 14 + ka * 3 ^ 13 + a * 3 ^ 8 + kb * 3 ^ 7 + b * 3 ^ 2 + m * 3
/-- A pair with one half, the other all 0 (R196, R205). -/
def scalarW (op d ka a kb b m : Int) : Option Bundle := (decodeBundle (halfW op d ka a kb b m)).toOption
def vectorW (op d ka a kb b m : Int) : Option Bundle := (decodeBundle (halfW op d ka a kb b m * 3 ^ 24)).toOption
/-- A wide instruction: layout + at trit 48, opcode at 43, destination at 38, and what its shape holds (R200). -/
def wideW (op d rest : Int) : Option Bundle := (decodeBundle (3 ^ 48 + op * 3 ^ 43 + d * 3 ^ 38 + rest)).toOption
def scalarIs (r : Option Bundle) (i : Instr) : Bool := r == some { gmask := 4, gtest := 0, body := .pair .nopVector i }
def vectorIs (r : Option Bundle) (i : Instr) : Bool := r == some { gmask := 4, gtest := 0, body := .pair i .nopScalar }
def wideIs (r : Option Bundle) (i : Instr) : Bool := r == some { gmask := 4, gtest := 0, body := .wide i }

/-- Scalar map, blocks 0 to +3 (R217, R218, R222, R227, R236 ff., R284). A register `s n` is field n - 121, `a n` n - 40, `nb n` n + 5. -/
theorem decodes_scalar : scalarIs (scalarW 13 (-116) 0 (-119) 1 (-7) 1) (.wrapnScalar (.reg 5 true) (.reg 2) (.imm (-7))) &&
    scalarIs (scalarW 17 0 0 (-119) (-1) (-121) (-1)) (.cmpScalar .latchOnly (.reg 2) (.shared 0)) &&
    scalarIs (scalarW (-16) (-37) 1 0 1 80 0) (.awin 3 (.imm 0) (.imm 80)) &&
    scalarIs (scalarW 42 (-120) 0 0 1 (-3) 0) (.loop 1 (-3)) && scalarIs (scalarW 44 (-11) 0 (-121) 0 0 0) (.cut 2 0) &&
    scalarIs (scalarW (-42) 0 1 7 0 (-118) 0) (.swr (.imm 7) (.reg 3)) &&
    scalarIs (scalarW (-50) (-112) 0 (-38) 1 2 0) (.share 9 2 (.imm 2)) && scalarIs (scalarW 75 0 0 9 0 (-120) 0) (.nbarr none 4 (.reg 1)) &&
    scalarIs (scalarW 79 (-117) 1 5 0 0 0) (.fpop 4 (.imm 5)) = true := by decide +kernel
/-- The worked encoding of 11: `mpass s3, a1, z3`. -/
theorem decodes_mpass : scalarIs (decodeBundle (bundleOfNonets [315, -9004, 203, 0, 0, 0])).toOption (.mpass (some 3) 1 3) = true := by decide +kernel
/-- Vector map, blocks 0, +1, -1, +2, -2, +3 (R251 to R279). -/
theorem decodes_vector : vectorIs (vectorW (-8) (-117) 0 (-120) 1 2 0) (.shsVector (.reg 4 false) (.reg 1) (.imm 2)) &&
    vectorIs (vectorW 14 (-117) 0 (-120) (-1) (-37) 1) (.fadd (.reg 4 true) (.reg 1) (.shared 84)) &&
    vectorIs (vectorW (-14) (-119) 0 (-120) 0 121 0) (.cmpVector 2 (.reg 1) (.reg 242)) &&
    vectorIs (vectorW (-18) (-119) 0 (-121) 0 (-113) 0) (.kmin 2 0 8) && vectorIs (vectorW 41 (-120) 0 (-119) 1 (-56) 0) (.cvt (.reg 1 false) (.reg 2) (-56)) &&
    vectorIs (vectorW (-52) (-120) 0 (-118) 1 (-1) 0) (.kcnt (.reg 1 false) 3 (-1)) &&
    vectorIs (vectorW 69 (-117) 0 (-39) 0 (-118) 0) (.ld27 4 1 (.reg 3)) && vectorIs (vectorW 89 (-117) 0 (-39) 1 6 0) (.lds54 4 1 (.imm 6)) &&
    vectorIs (vectorW 85 0 1 5 1 63 0) (.fenceAcq 5 63) = true := by decide +kernel
/-- Wide map: shapes WI, WB and WR (R220, R229, R255, R276, R284). -/
theorem decodes_wide : wideIs (wideW 1 (-119) (123456 * 3)) (.li (.reg 2 false) 123456) && wideIs (wideW 6 (-38) (-3 * 3)) (.ali 2 (-3)) &&
    wideIs (wideW 16 0 (5 * 3 ^ 14)) (.jmp 5) && wideIs (wideW 15 41 (-1 * 3 ^ 26 + 2 * 3 ^ 2)) (.br3s 162 (-1) 0 2) &&
    wideIs (wideW (-19) (-120) (-119 * 3 ^ 32 + 3 ^ 31 + 7 * 3 ^ 26 - 3 ^ 25 - 38 * 3 ^ 20 - 116 * 3 ^ 15 + 3))
      (.sel3 (.reg 1 true) (.reg 2) (.imm 7) (.shared 83) 5) &&
    wideIs (wideW 66 (-120) (-119 * 3 ^ 32 - 118 * 3 ^ 26 + 3 ^ 25 + 7 * 3 ^ 20 - 39 * 3 ^ 15 + 10 * 3 ^ 2)) (.atmCas 1 (.reg 2) (.reg 3) 7 1 10) &&
    wideIs (wideW (-45) (-112) (-36 * 3 ^ 15 - 4 * 3 ^ 2)) (.cpyx (some 9) 4 (-4)) = true := by decide +kernel
/-- R206: a layout, a mask without a test, an unassigned code, a reserved trit, a kind, an unassigned register, a read-only mask. -/
theorem refuses_words : [3 ^ 49, 3 ^ 52, halfW 95 0 0 0 0 0 0, 1, halfW 1 (-121) 0 (-121) 0 (-40) 0, halfW 44 (-13) 0 (-121) 0 0 0,
    halfW (-43) 0 1 0 0 0 1, halfW 1 (-121) 0 (-121) 0 (-121) (-1), halfW 41 0 0 0 0 3 0].all
    (fun x => (decodeBundle x).toOption.isNone) = true := by decide +kernel

/-! ## Vector arithmetic (06, 10) -/

/-- The state after an instruction; the state before where it stops. -/
def after (x : Instr) (s : State) : State := match exec x s with | .next t => t | _ => s
def goes (x : Instr) (s : State) : Bool := match exec x s with | .next _ => true | _ => false
/-- The group of context 0, its vector register in a lane, the class of the trap that stands in its registers (a group without a
handler halts at it, R319). -/
def g0 (s : State) : Group := (getGroup s 0 0).getD {}
def lane (s : State) (n k : Nat) : Int := laneVal (mget (.u 0) (g0 s).r.v n) (g0 s).items k
def trapOf (s : State) : Option Int := if (g0 s).haltCause = 5 then some (g0 s).r.tr.cause else none
/-- Vector registers: `v1` an armature, `v2` per lane, `v3` uniform; masks `k1` per lane; scalars `s1`, `s2`. -/
def regs1 : Regs :=
  { super := true, v := [(1, .a 10 1 0 0), (2, .f [9, 8, 7, 6, 5, 4, 3, 2, 1]), (3, .u 4)], s := [(1, 5), (2, -7)]
    k := [(1, .f [1, 0, -1, 1, 0, -1, 1, 0, -1])], fm := [(0, 3 * 3 ^ 9 + 3 ^ 6 + 1)] }
def s1 : State := grp (gWith regs1)
def vAll : Instr := .addVector (.reg 4 false) (.reg 2) (.reg 1)

theorem witness_VectorInGroup : vectorLaw vAll ≠ none ∧ GroupRuns s1 iss 0 (gWith regs1) ∧ WriteFree (gWith regs1) 4 ∧
    4 < (gWith regs1).nf ∧ covers (gWith regs1) iss = true :=
  ⟨by simp [vectorLaw, vAll], ⟨rfl, by decide, rfl, by decide⟩, .inl rfl, by decide, by decide⟩
theorem witness_AllUniform : AllUniform s1 iss 9 [.reg 3, .imm 2] ∧ AllUniform (sR rng) rIss 0 [.reg 3, .imm 2] ∧
    [Opd.reg 3, .imm 2].any vCasts = false := by
  refine ⟨?_, ?_, by decide⟩ <;> intro o h <;> simp at h <;> rcases h with rfl | rfl <;> decide
/-- R134, R251: lane 2 of an armature 10 + ix and of a per-lane register. -/
theorem test_addVector : goes vAll s1 = true ∧ lane (after vAll s1) 4 2 = 19 ∧ lane (after vAll s1) 2 2 = 7 := by decide +kernel
/-- R221, the worked case: 30 + 81 ix + 6561 iy, in form A. -/
theorem test_armx : let t := after (.army (.reg 4 false) 6561) (after (.armx (.reg 4 false) 81) (after (.liv (.reg 4 false) 30) s1))
    mget (.u 0) (g0 t).r.v 4 = .a 30 81 6561 0 ∧ lane t 4 3 = 273 := by decide +kernel
theorem witness_Armature : armParts (vsrc s1 iss 9 (.reg 1)) = some (10, 1, 0, 0) ∧ vsrc s1 iss 9 (.reg 3) = .u 4 ∧
    armParts (vsrc (sR rng) rIss 0 (.shared 84)) = some (0, 1, 0, 0) := by decide
theorem test_armature_product : mget (.u 0) (g0 (after (.mulVector (.reg 4 false) (.reg 1) (.reg 3)) s1)).r.v 4 = .a 40 4 0 0 := by
  decide +kernel
/-- R139: a range casts at a read of `lane` and at a load. -/
theorem test_rangeCasts : let c (x : Instr) := (getRange (after x (sR rng)) 0 0).map (·.st)
    c (.addVector (.reg 1 false) (.shared 87) (.imm 1)) = some .casting ∧ c (.ld9 1 2 (.imm 0)) = some .casting ∧
    c (.addVector (.reg 1 false) (.shared 84) (.imm 1)) = some .running := by decide +kernel
/-- R136: a result in form F beyond the full registers; R203: a latch that would take one. -/
def s1small : State := grp { gWith regs1 with nf := 3 }
theorem witness_IllegalForm : isF (vsrc s1small iss 9 (.reg 2)) = true ∧
    trapOf (after vAll s1small) = some 2 ∧ trapOf (after (.addVector .latchOnly (.reg 2) (.imm 1)) s1) = some 2 ∧
    lane (after vAll s1small) 4 2 = 0 := by decide +kernel
theorem test_latch : let t := after (.addVector (.reg 4 true) (.reg 3) (.imm 1)) s1
    (getCore t 0).vlatch = [5, 0, 0] ∧ lane t 4 0 = 5 := by decide +kernel
/-- R255: `sel3` by `k1`. -/
theorem test_sel3 : let t := after (.sel3 (.reg 4 false) (.imm 1) (.imm 2) (.imm 3) 1) s1
    [lane t 4 0, lane t 4 1, lane t 4 2] = [3, 2, 1] := by decide +kernel
theorem witness_Sel3Range : isF (vsrc (sR rng) rIss 0 (.reg 3)) = false ∧ maskTrit (srcRegs (sR rng) rIss) 0 0 = 1 := by decide

/-! ## Masks, conversions, special values, cross-lane operations (10) -/

theorem witness_MaskWrites : compareLaw (.cmpVector 2 (.reg 2) (.imm 5)) ≠ none ∧ maskLaw (.kneg 2 1) ≠ none := by
  simp [compareLaw, maskLaw]
theorem test_cmp : let t := after (.cmpVector 2 (.reg 2) (.imm 5)) s1
    [maskTrit (g0 t).r 2 0, maskTrit (g0 t).r 2 4, maskTrit (g0 t).r 2 8] = [1, 0, -1] := by decide +kernel
theorem test_ksum : let t := after (.ksum 2 1 1) s1
    [maskTrit (g0 t).r 2 0, maskTrit (g0 t).r 2 1, maskTrit (g0 t).r 2 2] = [-1, 0, 1] := by decide +kernel
/-- R263: three lanes have +, the first is lane 0. -/
theorem test_kcnt : lane (after (.kcnt (.reg 4 false) 1 1) s1) 4 5 = 3 ∧ lane (after (.kfirst (.reg 4 false) 1) s1) 4 5 = 0 ∧
    lane (after (.kval 4 1) s1) 4 2 = -1 := by decide +kernel
theorem witness_kfirst_none : ∀ k ∈ iss.guard, maskTrit (srcRegs sG iss) 1 k ≠ 1 := by decide
theorem witness_Conversion : fmtOfCode (srcRegs s1 iss) 2 = some (.flt fmtT27) ∧ fmtOfCode (srcRegs s1 iss) 6 = none ∧
    iss.broke = false ∧ iss.after = none := by decide +kernel
/-- R28, R27: a NaN stays one, the square root of -1 is invalid. -/
def tEnc (x : Int) : Int := (fput fmtT27 (.fin x 0)).enc
theorem test_fsqrt : let t := after (.fsqrt (.reg 4 false) (.reg 3)) (grp (gWith { regs1 with v := [(3, .u (tEnc (-1)))] }))
    (g0 t).r.sticky.invalid = true ∧ lane t 4 0 = fNaN fmtT27 := by decide +kernel
/-- R262: rotation by 1 and a slide by 1. -/
theorem test_rot : let t := after (.rot (.reg 4 false) (.reg 2) (.imm 1)) s1
    [lane t 4 0, lane t 4 1] = [1, 9] ∧ lane (after (.slide (.reg 4 false) (.reg 2) (.imm 1)) s1) 4 0 = 0 := by decide +kernel
/-- R263: the sum of 9 to 1, and the running maximum of the negated values. -/
theorem test_reduce : lane (after (.radd (.reg 4 false) (.reg 2)) s1) 4 7 = 45 ∧
    lane (after (.smin (.reg 4 false) (.reg 2)) s1) 4 3 = 6 ∧ goes (.rfadd (.reg 4 false) (.reg 2)) s1 = true := by decide +kernel
theorem witness_Reduction : reduceLaw (.radd (.reg 4 false) (.reg 2)) ≠ none ∧ scanLaw (.sadd (.reg 4 false) (.reg 2)) ≠ none ∧
    isU (vsrc s1 iss 9 (.imm 1)) = true := ⟨by simp [reduceLaw], by simp [scanLaw], by decide⟩

/-! ## Memory accesses (02, 03, 10) -/

/-- Frame `k` of region +1; the blocks of a table and of a page. -/
def fr (k : Nat) : Int := 3 ^ 19 + k
def atomOf (l : List Int) : Atom := { payload := packBlock ((l ++ List.replicate 27 0).take 27) }
def pte (k : Nat) (extra : Int) : List Int := toNonets 6 (27 * fr k + 3 ^ 27 + extra)
/-- User pages of the address 0 through tables at frames 0, 6 and 12: the page is frame 20, readable and writable; its first
block holds 1 to 27. The other entries of its span are not present. -/
def tables : SMap Atom :=
  [((729 * fr 0).toNat, atomOf (pte 6 0)), ((729 * fr 6).toNat, atomOf (pte 12 0)), ((729 * fr 12).toNat, atomOf (pte 20 (4 * 3 ^ 28)))] ++
  ((List.range 17).map fun k => ((729 * fr 12).toNat + 1 + k, atomOf [])) ++
  [((729 * fr 20).toNat, atomOf ((List.range 27).map fun (j : Nat) => (j : Int) + 1))]
/-- Registers with `a1` over the first 81 nonets of user space, `a2` over a scratchpad; `v1` is the lane, `v2` three times it. -/
def regsM : Regs :=
  let win (sc : Bool) : AReg := { ptr := 0, base := 0, limit := 80, scratch := sc, load := true, store := true, atomic := true }
  { super := true, userOk := true, uroot := fr 0, a := [(1, win false), (2, win true)]
    v := [(1, .a 0 1 0 0), (2, .a 0 3 0 0), (3, .a 100 1 0 0)], s := [(1, 5)] }
def sM : State :=
  let s := updCore (grp (gWith regsM)) 0 fun c => { c with modelo := half 27, setlo := half 27 }
  { s with mem := tables, count1 := 1000 }

/-- One lane of the group alone: a second lane would find the translation cached, and may use it or not. -/
def iss1 : Issue := { iss with guard := [0] }
def sM1 : State := { sM with issue := some iss1 }

/-- R57: the walk of the tables gives frame 20. -/
theorem test_translate : (translate sM (xlOf 0 regsM) .load false 5 1).1.toOption =
    some [{ pa := 19683 * fr 20 + 5, attr := { super := true, via := .core 0 } }] := by decide +kernel
theorem test_load : (g0 (after (.ld27 4 1 (.reg 1)) sM1)).pending.map (fun p => p.land.map fun l => (l.lanes, l.fails)) =
    [some ([(0, 1 + 2 * 3 ^ 9 + 3 * 3 ^ 18)], [])] := by decide +kernel
theorem witness_load : loadLaw (.ld9 4 1 (.reg 1)) ≠ none ∧ GroupRuns sM1 iss1 0 (gWith regsM) ∧ 4 < (gWith regsM).nf ∧
    WriteFree (gWith regsM) 4 := ⟨by simp [loadLaw], ⟨rfl, by decide, rfl, by decide⟩, by decide, .inl rfl⟩
def okM : List Checked :=
  [{ lane := { slot := 0, e := 0, n := 1 }, place := .mem [{ pa := 19683 * fr 20, attr := { super := true, via := .core 0 } }] }]
theorem witness_Clear : Clear sM1 iss1 (gWith regsM) (getA sM1 iss1 1) .load false (fun _ => true)
    [{ slot := 0, e := 0, n := 1 }] okM (checkLanes (xlOf 0 regsM) 0 (getA sM1 iss1 1) .load false [{ slot := 0, e := 0, n := 1 }] sM1).2.2 := by
  refine ⟨fun _ _ => rfl, ?_, ?_, .inl rfl⟩
  · decide +kernel
  · decide +kernel
/-- Through `a2`, lane by lane: addresses 0, 3, 6, … of the scratchpad. -/
theorem witness_ScratchClear : ScratchClear sM iss (gWith regsM) (getA sM iss 2) .store
    (iss.guard.map fun k => { slot := k, e := 3 * (k : Int), n := 3 }) ∧ ScratchClear sM iss (gWith regsM) (getA sM iss 2) .load
    (iss.guard.map fun k => { slot := k, e := 3 * (k : Int), n := 3 }) := by
  refine ⟨⟨rfl, .inl rfl, ?_⟩, rfl, .inl rfl, ?_⟩ <;> decide +kernel
theorem witness_ScratchStore : storeLaw (.st27 3 2 (.reg 2)) ≠ none ∧ spParity sM 0 0 = false := by
  exact ⟨by simp [storeLaw], by decide +kernel⟩
/-- R13, R72: each lane's word at its address, its block present. -/
theorem test_scratchStore : let t := after (.st27 3 2 (.reg 2)) sM
    goes (.st27 3 2 (.reg 2)) sM = true ∧ [spRead t 0 0, spRead t 0 3, spRead t 0 24] = [100, 101, 108] ∧ spPresent t 0 24 = true := by
  decide +kernel
/-- R264, R267: lane 8 at address 24. -/
def sSp : State := updBank sM 0 0 fun k => { k with data := mset k.data 24 108 }
theorem test_scratchLoad : (g0 (after (.ld27 4 2 (.reg 2)) sSp)).pending.map (fun p => p.land.map fun l => l.lanes.getLast?) =
    [some (some (8, 108))] := by decide +kernel
/-- R97: two lanes at one address, the higher slot last. -/
theorem test_scratchCollision : spRead (after (.st9 3 2 (.imm 5)) sM) 0 5 = 108 := by decide +kernel
def unitM : Machine.PUnit := { pa := 19683 * fr 20, attr := { super := true, via := .core 0 } }
theorem mget_all {α : Type} {P : α → Prop} {d : α} (hd : P d) : ∀ (m : SMap α) (k : Nat), (∀ p ∈ m, P p.2) → P (mget d m k)
  | [], _, _ => hd
  | (j, w) :: t, k, h => by
    simp only [mget]
    split
    · exact h (j, w) (List.mem_cons_self ..)
    · exact mget_all hd t k fun p hp => h p (List.mem_cons_of_mem _ hp)
theorem mfind_all {α : Type} {P : α → Prop} : ∀ (m : SMap α) {k : Nat} {v : α}, mfind m k = some v → (∀ p ∈ m, P p.2) → P v
  | (j, w) :: t, k, v, h, ha => by
    simp only [mfind] at h
    split at h
    · exact Option.some.inj h ▸ ha (j, w) (List.mem_cons_self ..)
    · exact mfind_all t h fun p hp => ha p (List.mem_cons_of_mem _ hp)
/-- Where no line that is held and no write on its way carries a mark, no block is marked. -/
theorem unmarked {s : State} (h : (s.dies.all (·.2.lines.all (·.2.poison.isEmpty)) && s.cores.all (·.2.l1.all (·.2.poison.isEmpty)) &&
    s.sbs.all (·.2.held.all (·.2.poison.isEmpty)) && s.flights.all (!·.bad)) = true) (b : Int) : Unmarked s b := by
  simp only [Bool.and_eq_true, List.all_eq_true, List.isEmpty_iff, Bool.not_eq_true'] at h
  obtain ⟨⟨⟨h1, h2⟩, h3⟩, h4⟩ := h
  refine ⟨fun d => ?_, fun c l hl => ?_, fun l hl => ?_, fun f hf _ => h4 f hf⟩
  · have hd : ∀ p ∈ (getDie s d).lines, p.2.poison = [] :=
      mget_all (P := fun k : Die => ∀ p ∈ k.lines, p.2.poison = []) (by simp) s.dies d h1
    have := mget_all (P := fun c : CLine => c.poison = []) (d := {}) rfl _ (lineOf b) hd
    simp [getLine, this]
  · have hc : ∀ p ∈ (getCore s c).l1, p.2.poison = [] :=
      mget_all (P := fun k : Core => ∀ p ∈ k.l1, p.2.poison = []) (by simp) s.cores c h2
    simp [mfind_all (P := fun x : L1Line => x.poison = []) _ hl hc]
  · have hs : ∀ p ∈ (getStack s (lineHome s (lineOf b))).held, p.2.poison = [] :=
      mget_all (P := fun k : Stack => ∀ p ∈ k.held, p.2.poison = []) (by simp) s.sbs _ h3
    simp [mfind_all (P := fun x : SLine => x.poison = []) _ hl hs]
theorem witness_PlainUnit : PlainUnit sM1 unitM := by
  refine ⟨?_, ?_, ?_, ?_, unmarked ?_ _, ?_⟩ <;> decide +kernel
theorem test_memoryStore : let t := after (.st9 3 1 (.reg 1)) sM1
    goes (.st9 3 1 (.reg 1)) sM1 = true ∧ unitAt t 0 false (19683 * fr 20) = some 100 ∧
    unitAt t 0 false (19683 * fr 20 + 1) = some 2 := by decide +kernel
/-- R265: an address beyond the window is a translation fault, class 5. -/
theorem test_bounds : trapOf (after (.ld9 4 1 (.imm 81)) sM1) = some 5 := by decide +kernel

/-- Uniform accesses: the address 0 of each register's window. -/
theorem witness_Uniform : uniLoadLaw (.lds54 1 2 (.imm 0)) ≠ none ∧ uniStoreLaw sM iss (.sts27 1 2 (.imm 0)) ≠ none ∧
    uniAddr sM iss 2 (.imm 0) = 0 := ⟨by simp [uniLoadLaw], by simp [uniStoreLaw], by decide⟩
theorem witness_UniformClear : Clear sM iss (gWith regsM) (getA sM iss 2) .load false (fun _ => true)
    [{ slot := 0, e := 0, n := 3 }] [{ lane := { slot := 0, e := 0, n := 3 }, place := .sp }] sM := by
  refine ⟨fun _ _ => rfl, ?_, ?_, .inl rfl⟩ <;> decide +kernel
theorem test_sts : let t := after (.sts27 1 2 (.imm 3)) sM
    (spRead t 0 3, spRead t 0 4) = (5, 0) := by decide +kernel
theorem test_lds : let t := after (.lds27 7 2 (.imm 24)) sSp
    goes (.lds27 7 2 (.imm 24)) sSp = true ∧ (g0 t).pending.map (fun p => p.land.map (·.words)) = [some [(.s 7, 108)]] := by decide +kernel
theorem test_uniformMemory : unitAt (after (.sts27 1 1 (.imm 0)) sM1) 0 false (19683 * fr 20) = some 5 := by decide +kernel
/-- Packed elements of width 5 (R266): 48 to a block; element 49 is in the next block at stream position 5. -/
theorem test_packed : elemBlock 0 5 49 = 27 ∧ elemPos 5 49 = 5 := by decide
theorem witness_Packed : (getA sM iss 2).ptr % 27 = 0 ∧ elemNum sM iss (gWith regsM) (.reg 1) 1 2 = 3 ∧
    InTrits 9 (spRead sM 0 0) := by unfold InTrits; decide +kernel
theorem witness_PackedClear : ScratchClear sM iss (gWith regsM) (getA sM iss 2) .store
    (elemLanes sM iss (gWith regsM) (getA sM iss 2) (.reg 1) 1 5) := by
  refine ⟨rfl, .inl rfl, ?_⟩; decide +kernel
theorem test_stpk : let t := after (.stpk (.reg 1) (.reg 3) 5 2 0) sM
    goes (.stpk (.reg 1) (.reg 3) 5 2 0) sM = true ∧ ofTrits ((List.range 5).map fun p => scratchTrit t 0 0 (10 + p)) = 102 ∧
    scratchTrit t 0 0 45 = 0 := by decide +kernel
/-- R276: an atomic sum at address 24, which holds 108: lane 8 adds 8 and is given 108. -/
theorem test_atomics : let t := after (.atmAdd 4 (.imm 24) (.reg 1) 4 2 0) { sSp with issue := some { iss with guard := [8] } }
    scratchValue t 0 24 3 = 116 ∧ (g0 t).pending.map (fun p => p.land.map (·.lanes)) = [some [(8, 108)]] := by
  decide +kernel
theorem witness_Atomic : atomLaw (.atmCas 4 (.reg 2) (.reg 1) 4 2 0) ≠ none ∧
    (∀ l ∈ atomLanes sM iss (gWith regsM) 4 (.reg 2) (.reg 1) 2 0, l.2.1 % 3 = 0) ∧
    ∀ l ∈ atomLanes sM iss (gWith regsM) 4 (.reg 2) (.reg 1) 2 0, spIn sM 0 l.2.1 = true := by
  refine ⟨by simp [atomLaw], ?_, ?_⟩ <;> decide +kernel
/-- The checks: a destination beyond the full registers, a misaligned word, an address outside the window, outside the scratchpad. -/
def sMsmall : State := grp { gWith regsM with nf := 3 }
def winOut : AReg := { ptr := 20000000, base := 20000000, limit := 20000080, scratch := true, load := true, store := true }
def sMout : State := let s := updCore (grp (gWith { regsM with a := [(2, winOut)] })) 0 fun c => { c with setlo := half 27 }
  s
theorem test_checks : trapOf (after (.ld9 4 2 (.reg 1)) sMsmall) = some 2 ∧
    trapOf (after (.ld27Rlx 4 (.imm 1) 4 2 0) sM) = some 6 ∧ trapOf (after (.st9 3 2 (.imm 200)) sM) = some 5 ∧
    trapOf (after (.ld9 4 2 (.imm 0)) sMout) = some 8 := by decide +kernel
def sMsup : State := updGroup sMout 0 0 fun g => { g with r := { g.r with suppress := true } }
theorem test_suppressed : let t := after (.ld9 4 2 (.imm 0)) sMsup
    (g0 t).r.oob.length = 9 ∧ (g0 t).pending.length = 1 ∧ trapOf t = none := by decide +kernel
theorem witness_Suppressed : (getA sMsup iss 2).scratch = true ∧ regCheck (getA sMsup iss 2) .load 20000000 1 = true ∧
    spIn sMsup 0 20000000 = false ∧ ∀ k ∈ iss.guard, k < 81 := by decide +kernel
/-- R73: nothing is present yet. -/
theorem test_waiting : let t := after (.ldw9 4 2 (.imm 0)) sM
    (g0 t).wait = some .park ∧ (g0 t).st = .stalled ∧ (g0 (after (.waitingLoadRetry 0 0) t)).st = .ready := by decide +kernel
/-- R277: an atomic on control space. -/
def sMctl : State := { sM1 with
  mem := mset sM1.mem (729 * fr 12).toNat (atomOf (toNonets 6 (27 * 1 + 3 ^ 27 + 4 * 3 ^ 28 - 3 ^ 34))), count0 := 27 }
theorem test_atomicTarget : trapOf (after (.atmAdd 4 (.imm 0) (.reg 1) 4 1 0) sMctl) = some 7 := by decide +kernel
/-- R110: a fence that names the stream path empties the combining buffer. -/
def sComb : State := updCore sM 0 fun c =>
  { c with comb := [{ block := 729 * fr 20, key := 0, binary := false, places := (List.range 27).map fun (j : Nat) => (j, (j : Int) - 5) }] }
theorem test_fence : let t := after (.fenceRel 4 2) sComb
    (getCore t 0).comb = [] ∧ unitAt t 0 false (19683 * fr 20 + 3) = some (-2) ∧
    (getCore (after (.fenceRel 4 1) sComb) 0).comb.length = 1 := by decide +kernel
theorem witness_Translation : privilegeFault (xlOf 0 regsM) 5 = false ∧ tableOk sM (fr 0) = true ∧
    ((readUnits sM (physUnits (frameBase (fr 0)) 6)).1.toOption = some (pte 6 0)) ∧ entryMalformed sM 2 5 0 (ofNonets (pte 6 0)) = false ∧
    entryMalformed sM 0 5 0 (ofNonets (pte 20 (4 * 3 ^ 28))) = false := by decide +kernel

/-! ## Control (09, 06) -/

/-- Lanes of `v1`: its sign splits the nine lanes three ways, 4 below 0, one at 0, 4 above. -/
def regsC : Regs := { super := true, v := [(1, .a (-4) 1 0 0), (2, .a (-1000) 1 0 0)], s := [(1, 5), (2, 1), (3, -3)] }
def sC : State := grp (gWith regsC)
theorem witness_Transfer : (targetLaw sC iss (gWith regsC) (.br3 1 2 4 6)).isSome = true ∧ iss.broke = false ∧
    (∀ k ∈ iss.guard, k ∈ activeLanes (gWith regsC)) ∧ (∀ k ∈ (gWith regsC).active, k < 81) ∧
    (pathTargets iss (gWith regsC) (fun k => if k < 4 then (0, -150) else if k = 4 then (1, -138) else (2, -126))).length = 3 := by
  refine ⟨by simp [targetLaw], ?_, ?_, ?_, ?_⟩ <;> decide +kernel
/-- R228: the loop branches while the counter stays above 0, and wraps. -/
theorem test_loop : ((g0 (after (.loop 1 5) sC)).pc, mget 0 (g0 (after (.loop 1 5) sC)).r.s 1) = (placedPc + 30, 4) ∧
    (g0 (after (.loop 2 5) sC)).pc = placedPc + 6 := by decide +kernel
theorem test_call : let g := g0 (after (.call 3 4) sC)
    g.pc = placedPc + 24 ∧ (mget {} g.r.a 3).ptr = placedPc + 6 ∧ (mget {} g.r.a 3).load = false := by decide +kernel
theorem test_br3s : (g0 (after (.br3s 3 2 4 6) sC)).pc = placedPc + 12 := by decide +kernel
/-- R229: a return to an address that is no multiple of 6. -/
theorem test_ret : trapOf (after (.ret 1) (grp (gWith { regsC with a := [(1, { ptr := 3 })] }))) = some 1 := by decide +kernel
/-- R157, R225: in no-spawn mode the paths are pushed, and the first runs. -/
theorem test_push : let g := g0 (after (.br3 1 2 4 6) (grp { gWith regsC with nospawn := true }))
    (g.pc, g.active, g.mstack.map fun e => (e.reconv, e.paths.map (·.1))) =
      (placedPc + 12, [0, 1, 2, 3], [(placedPc + 36, [placedPc + 24, placedPc + 36])]) := by decide +kernel
theorem witness_MaskStack : settle { gWith regsC with pc := 36, mstack := [{ saved := List.range 9, reconv := 36, paths := [(24, [4])] }] } =
    { gWith regsC with pc := 24, active := [4], mstack := [{ saved := List.range 9, reconv := 36, paths := [] }] } := by decide +kernel
/-- R152: the first of the largest paths keeps its lanes; the items of the others leave for builds. -/
def sSpawn : State := setTeam sC 1 { core := 0, lid := 1, number := 1, size := 81, castGroups := 1, pool := List.range 81 }
theorem witness_Spawn : (getTeam sSpawn 1).isSome = true ∧ storeUsed (getCore sSpawn 0) + 9 ≤ 729 := by decide +kernel
theorem test_spawn : let t := after (.br3 1 2 4 6) sSpawn
    (g0 t).pc = placedPc + 12 ∧ (g0 t).items.map (·.1) = [0, 1, 2, 3] ∧
    (getCore t 0).builds.map (fun b => (b.target, b.items.length)) = [(placedPc + 24, 1), (placedPc + 36, 4)] := by decide +kernel
/-- R230, R231: a range over x from 0 to 26 is cut at the sign of x - 4. -/
def rC : Range := { rng with box := { x1 := 26 }, r := regsC }
theorem witness_Cut : CutsBy rC (-4) 1 0 0 := by
  refine ⟨.inl (by decide), by decide, by decide, by decide, by decide, by decide, by decide, ?_⟩
  intro it h1 h2 h3 h4 h5 h6
  have : half 27 = 3812798742493 := by decide
  simp [rC, rng] at h1 h2
  unfold InTrits
  rw [this]
  omega
theorem test_cut : (getCore (after (.cut 2 1) (sR rC)) 0).ranges.map (fun p => (p.2.box.x0 + p.2.p0, p.2.p1 - p.2.p0,
    maskTrit p.2.r 2 0)) = [(0, 3, -1), (4, 0, 0), (5, 21, 1)] := by decide +kernel
theorem test_rangeBranch : (getRange (after (.br3s 3 2 4 6) (sR rC)) 0 0).map (·.pc) = some (placedPc + 12) := by decide +kernel
theorem witness_CutSigns : maskTrit (g0 (after (.cut 2 1) sC)).r 2 0 = -1 ∧ mget (.u 0) (srcRegs (sR rC) rIss).v 3 = .u 0 := by
  decide +kernel
/-- R232, R233. -/
theorem test_join : (g0 (after (.joinD (.imm 2)) sC)).wait = some (.join 2) ∧ trapOf (after (.joinD (.imm (-1))) sC) = some 1 ∧
    (getRange (after .join (sR rC)) 0 0).map (·.st) = some .atJoin := by decide +kernel
theorem test_exit : (g0 (after .exit { sC with issue := some { iss with guard := [3] } })).items.length = 8 ∧
    getRange (after .exit (sR rC)) 0 0 = none := by decide +kernel
/-- R188, R234: a share of the launch on the die, with a request for it. -/
def sReq : State := updDie sC 0 fun d => { d with shares := [{ lid := 1, start := 0, requested := true }] }
theorem test_safe : (g0 (after .safe sReq)).stopped = true ∧ (g0 (after .safe sC)).stopped = false ∧
    requested sReq 0 1 = true ∧ requested sC 0 1 = false := by decide +kernel
theorem witness_yield : let s := updDie sC 0 fun d => { d with shares := [{ lid := 1, start := 0 }] }
    (launchTcb s 1).serving = false ∧ (findShare s 0 1).isSome = true := by decide +kernel

/-! ## System registers, traps, supervisor instructions (09, 12) -/

/-- A supervisor group and a user group with words to write. -/
def regsS : Regs := { super := true, s := [(1, 7), (2, 4), (3, 100000000000), (4, 41), (5, 3 * 3 ^ 9)] }
def sS : State := grp (gWith regsS)
def sU : State := grp (gWith { regsS with super := false })
theorem witness_SystemRead : iss.snap = none ∧ ssrc sS iss (.imm 6) = 6 ∧ sysValue sS iss 6 = some 1 ∧ sysValue sS iss 25 = none := by
  decide +kernel
theorem test_srd : mget 0 (g0 (after (.srd (.reg 9 false) (.imm 6)) sS)).r.s 9 = 1 ∧ trapOf (after (.srd (.reg 9 false) (.imm 25)) sS) = some 1 := by
  decide +kernel
/-- R53: what reads differ after a write of `xl.uroot` and of `xl.ctl`. -/
def changed (x : Instr) (s : State) : List Nat :=
  (List.range 70).filter fun n => sysValue (after x s) iss n ≠ sysValue s iss n
theorem test_swr : changed (.swr (.imm 7) (.reg 3)) sS = [7] ∧ changed (.swr (.imm 6) (.imm 4)) sS = [6] ∧
    changed (.swr (.imm 27) (.reg 3)) sS = [27] ∧ changed (.swr (.imm 41) (.imm 5)) sS = [41] ∧
    changed (.swr (.imm 14) (.imm 5)) sS = [] ∧ changed (.swr (.imm 20) (.imm 5)) sS = [20] ∧
    changed (.swr (.imm 4) (.imm 4)) sS = [4] := by decide +kernel
theorem test_swrTraps : trapOf (after (.swr (.imm 2) (.imm 5)) sS) = some 3 ∧ trapOf (after (.swr (.imm 7) (.imm 5)) sU) = some 4 := by
  decide +kernel
theorem witness_TakesWhole : TakesWhole regsS 7 100000000000 ∧ TakesWhole regsS 4 (slotWord [1] 0 27) := by
  refine ⟨.inr (.inl ⟨rfl, .inr (.inl ⟨.inl rfl, ?_⟩)⟩), .inr (.inr (.inr (.inr (.inl ⟨.inr (.inl rfl), [1], rfl⟩))))⟩
  unfold InTrits; decide +kernel
theorem witness_dbgValid : dbgValid sS (getDie sS 0) 44 0 = true ∧ dbgValid sS (getDie sS 0) 46 0 = false := by decide +kernel
/-- R68, R70: bank 3 asks for FIFO mode, and settles. -/
theorem test_bkmode : let t := after (.bkmode (.imm 3) (.imm (-1))) sS
    bankWanted (getCore t 0) 3 = -1 ∧ (getCore t 0).busy = [3] ∧ bankMode (after (.bankConversion 0 3) t) 0 3 = some (-1) ∧
    (getCore (after (.bkModeloWrite 0 false 5) sS) 0).modelo = 5 := by decide +kernel
theorem witness_BankMode : bankWanted (getCore sS 0) 3 = 0 ∧ (getBank sS 0 3).held = [] ∧
    trapOf (after (.bkmode (.imm 3) (.imm 1)) sU) = some 4 := by decide +kernel
/-- R316: the frame of a trap of class 5 with one entry. -/
def trap5 : Trap := { cls := 5, lanes := [{ slot := 3, addr := 1000000000, cause := 4, level := 1 }], pc := 600, ret := 606 }
theorem test_frame : [nonetAt (frameRuns 0 trap5) 0, nonetAt (frameRuns 0 trap5) 10, nonetAt (frameRuns 0 trap5) 49,
    nonetAt (frameRuns 0 trap5) 50, nonetAt (frameRuns 0 trap5) 51] = [some 5, some 27, some 4, some 1, none] ∧
    nonetAt (frameRuns 0 trap5) 6 = some 606 ∧ (trap5.lanes.map (·.slot)).Nodup := by decide +kernel
/-- A group with a handler, its frame in plain memory; the trap of `trap` is taken after its bundle. -/
def regsT : Regs := { regsM with tr := { vec := -600, fp := 0 } }
def sT : State := { sM1 with cores := (setGroup sM1 0 0 (gWith regsT)).cores }
def framed : State := (setGroup sT 0 0 { gWith regsT with r := { regsT with tr := { vec := -600, cause := 14 + 3 ^ 9 * 5, ret := 60, lanes := [0] } } })
def trap14 : Trap := { cls := 14, detail := 5, lanes := [{ slot := 0 }], pc := placedPc, ret := 60 }
theorem witness_TrapTaken : (gWith regsT).r.tr.inHandler = false ∧ (gWith regsT).r.tr.vec % 6 = 0 ∧ msorted regsT.v = true ∧
    (translateRuns (xlOf 0 regsT) (frameRuns 0 trap14) framed).1.isSome = true := by decide +kernel
theorem test_trapTaken : let t := takeTrap sT 0 0 trap14
    (g0 t).pc = -600 ∧ (g0 t).r.tr.inHandler = true ∧ (g0 t).nospawn = true ∧ unitAt t 0 false (19683 * fr 20) = some 14 ∧
    unitAt t 0 false (19683 * fr 20 + 1) = some 5 := by decide +kernel
theorem test_trap : (after (.trap (.imm 5)) sS).issue.map (fun j => (j.restart, j.after.map (·.detail))) = some (true, some 5) ∧
    trapOf (after (.trap (.imm (-1))) sS) = some 1 := by decide +kernel
def gH : Group := { gWith { regsS with tr := { ret := 60, inHandler := true } } with
  kept := some { active := [1, 2], mstack := [], nospawn := false }, nospawn := true }
theorem test_rft : let t := after .rft (grp gH)
    (g0 t).pc = 60 ∧ (g0 t).active = [1, 2] ∧ (g0 t).r.tr.inHandler = false ∧ trapOf (after .rft sS) = some 1 := by decide +kernel
def sBkpt : State := updDie sU 0 fun d => { d with dbgctl := 3 }
theorem test_bkpt : (g0 (after (.bkpt 0) sBkpt)).st = .halted ∧ (g0 (after (.bkpt 0) sU)).st = .ready ∧
    (g0 (after (.bkpt 0) sBkpt)).haltCause = 1 := by decide +kernel
/-- R314: with a load pending a trap waits for it. -/
def gPend : Group := { gWith regsT with pending := [{ id := 1, kind := .load, regs := [.v 4] }] }
theorem test_trapWaits : (g0 (raiseTrap (grp gPend) 0 0 trap14)).raised = some trap14 ∧
    (g0 (after (.trapEntry 0 0) (grp { gWith regsT with raised := some trap14, st := .stalled }))).raised = none := by decide +kernel
theorem test_refusals : trapOf (after (.inval 1 2 0) sU) = some 4 ∧ trapOf (after (.prog (.imm 9)) sS) = some 1 ∧
    trapOf (after (.share 1 1 (.imm 81)) sS) = some 1 ∧ trapOf (after (.pcomp 1 (.imm 0)) sS) = some 1 := by decide +kernel
/-- A request for address space 41, four pages from page 7, and a die that caches pages 8 and 20 of it. -/
def one : Inval := { core := 0, ctx := 0, team := 1, pend := some 2, asid := 41, page := 7, count := 4, glob := false, waiting := [0] }
def sInv : State :=
  updDie (grp (gWith { regsS with s := [(1, 7), (2, 4), (3, 41)] })) 0 fun d =>
    { d with tlb := [{ asid := 41, page := 8, leaf := { frame := 0 } }, { asid := 41, page := 20, leaf := { frame := 0 } }] }
def grp3 (v : Inval) : State :=
  { (grp { gWith regsS with inval := some 3, pending := [{ id := 2, kind := .other, regs := [.s 9] }] }) with invals := [(3, v)] }
/-- R242: address space 4, from page 7 on, count 0 for all; the dies drop what is covered. -/
theorem test_inval : let t := after (.inval 9 1 0) sInv
    t.invals.map (fun p => (p.2.asid, p.2.page, p.2.count)) = [(41, 7, 4)] ∧ (g0 t).inval.isSome = true ∧
    (getDie (after (.invalidationByRange 0 3) { sInv with invals := [(3, one)] }) 0).tlb.map (·.page) = [20] ∧
    (after (.drainedReport 12 3) (grp3 { one with waiting := [12], arrived := [12] })).invals = [] := by decide +kernel

/-! ## Requests to the device, engines, barriers (09, 11) -/

/-- A task control block at the end of frame 20 and the start of frame 21 (R171): one item, wait count 1, its notification -1. -/
def tcb0 : Int := 3 ^ 157 + 3 ^ 143 + 3 ^ 129
def tcb1 : Int := 3 ^ 168 - 3 ^ 158
/-- A block in the scratchpad from address 27 on: a pass of one tile, integer formats, one deep (R287); or a packet. -/
def passBlock : Int := 3 ^ 240 + 3 ^ 237 + 3 ^ 234 + 2 * 3 ^ 224 + 3 ^ 215 + 3 ^ 212 + 3 ^ 197 + 3 ^ 139 + 3 ^ 93
def packet : Packet := { first := 0, last := 0, addr := 19683 * fr 20 + 19656, lid := 1, kind := 1, source := 1 }
/-- The last page below 3^27 is frame 20 too, and the page from 3^27 on frame 21: the two share no entry of a table, so that
the second address is not found cached. -/
def tablesE : SMap Atom :=
  [((729 * fr 0).toNat, atomOf (pte 6 0 ++ pte 24 0)), ((729 * fr 6 + 4373).toNat, atomOf (List.replicate 21 0 ++ pte 36 0)),
    ((729 * fr 36 + 4373).toNat, atomOf (List.replicate 21 0 ++ pte 20 (4 * 3 ^ 28))), ((729 * fr 24).toNat, atomOf (pte 30 0)),
    ((729 * fr 30).toNat, atomOf (pte 21 (4 * 3 ^ 28)))].foldl (fun m p => mset m p.1 p.2)
    (((List.range 17).flatMap fun (k : Nat) => [(729 * fr 36 + 4356 + k, atomOf []), (729 * fr 30 + 1 + k, atomOf [])]).foldl
      (fun m p => mset m p.1.toNat p.2) tables)
def regsE (super : Bool) : Regs :=
  let sp (p : Int) : AReg := { ptr := p, base := 0, limit := 1000, scratch := true, load := true, store := true, engine := true }
  let mem : AReg := { ptr := 3 ^ 27 - 27, base := 0, limit := 3 ^ 28, load := true, store := true, engine := true }
  { super := super, userOk := true, uroot := fr 0, a := [(1, mem), (2, sp 27), (3, sp 81), (4, { mem with ptr := 0 })], s := [(1, 5)], v := [(1, .a 7 1 0 0)] }
def gE : Group := gWith (regsE true)
def sE (x : Int) : State :=
  let s := updCore (grp gE) 0 fun c => { c with modelo := half 27, setlo := half 27 }
  let s := updBank s 0 0 fun k => { k with data := ((List.range 27).map fun j => (27 + j, trits x (9 * j + 8) (9 * j))).filter (·.2 ≠ 0) }
  let s := updDie s 0 fun d => { d with budget := 81, life := .live, liveClusters := [0] }
  { s with mem := mset (mset tablesE (729 * fr 20 + 728).toNat (atomOf (blockOf tcb0))) (729 * fr 21).toNat (atomOf (blockOf tcb1))
           count1 := 1000
           launches := [(1, { addr := packet.addr, source := .host 0 1, st := .running, tcb := { nx := 1, ny := 1, nz := 1 }
                              hdr := { entry := 600 }, pieces := [0] }),
             (2, { addr := 27, source := .host 0 2, st := .waiting })] }
theorem witness_tcb : (tcbCheck (sE 0) iss (getA (sE 0) iss 1)).1.toOption = some packet.addr ∧
    PlainUnit (sE 0) { pa := packet.addr + 27, attr := {} } := by
  refine ⟨?_, ?_, ?_, ?_, ?_, unmarked ?_ _, ?_⟩ <;> decide +kernel
/-- R244, R248. -/
theorem test_launch : let t := after (.launch 9 1) (sE 0)
    mget 0 (g0 t).r.s 9 = 1 ∧ (getDie t 0).mail.map (fun p => (p.addr, p.kind, p.source)) = [(packet.addr, 3, 2)] := by decide +kernel
theorem test_tcbsig : trits (ofNonets ((readPhys (after (.tcbsig 1) (sE 0)) (packet.addr + 27)).1.toOption.getD [])) 176 168 = 0 := by
  decide +kernel
/-- R245: an empty mailbox waits; a packet that comes lands its kind. -/
def sMail (l : List Packet) : State := updDie (sE 0) 0 fun d => { d with mail := l }
theorem test_mbox : let t := after (.mbox 9 2) (sMail [packet])
    ((g0 t).pending.map fun p => p.land.map (·.words)) = [some [(.s 9, 1)]] ∧
    trits (ofNonets (spReads t 0 27 27)) 134 102 = packet.addr ∧ (getDie t 0).mail = [] := by decide +kernel
theorem test_mboxWaits : let t := updDie (after (.mbox 9 2) (sE 0)) 0 fun d => { d with mail := [packet] }
    (getDie t 0).mboxWait.length = 1 ∧
    ((g0 (after (.mboxPacketArrival 0) t)).pending.map fun p => p.land.map (·.words)) = [some [(.s 9, 1)]] := by decide +kernel
theorem witness_PacketFits : PacketFits packet := by unfold PacketFits InTrits; decide +kernel
def xPacket : Int := ofNonets (packetBlock packet)
theorem witness_share : packetOf (spReads (sE xPacket) 0 27 27) = some { packet with lid := 0 } ∧
    launchAt (sE xPacket) packet.addr = some 1 ∧ freeEntries (getCore (sE xPacket) 2) ≠ [] ∧
    2 ∈ liveCores (getDie (sE xPacket) 0) ∧ 4 ∉ liveCores (getDie (sE xPacket) 0) ∧ spFits (sE xPacket) 0 27 27 = true ∧
    regCheck (getA (sE xPacket) iss 2) .load 27 27 = true := by decide +kernel
theorem test_share : let t := after (.share 9 2 (.imm 2)) (sE xPacket)
    mget 0 (g0 t).r.s 9 = 1 ∧ (getRange t 2 0).map (fun q => (q.p0, q.p1, q.lid, q.pc)) = some (0, 0, 1, 600) ∧
    mget 0 (g0 (after (.share 9 2 (.imm 4)) (sE xPacket))).r.s 9 = -1 := by decide +kernel
theorem test_pcomp : (getLaunch (after (.pcomp 2 (.imm (-5))) (sE xPacket)) 1).map (fun l => (l.st, l.status)) =
    some (.complete, -5) := by decide +kernel
theorem test_prog : mget 0 (getDie (after (.prog (.imm 3)) (sE 0)) 0).pg 3 = 1 := by decide +kernel
/-- R281, R282: the pass is accepted and its charge held; a block of zeros is malformed; without a budget the group waits. -/
theorem witness_Engine : blockStatus .pass passBlock 0 = 0 ∧ blockStatus .pass 0 0 = -1 ∧
    hasEntry (sE passBlock) 0 0 0 false = true ∧ friezeOn (getDie (sE passBlock) 0) = false := by decide +kernel
theorem ok_of_read {α ε σ : Type} {r : Except ε α × σ} {l : α} (h : r.1.toOption = some l) : r = (.ok l, r.2) := by
  obtain ⟨_ | _, _⟩ := r
  · simp [Except.toOption] at h
  · simp [Except.toOption] at h; simp [h]
theorem witness_BlockAt : BlockAt (sE passBlock) iss (getA (sE passBlock) iss 2) 27 passBlock := by
  refine ⟨rfl, { lane := { slot := 0, e := 27, n := 27 }, place := .sp }, sE passBlock, spReads (sE passBlock) 0 27 27, _, ?_, nofun, ok_of_read ?_, ?_⟩ <;>
    decide +kernel
/-- The same block in memory, at address 0 of user space. -/
def sEm : State := { sE 0 with mem := mset (sE 0).mem (729 * fr 20).toNat (atomOf (blockOf passBlock)) }
def unitsE : List Machine.PUnit := (List.range 27).map fun (j : Nat) => { pa := 19683 * fr 20 + j, attr := { super := true, via := .core 0 } }
theorem witness_BlockAtMemory : BlockAt sEm iss (getA sEm iss 4) 0 passBlock := by
  refine ⟨rfl, { lane := { slot := 0, e := 0, n := 27 }, place := .mem unitsE }, ((checkLanes (xlOf 0 (srcRegs sEm iss)) 0 (getA sEm iss 4) .load false
    [{ slot := 0, e := 0, n := 27 }] sEm).2.2), toNonets 27 passBlock, _, ?_, nofun, ok_of_read ?_, ?_⟩ <;>
    decide +kernel
theorem test_mpass : let t := after (.mpass (some 9) 2 0) (sE passBlock)
    t.ops.map (fun p => (p.2.kind, ofNonets p.2.block == passBlock, p.2.core)) = [(.pass, true, 0)] ∧ (getDie t 0).held = 1 ∧
    (g0 t).pending.map (·.regs) = [[.s 9]] ∧ mget 0 (g0 (after (.mpass (some 9) 2 0) (sE 0))).r.s 9 = -1 := by decide +kernel
theorem test_mpassWaits : let s := updDie (sE passBlock) 0 fun d => { d with budget := 0 }
    (g0 (after (.mpass (some 9) 2 0) s)).wait = some .leave ∧
    (g0 (after (.mpass none 2 0) (updCluster s 0 fun k => { k with mtable := List.range 27 }))).wait = some .engine := by decide +kernel
/-- R303, R304: two members of three arrive; the last admits the next phase. -/
def sNb (a : Int) : State := setTeam (sE 0) 1 { core := 0, lid := 1, number := 1, size := 9, castGroups := 1, nb := [(4, { arrived := a, expected := 3 })] }
theorem test_barrier : let b (s : State) := getNb s 1 4
    (b (after (.nbarr none 4 (.imm 1)) (sNb 1))).arrived = 2 ∧ (b (after (.nbarr (some 9) 4 (.imm 1)) (sNb 2))).phase = 1 ∧
    trapOf (after (.nbarr none 4 (.imm 3)) (sNb 1)) = some 9 ∧ mget 0 (g0 (after (.nbget 9 4) (sNb 1))).r.s 9 = 3 ^ 9 + 3 ∧
    (b (after (.nbinit 5 (.imm 4)) (sNb 1))).arrived = 1 ∧ (getNb (after (.nbinit 5 (.imm 4)) (sNb 1)) 1 5).expected = 4 := by decide +kernel
theorem test_nbwait : (g0 (after (.nbwait 4 (.imm 0)) (sNb 1))).wait = some (.barrier 4 0) ∧
    (g0 (after (.nbwait 4 (.imm 1)) (sNb 1))).wait = none := by decide +kernel
/-- R306: a push of nine lanes is one entry; a pop of an empty bank waits. -/
def sFifo (l : List (List Int)) : State := updBank (updCore (sE 0) 0 fun c => { c with modelo := half 27 - 2 * 3 ^ 5, setlo := half 27 - 2 * 3 ^ 5 }) 0 5 fun k => { k with fifo := l }
theorem test_fifo : ((getBank (after (.fpush (.imm 5) 1) (sFifo [])) 0 5).fifo.map fun l => l.take 6) = [[7, 0, 0, 8, 0, 0]] ∧
    (g0 (after (.fpush (.imm 5) 1) (sFifo (List.replicate 729 [])))).wait = some .push ∧
    (getBank (after (.fpop 4 (.imm 5)) (sFifo [])) 0 5).held.length = 1 ∧ trapOf (after (.fpush (.imm 6) 1) (sFifo [])) = some 8 ∧
    bankMode (sFifo []) 0 5 = some (-1) := by decide +kernel
theorem test_pclr : let s := after (.sts27 1 2 (.imm 0)) (sE 0)
    spPresent s 0 27 = true ∧ spPresent (after (.pclr 2 (.imm 1)) s) 0 27 = false := by decide +kernel
theorem test_leave : let t := after (.leave (.imm 5)) (sE 0)
    ((g0 t).leave, (getDie t 0).held) = (5, 5) ∧ ((g0 (after .unleave t)).leave, (getDie (after .unleave t) 0).held) = (0, 0) ∧
    (g0 (after (.leave (.imm 81)) (updDie (sE 0) 0 fun d => { d with held := 1 }))).wait = some .leave := by decide +kernel
/-- R293, R294, R310, R311. -/
theorem test_pin : let t := after (.mpin (some 9) 2) (sE passBlock)
    (findPin t 0 1 true 27).map (·.gen) = some 1 ∧ mget 0 (g0 t).r.s 9 = 1 ∧ findPin (after (.munpin 2) t) 0 1 true 27 = none ∧
    (after (.mzero 2 3) (sE 0)).ops.map (fun p => (p.2.kind, p.2.tile, p.2.count)) = [(.zero, 2, 3)] := by decide +kernel
theorem test_query : let t := after (.qpost (some 9) 4) (sE 0)
    t.qrys.map (fun p => (p.2.addr, p.2.st)) = [(0, .posted)] ∧ (g0 t).pending.map (·.regs) = [[.s 9]] ∧
    mget 0 (g0 (after (.qstat (some 9) (.imm 2))
      (setTeam (sE 0) 1 { core := 0, lid := 1, number := 1, size := 9, castGroups := 1, queries := [(2, 5)] }))).r.s 9 = 3 ^ 26 + 5 := by decide +kernel

/-! ## Events of groups (06) -/

/-- The state after an event. -/
def ev (e : Instr) (s : State) : State := match exec e s with | .next t => t | _ => State.reset
/-- The state is unchanged. -/
def idles (e : Instr) (s : State) : Bool := match exec e s with | .next t => decide (t = s) | _ => false

def pendS : Pend := { id := 5, kind := .load, regs := [.s 9], land := some { words := [(.s 9, 7)] }, pc := 54 }
def pendV : Pend := { id := 5, kind := .load, regs := [.v 4], slots := [0, 2], land := some { lanes := [(0, 30), (2, 31)] } }
def pendF : Pend := { pendS with land := some { fails := [{ slot := 3 }] } }
def gPen (p : Pend) : Group := { gWith { super := true, v := [(4, .f [1, 2, 3, 0, 0, 0, 0, 0, 0])] } with pending := [p, { id := 6, kind := .load, regs := [.s 1] }] }
/-- R208, R313: the hypotheses of each clause, and what lands. -/
theorem test_landing : let s (p : Pend) := grp (gPen p)
    getGroup (s pendS) 0 0 = some (gPen pendS) ∧ (gPen pendS).rolling = false ∧
    (g0 (ev (.valueLanding 0 0 5) (s pendS))).r.s = [(9, 7)] ∧ (g0 (ev (.valueLanding 0 0 5) (s pendS))).pending.length = 1 ∧
    mget (.u 0) (g0 (ev (.valueLanding 0 0 5) (s pendV))).r.v 4 = .f [30, 2, 31, 0, 0, 0, 0, 0, 0] ∧
    (g0 (ev (.valueLanding 0 0 5) (s pendF))).raised.map (fun x => (x.cls, x.pc, x.lanes)) = some (12, 54, [{ slot := 3 }]) := by
  decide +kernel
theorem test_landingHeld : let g := gPen pendF
    let s := grp { g with r := { g.r with tr := { inHandler := true } } }
    (g0 (ev (.valueLanding 0 0 5) s)).held12.map (·.cls) = some 12 ∧
    (g0 (ev (.valueLanding 0 0 5) (grp { g with st := .draining }))).held12 = none := by decide +kernel

def storedX (n : Int) : Stored :=
  { team := 1, role := 0, target := 540, item := { x := n, y := 0, z := 0 }, pos := n, v := [(3, n)], shared := { super := true }, width := 9
    nospawn := false }
/-- R153: an item in transit enters a build of its team at its target, in the pool's context. -/
def sT1 : State :=
  let s := grp { placedGroup with transit := [{ slot := 2, it := storedX 7, waits := [] }] }
  setGroup (setTeam s 1 { core := 0, lid := 1, number := 1, size := 9, castGroups := 1, pool := [3] }) 0 3 { team := 1, lid := 1 }
theorem test_itemMove : let t := ev (.itemMove 0 0 2) sT1
    (g0 t).transit = [] ∧ (getCore t 0).builds.map (fun b => (b.ctx, b.target, b.items.map (·.item.x))) = [(3, 540, [7])] ∧
    ((getTeam t 1).map (·.pool)) = some [] := by decide +kernel
/-- R155: the last item of its group; the group drains. -/
theorem test_itemMoveLast : (g0 (ev (.itemMove 0 0 2)
    (setGroup sT1 0 0 { placedGroup with items := [], active := [], transit := [{ slot := 2, it := storedX 7, waits := [] }] }))).st =
    .draining ∧
    idles (.itemMove 0 0 2) (setGroup sT1 0 0 { placedGroup with st := .halted, transit := [{ slot := 2, it := storedX 7, waits := [] }] }) = true := by
  decide +kernel

/-- R154: a build of two items, its context reserved; the team's other group waits at a barrier. -/
def bld (n : Nat) : Build :=
  { id := 8, team := 1, role := 0, target := 540, ctx := 3, shared := { super := true }, sticky := {}
    items := (List.range n).map fun (j : Nat) => storedX (j : Int) }
def sB (b : Build) (g : Group) (since : Int) : State :=
  let s := setGroup (setLaunch (grp g) 1 { addr := 0, source := .host 0 1, st := .running, hdr := { w := 9 } }) 0 3 { team := 1, lid := 1 }
  updDie (updCore s 0 fun c => { c with builds := [b] }) 0 fun d => { d with cycle := since }
def gAtBarrier : Group := { placedGroup with st := .stalled, wait := some (.barrier 4 0) }
theorem witness_HasBuild : HasBuild (sB (bld 2) gAtBarrier 0) 0 8 (bld 2) (storedX 0) { team := 1, lid := 1 } ∧
    HasBuild (sB (bld 9) placedGroup 0) 0 8 (bld 9) (storedX 0) { team := 1, lid := 1 } := by
  refine ⟨⟨?_, ?_, ?_, ?_, ?_, ?_, ?_⟩, ?_, ?_, ?_, ?_, ?_, ?_, ?_⟩ <;> decide +kernel
theorem test_former : let b (s : State) := (getGroup (ev (.formerGroupIssue 0 8) s) 0 3).map fun g => (g.st, g.pc, g.active)
    b (sB (bld 2) gAtBarrier 0) = some (.ready, 540, [0, 1]) ∧ b (sB (bld 9) placedGroup 0) = some (.ready, 540, List.range 9) ∧
    idles (.formerGroupIssue 0 8) (sB (bld 2) placedGroup 0) = true := by decide +kernel
theorem test_formerTimeout : idles (.formerIssueTimeout 0 8) (sB (bld 2) placedGroup 728) = true ∧
    (getGroup (ev (.formerIssueTimeout 0 8) (sB (bld 2) placedGroup 729)) 0 3).map (fun g => (g.st, mfind g.items 1)) =
      some (.ready, some { x := 1, y := 0, z := 0 }) := by decide +kernel
theorem witness_AllWait : AllWait (sB (bld 2) gAtBarrier 0) 0 (bld 2) := by
  intro e he h1 h2
  have : e ∈ [(0, gAtBarrier), (3, ({ team := 1, lid := 1 } : Group))] := by
    have hs : (getCore (sB (bld 2) gAtBarrier 0) 0).groups ++ shadowGroups (getCore (sB (bld 2) gAtBarrier 0) 0) =
      [(0, gAtBarrier), (3, { team := 1, lid := 1 })] := by decide +kernel
    rwa [hs] at he
  simp only [List.mem_cons, List.not_mem_nil, or_false] at this
  rcases this with rfl | rfl
  · decide +kernel
  · exact absurd rfl h2
/-- R156: a drained context returns to the pool where storage is left. -/
theorem test_draining : let g : Group := { st := .draining, lid := 1, team := 1, storage := 2187 }
    let s := setLaunch (grp g) 1 { addr := 0, source := .host 0 1, hdr := { regs := 243, w := 9, gP := 1, nP := 243, gC := 1, nC := 243 } }
    let full (n : Nat) := updCore s 0 fun c => { c with used := n }
    (getTeam (ev (.drainingEnd 0 0) s) 1).map (·.pool) = some [0] ∧ (g0 (ev (.drainingEnd 0 0) s)).st = .reserved ∧
    poolRegs (launchHdr s 1) ≤ 2187 ∧ (getCore (ev (.drainingEnd 0 0) (full 5)) 0).used = 5 ∧
    idles (.drainingEnd 0 0) (setGroup s 0 0 { g with pending := [pendS] }) = true := by decide +kernel

/-! ## Events of teams (06, 07) -/

/-- A range of 27 items that casts; its launch has teams of 9 in groups of 3 lanes and one spawn context. -/
def hdrT : Header := { T := 9, w := 3, spawn := 1, regs := 4, gP := 3, nP := 4, entry := 540 }
def casting : Range := { lid := 1, box := { x1 := 26 }, p1 := 26, pc := 54, st := .casting, family := 2, r := { super := true, s := [(1, 5)] } }
def sQ (h : Header) (l : List (Nat × Range)) : State :=
  let s := l.foldl (fun s e => setRange s 0 e.1 e.2) (delGroup (State.reset.withFetchWord 162 0) 0 0)
  { setLaunch s 1 { addr := 0, source := .host 0 1, st := .running, hdr := h } with issue := none, teams := [] }
theorem test_cast : let s := sQ hdrT [(2, casting)]
    let t := ev (.teamCast 0 2) s
    firstCaster s 0 2 casting = true ∧ teamFits s 0 hdrT 9 = true ∧ (getTeam t s.nextId).map (fun m => (m.size, m.p0, m.pool)) = some (9, 0, [3]) ∧
    (getCore t 0).groups.map (fun e => (e.1, e.2.pc, mfind e.2.items 1)) = [(0, 54, some { x := 1, y := 0, z := 0 }),
      (1, 54, some { x := 4, y := 0, z := 0 }), (2, 54, some { x := 7, y := 0, z := 0 }), (3, 0, none)] ∧
    (getRange t 0 2).map (·.p0) = some 9 := by decide +kernel
theorem test_castLast : (getRange (ev (.teamCast 0 2) (sQ hdrT [(2, { casting with p0 := 18 })])) 0 2) = none ∧
    idles (.teamCast 0 2) (sQ hdrT [(2, { casting with st := .running })]) = true ∧
    idles (.teamCast 0 2) (updCore (sQ hdrT [(2, casting)]) 0 fun c => { c with used := regFile }) = true ∧
    /- R191: a serving launch finds no room; the bulk share is requested -/
    (let s := updDie (updLaunch (updCore (sQ hdrT [(2, casting)]) 0 fun c => { c with used := regFile }) 1 fun l =>
        { l with tcb := { serving := true } }) 0 fun d => { d with shares := [{ lid := 1, start := 0 }, { lid := 5, start := 0 }] };
      (getDie (ev (.teamCast 0 2) s) 0).shares.map (fun h => (h.lid, h.requested)) = [(1, false), (5, true)]) := by decide +kernel

/-- R145, R146: the two halves of a box along `ix` at a join, and two runs of one box. -/
def joined (x0 x1 : Int) : Range := { lid := 1, box := { x0 := x0, x1 := x1, y1 := 2 }, p1 := 3 * (x1 - x0 + 1) - 1, pc := 54, st := .atJoin, family := 2 }
theorem witness_TwoAtJoin : TwoAtJoin (sQ hdrT [(0, joined 0 3), (4, joined 4 8)]) 0 2 0 4 (joined 0 3) (joined 4 8) := by
  refine ⟨by decide, by decide, by decide, by decide, rfl, rfl, rfl, rfl, ⟨by decide, by decide, by decide⟩, ⟨by decide, by decide, by decide⟩, ?_⟩
  intro e q h _
  have : (getCore (sQ hdrT [(0, joined 0 3), (4, joined 4 8)]) 0).ranges = [(0, joined 0 3), (4, joined 4 8)] := by decide
  simp only [getRange, this, mfind] at h
  by_cases h0 : e = 0
  · exact .inl h0
  · by_cases h4 : e = 4
    · exact .inr h4
    · simp_all
theorem test_merge : let t (a b : Range) := ev (.rangeMerge 0 2) (sQ hdrT [(0, a), (4, b)])
    wholeRun (joined 0 3) = true ∧ wholeRun (joined 4 8) = true ∧
    (getRange (t (joined 0 3) (joined 4 8)) 0 0).map (fun q => (q.box, q.p0, q.p1, q.st)) = some ({ x1 := 8, y1 := 2 }, 0, 26, .running) ∧
    getRange (t (joined 0 3) (joined 4 8)) 0 4 = none ∧
    (let a := { joined 0 8 with p1 := 10 }
     let b := { joined 0 8 with p0 := 11 }
     (getRange (t a b) 0 0).map (fun q => (q.p0, q.p1)) = some (0, 26) ∧
     (getRange (t a { b with pc := 60 }) 0 4).map (fun q => (q.p0, q.st)) = some (11, .running)) := by decide +kernel

/-- R147: a team of two groups of three lanes at a join. -/
def gJoin (n : Nat) (v : SMap VReg) : Group :=
  { st := .stalled, wait := some (.join 3), lid := 1, team := 1, num := n, width := 3, pc := 162, r := { super := true, v := v, s := [(1, 5)] }
    items := (List.range 3).map fun (l : Nat) => (l, { x := (3 * n + l : Nat), y := 0, z := 0 }), active := [0, 1, 2] }
def sTm (v : SMap VReg) : State :=
  let s := setGroup (setGroup (sQ hdrT []) 0 0 (gJoin 0 v)) 0 1 (gJoin 1 v)
  setTeam s 1 { core := 0, lid := 1, number := 1, size := 6, castGroups := 2, box := { x1 := 5 } }
theorem witness_JoinedWith : ∀ e ∈ teamAll (sTm [(4, .a 0 3 0 0)]) 1, JoinedWith e.2 { super := true, v := [(4, .a 0 3 0 0)], s := [(1, 5)] } 162 := by
  have : teamAll (sTm [(4, .a 0 3 0 0)]) 1 = [(0, gJoin 0 [(4, .a 0 3 0 0)]), (1, gJoin 1 [(4, .a 0 3 0 0)])] := by decide
  rw [this]
  intro e he
  simp only [List.mem_cons, List.not_mem_nil, or_false] at he
  rcases he with rfl | rfl <;> exact ⟨rfl, ⟨3, rfl⟩, rfl, rfl, rfl, rfl, rfl, rfl, rfl, by decide⟩
theorem test_dissolve : let t := ev (.teamDissolve 1) (sTm [(4, .a 0 3 0 0)])
    getTeam t 1 = none ∧ (getCore t 0).groups = [] ∧
    (getRange t 0 0).map (fun q => (q.box, q.p0, q.p1, q.pc, q.st)) = some ({ x1 := 5 }, 0, 5, 162, .atJoin) ∧
    ((getRange t 0 0).map fun q => (q.r.v, q.r.s)) = some ([(4, .a 0 3 0 0)], [(1, 5)]) := by decide +kernel
theorem test_dissolveNot : let t := ev (.teamDissolve 1) (sTm [(4, .f [1, 2, 3])])
    (getTeam t 1).isSome = true ∧ (getGroup t 0 1).map (fun g => (g.st, g.wait)) = some (.ready, none) ∧
    idles (.teamDissolve 1) (setGroup (sTm []) 0 1 { gJoin 1 [] with st := .ready, wait := none }) = true := by decide +kernel
/-- R156. -/
theorem test_retire : let s := setTeam (sQ hdrT []) 1 { core := 0, lid := 1, number := 1, size := 6, castGroups := 2 }
    getTeam (ev (.teamRetire 1) s) 1 = none ∧
    idles (.teamRetire 1) (setTeam s 1 { core := 0, lid := 1, number := 1, size := 6, castGroups := 2, outstanding := 1 }) = true ∧
    idles (.teamRetire 1) (sTm []) = true := by decide +kernel

/-- R182, R183: two groups of one bundle, and a range; the older group at an equally idle engine, with its partner. -/
def vecBundle : Bundle :=
  { gmask := 4, gtest := 0, body := .pair (.addVector (.reg 3 false) (.imm 1) (.imm (-5))) .nopScalar }
def gRdy (age : Nat) : Group := { placedGroup with age := age, reason := 11 }
def sCh (a b : Nat) (since : Nat) (l : List (Nat × Range)) : State :=
  let s := l.foldl (fun s e => setRange s 0 e.1 e.2) (setGroup (grp (gRdy a)) 0 1 (gRdy b))
  { updCore s 0 fun c => { c with sinceRange := since, fetch := [{ lid := 1, addr := placedPc, value := (encodeBundle vecBundle).getD 0 }] } with issue := none }
theorem test_choice : let i (s : State) := (ev (.issueChoice 0) s).issue.map fun i => (i.who, i.partners)
    i (sCh 3 5 0 []) = some (.group 1, [0]) ∧ i (sCh 244 5 0 [(2, { rng with wait := 1 })]) = some (.group 0, [1]) ∧
    i (sCh 3 5 27 [(2, { rng with r := { super := true } })]) = some (.range 2, []) := by decide +kernel
/-- R187. -/
theorem test_leaveGrant : let s (budget : Nat) := updDie (grp { placedGroup with st := .stalled, wait := some .leave }) 0 fun d =>
      { d with budget := budget, held := 30, leaveQ := [{ charge := 51, core := 0, ctx := 0, team := 1, num := 0, explicit := true }] }
    (getDie (ev (.leaveGrant 0) (s 81)) 0).held = 81 ∧ (g0 (ev (.leaveGrant 0) (s 81))).leave = 51 ∧
    (g0 (ev (.leaveGrant 0) (s 81))).st = .ready ∧ idles (.leaveGrant 0) (s 80) = true := by decide +kernel
/-- R306 to R308: a push that waits, and a pop of three lanes. -/
def sBank (h : Held) (l : List (List Int)) (g : Group) : State :=
  updBank (updCore (grp g) 0 fun c => { c with modelo := half 27 - 2 * 3 ^ 5, setlo := half 27 - 2 * 3 ^ 5 }) 0 5 fun k => { k with fifo := l, held := [h] }
def aPush : Held := { push := true, core := 0, ctx := 0, id := 3, team := 1, entries := [[7]], count := 1 }
def aPop : Held := { push := false, core := 0, ctx := 0, id := 3, count := 1 }
def entry : List Int := (List.range 27).map fun (j : Nat) => (j : Int)
theorem test_fifoPush : let g : Group := { placedGroup with st := .stalled, wait := some .push }
    bankMode (sBank aPush [] g) 0 5 = some (-1) ∧ (getBank (ev (.fifoPushEntry 0 5) (sBank aPush [] g)) 0 5).fifo = [[7]] ∧
    (g0 (ev (.fifoPushEntry 0 5) (sBank aPush [] g))).st = .ready ∧
    idles (.fifoPushEntry 0 5) (sBank aPush (List.replicate 729 []) g) = true := by decide +kernel
theorem test_fifoPop : let g : Group := { placedGroup with pending := [{ id := 3, kind := .other, regs := [.v 4], slots := [0, 2] }] }
    let t := ev (.fifoPopRemove 0 5) (sBank aPop [entry, []] g)
    (getBank t 0 5).fifo = [[]] ∧ (g0 t).pending.map (fun p => p.land.map (·.lanes)) =
      [some [(0, 0 + 1 * 3 ^ 9 + 2 * 3 ^ 18), (2, 6 + 7 * 3 ^ 9 + 8 * 3 ^ 18)]] ∧
    idles (.fifoPopRemove 0 5) (sBank aPop [] g) = true := by decide +kernel

/-! ## Events of queues (07) -/

/-- Queue 2 is on, with one command in its ring; the task control block of the tests above stands in memory. -/
def qOn : Queue :=
  { gen := 1, jc := 3, jp := 3, enable := true, cbase := -40 * 3 ^ 19, pbase := -40 * 3 ^ 19 + 1, ctail := 1, expect := 1, nextRec := 1 }
def sHq (x : Int) (k : Queue) : State :=
  let s := { sE 0 with countHost := 2, phase := .ready, locked := true, launches := [(7, { addr := 0, source := .host 2 1, st := .waiting })], nextId := 9 }
  setQueue (setHostBytes s (hostBlockAddr s (729 * k.cbase + k.chead)) (packBlock (blockOf x))) 2 k
def cmd (n kind a : Int) : Int := n * 3 ^ 216 + kind * 3 ^ 207 + a * 3 ^ 173
def recs (t : State) : List (Int × Int × Int) := (getQueue t 2).records.map fun r => (r.cmd, r.status, r.addr)
theorem witness_Served : Served (getQueue (sHq 0 qOn) 2) ∧ (getQueue (sHq 0 qOn) 2).unfinished = [] ∧ gcpWaiting (sHq 0 qOn) < 729 := by
  refine ⟨⟨?_, ?_, ?_, ?_⟩, ?_, ?_⟩ <;> decide +kernel
theorem ok_of_toOption (x : Except Nat (List Int)) (l : List Int) (h : x.toOption = some l) : x = .ok l := by
  cases x <;> simp_all [Except.toOption]
theorem witness_CommandIs : CommandIs (sHq (cmd 1 3 0) qOn) 2 (cmd 1 3 0) := ⟨blockOf (cmd 1 3 0), ok_of_toOption _ _ (by decide +kernel), by decide +kernel⟩
theorem witness_WellFormedCmd : WellFormedCmd (cmd 1 3 0) 3 0 ∧ WellFormedCmd (cmd 1 1 packet.addr) 1 packet.addr ∧
    WellFormedCmd (cmd 1 2 packet.addr) 2 packet.addr := by
  refine ⟨⟨?_, ?_, ?_, ?_, ?_⟩, ⟨?_, ?_, ?_, ?_, ?_⟩, ?_, ?_, ?_, ?_, ?_⟩ <;> decide +kernel
/-- R167, R169: a no operation, one out of order, a malformed command. -/
theorem test_noOperation : let t (n : Int) := ev (.noOperation 2) (sHq (cmd n 3 0) qOn)
    recs (t 1) = [(1, 1, 0)] ∧ recs (t 5) = [(5, -7, 0)] ∧ (getQueue (t 5) 2).expect = 6 ∧ (getQueue (t 1) 2).chead = 1 ∧
    recs (ev (.malformedCommand 2) (sHq (cmd 1 4 0) qOn)) = [(1, -8, 0)] := by decide +kernel
/-- R172: a launch with the wait count 1 waits; R169: its abort ends it. -/
theorem test_launchCommand : let t := ev (.launchCommand 2) (sHq (cmd 1 1 packet.addr) qOn)
    (getLaunch t 9).map (fun l => (l.addr, l.holder, l.st, l.tcb.nx)) = some (packet.addr, 1, .waiting, 1) ∧ recs t = [] ∧
    trits (ofNonets ((readPhys t (packet.addr + 27)).1.toOption.getD [])) 158 154 = 1 := by decide +kernel
theorem test_abort : let s := sHq (cmd 1 2 packet.addr) qOn
    let t := ev (.abort 2) (setLaunch s 9 { addr := packet.addr, source := .host 2 1, st := .waiting })
    (getLaunch t 9).map (fun l => (l.st, l.status, l.abortBy)) = some (.complete, -5, [(2, 1)]) ∧
    recs (ev (.abort 2) s) = [(1, -8, packet.addr)] := by decide +kernel
/-- R167: a block that is no packed block. -/
theorem test_rejectedBlock : let s := sHq 0 qOn
    let u := setHostBytes s (hostBlockAddr s (729 * qOn.cbase + qOn.chead)) (List.replicate 49 255)
    recs (ev (.malformedCommand 2) u) = [(0, -8, 0)] ∧ (getQueue (ev (.malformedCommand 2) u) 2).expect = 1 := by decide +kernel
/-- R166. -/
theorem test_queueRegisters : let s := sHq 0 qOn
    let off := setQueue s 2 { qOn with enable := false, ptail := 4 }
    let ctl : Int := 3 ^ 9 + 4 * 3 ^ 6 + 5 * 3 ^ 3
    (getQueue (ev (.doorbell 2 26) s) 2).ctail = 26 ∧ idles (.doorbell 2 27) s = true ∧
    (getQueue (ev (.hqPtailWrite 2 8) s) 2).ptail = 8 ∧ idles (.hqCtlWrite 2 (ctl + 3)) off = true ∧
    (getQueue (ev (.hqCtlWrite 2 (ctl + 1)) off) 2).jp = 5 ∧ (getQueue (ev (.hqCtlWrite 2 (ctl + 1)) off) 2).phead = 4 ∧
    (getQueue (ev (.hqCtlWrite 2 0) s) 2).enable = false ∧ idles (.hqCtlWrite 2 (3 ^ 9 + 7 * 3 ^ 6 + 5 * 3 ^ 3)) off = true := by decide +kernel
/-- R168, R170. -/
theorem witness_RecFits : RecFits 1 { cmd := 3, status := 1, addr := packet.addr } := by
  refine ⟨?_, ?_, ?_, ?_, ?_, ?_⟩ <;> unfold InTrits <;> decide +kernel
theorem test_record : let s := sHq 0 { qOn with records := [{ cmd := 3, status := 1, addr := packet.addr }] }
    let t := ev (.completionRecordWrite 2) s
    (getQueue t 2).phead = 1 ∧ (readHostBlock t (729 * qOn.pbase)).toOption.map (fun b => trits (ofNonets b) 215 189) = some 3 ∧
    idles (.completionRecordWrite 2) (setQueue s 2 { getQueue s 2 with ptail := 1 }) = true := by decide +kernel
theorem test_eventRecord : let s := { setQueue (sHq 0 qOn) 0 qOn with events := [{ kind := 2, code := 4, addr := 0 }] }
    (getQueue (ev .eventRecordWrite s) 0).records.map (·.code) = [4] ∧
    (getQueue (ev .eventRecordWrite (setQueue s 0 {})) 0).lost = 1 ∧ (getDie (ev (.lgBudgetWrite 0 81) s) 0).budget = 81 ∧
    idles (.lgBudgetWrite 0 80) s = true := by decide +kernel

/-! ## Events of launches (07) -/

/-- A kernel header of one group of nine at the user address 0, its entry at 30 (R212). -/
def header : Int := 1 + 9 * 3 ^ 9 + 9 * 3 ^ 18 + 3 ^ 46 + 30 * 3 ^ 90
def tcbL : Tcb := { userOk := true, uroot := fr 0, nx := 9 }
def laun (t : Tcb) : Launch := { addr := packet.addr, source := .host 2 4, st := .queued, tcb := t }
def sL (x : Int) (t : Tcb) : State :=
  { sHq 0 qOn with
      mem := mset (mset (sE 0).mem (729 * fr 12).toNat (atomOf (pte 20 (3 ^ 28 + 3 ^ 30)))) (729 * fr 20).toNat (atomOf (blockOf x))
      launches := [(3, laun t)], agenda := [] }
def started (x : Int) (t : Tcb) : State := ev (.launchStart 3) (sL x t)
theorem test_launchHeader : liveDies (sL header tcbL) = [0] ∧
    (fetchWalked (sL header tcbL) (tcbXl 9 tcbL) 27 0).1.map ofNonets = some header ∧ headerStatus 0 header = 1 := by decide +kernel
theorem test_launchStart :
    (getLaunch (started header tcbL) 3).map (fun l => (l.st, l.pieces, l.hdr.entry)) = some (.running, [0], 30) ∧
    (getDie (started header tcbL) 0).senders.map (fun p => (p.first, p.last, p.kind, p.lid)) = [(0, 8, 1, 3)] := by decide +kernel
/-- R172, R180, R213: refused with -9, -2, -3, -4. -/
def refusal (x : Int) (t : Tcb) : Option (LState × Int) := (getLaunch (started x t) 3).map fun l => (l.st, l.status)
theorem test_launchRefused : refusal header { tcbL with kernel := 19683 } = some (.complete, -9) ∧ refusal 0 tcbL = some (.complete, -2) := by
  decide +kernel
theorem test_launchRefusedLater : refusal header { tcbL with shadow := true, nx := 10 } = some (.complete, -3) ∧
    refusal header { tcbL with coResident := true, nx := 1000 } = some (.complete, -4) ∧
    (getLaunch (started header { tcbL with coResident := true }) 3).map (·.castAll) = some true := by decide +kernel
/-- R151, R180. -/
theorem test_coResident : let s := setLaunch (sL header tcbL) 3 { laun { tcbL with coResident := true, nx := 27 } with
      castAll := true, hdr := headerOf 0 header }
    let t := ev (.coResidencyCast 3) s
    (getLaunch t 3).map (·.st) = some .running ∧
    ((getCore t 0).groups.map fun e => (e.1, e.2.pc, mfind e.2.items 0)) =
      [(0, -162, some { x := 0, y := 0, z := 0 }), (1, 30, some { x := 0, y := 0, z := 0 })] ∧
    ((getCore t 1).groups.map fun e => (e.1, mfind e.2.items 8)) = [(0, some { x := 17, y := 0, z := 0 })] ∧
    idles (.coResidencyCast 3) (updCore s 1 fun c => { c with used := regFile }) = true := by decide +kernel
/-- R173: the status in block 1, and the answer; with a successor whose count falls. -/
def lDone (sc : Int) : Launch := { laun { tcbL with succ := sc } with st := .complete }
def sDone (sc : Int) (l : List Int) : State :=
  { sL header tcbL with launches := [(3, lDone sc)], mem := mset (sL header tcbL).mem ((sc / 27).toNat) (atomOf (blockOf (ofNonets l))) }
theorem test_complete : let t := ev (.launchComplete 3) (sDone 0 [])
    getLaunch t 3 = none ∧ recs t = [(4, 1, packet.addr)] ∧
    trits (ofNonets ((readPhys t (packet.addr + 27)).1.toOption.getD [])) 167 159 = 1 ∧
    recs (ev (.launchComplete 3) (updLaunch (sDone 0 []) 3 fun l => { l with aborting := true, status := -10 })) = [(4, -10, packet.addr)] := by
  decide +kernel
theorem test_packetArrives : let s (n : Nat) := updDie (sL header tcbL) 0 fun d => { d with senders := [packet], mail := List.replicate n packet }
    (getDie (ev (.workPacket 0) (s 3)) 0).mail.length = 4 ∧ (getDie (ev (.workPacket 0) (s 3)) 0).senders = [] ∧
    idles (.workPacket 0) (s 27) = true := by decide +kernel
/-- No bank of the cluster holds anything. -/
def noBanks (s : State) : State :=
  [0, 1, 2].foldl (fun s n => updCore s n fun c => { c with modelo := 0, setlo := 0, modehi := 0, sethi := 0 }) s
def sShare (h : Share) (cyc : Int) (t : Tcb) : State :=
  updDie (noBanks (setGroup { sL header tcbL with launches := [(3, { laun t with st := .running, pieces := [0] })] } 0 0 { placedGroup with lid := 3, stopped := true, nf := 0 }))
    0 fun d => { d with shares := [h], cycle := cyc, mail := [packet] }
theorem test_slice : let t : Tcb := { tcbL with slice := 1 }
    (findShare (ev (.timeSliceExpiry 0 3) (sShare { lid := 3, start := 0 } 1594323 t)) 0 3).map (·.requested) = some true ∧
    idles (.timeSliceExpiry 0 3) (sShare { lid := 3, start := 0 } 1594322 t) = true := by decide +kernel
/-- R188 to R190: a requested share whose group has stopped is saved, and returns. -/
theorem test_save : let s := sShare { lid := 3, start := 0, requested := true } 0 { tcbL with slice := 1, image := packet.addr }
    let t := ev (.shareSave 0 3) s
    shareStopped s 0 3 = true ∧ (List.range (shareImage s 0 3).length).all (fun (i : Nat) => backedMem s (blockFrame (packet.addr / 27 + (i : Int)))) = true ∧
    (findShare t 0 3).map (fun h => (h.saved, h.groups.map fun e => (e.1, e.2.1, e.2.2.pc))) = some (true, [(0, 0, -162)]) ∧
    getGroup t 0 0 = none := by
  decide +kernel
/-- A share of one group, saved; its image begins with the block that stands at its image pointer. -/
def sSaved : State := sShare { lid := 3, start := 0, saved := true, size := 1, groups := [(0, 5, { placedGroup with lid := 3, stopped := true, nf := 0 })] }
  0 { tcbL with slice := 1, image := packet.addr }
theorem test_restore : let s := updDie (delGroup sSaved 0 0) 0 fun d => { d with mail := [] }
    let t := ev (.shareRestore 0 3) s
    (getGroup t 0 0).map (fun g => (g.st, g.pc, g.stopped)) = some (.ready, -162, false) ∧
    (findShare t 0 3).map (fun h => (h.saved, h.groups)) = some (false, []) := by decide +kernel
/-- R192: the staged group takes context 18; what stood there is kept, and returns. -/
def sShadow : State := updCore (setGroup (grp placedGroup) 0 18 { placedGroup with pc := 54 }) 0 fun c =>
  { c with shadow := some (8, [(18, { placedGroup with team := 8, pc := 108 })]), swapping := true }
theorem test_swap : let t := ev (.shadowSwap 0) sShadow
    (getGroup t 0 18).map (·.pc) = some 108 ∧ (getGroup t 0 0).map (·.pc) = some (-162) ∧ (getCore t 0).swapping = false ∧
    (getGroup (ev (.shadowSwapBack 0) (updCore t 0 fun c => { c with swapping := true })) 0 18).map (fun g => (g.pc, g.displaced)) =
      some (54, false) ∧
    idles (.shadowSwap 0) (updCore sShadow 0 fun c => { c with swapWait := 3 }) = true := by decide +kernel

/-! ## Events of engines (11) -/

/-- An operation in its turn; the scratchpad holds 5 at 0, 7 at 2187 and -3 at 2214. -/
def theOp (k : EngKind) (x : Int) : EngineOp :=
  { kind := k, core := 0, ctx := 0, team := 1, lid := 1, pend := some 6, block := blockOf x, tile := 2, charge := 5 }
def sOp (o : EngineOp) : State :=
  let s := setGroup (sE 0) 0 0 { gE with pending := [{ id := 6, kind := .other, regs := [.s 9] }] }
  let s := updBank s 0 0 fun k => { k with data := [(0, 5)] }
  let s := updDie (updCluster s 0 fun k => { k with mtable := [5], copyq := [5] }) 0 fun d => { d with held := 5 }
  spWrites (spWrites { s with ops := [(5, o)] } 0 true 2187 [7]) 0 true 2214 [-3]
theorem runs_of (s : State) (op : EngineOp) (a : Int) (n : Nat) (h : (spFits s (clusterOf op.core) a n &&
    (List.range n).all fun j => !spParity s (clusterOf op.core) (a + j) && decide (-half 9 ≤ spRead s (clusterOf op.core) (a + j) ∧ spRead s (clusterOf op.core) (a + j) ≤ half 9)) = true)
    (hl : s.late = []) : RunReads s op a n := by
  simp only [Bool.and_eq_true, List.all_eq_true, List.mem_range, Bool.not_eq_true', decide_eq_true_eq] at h
  exact ⟨h.1, fun j hj => ⟨(h.2 j hj).1, (h.2 j hj).2, fun e he => by simp [lateAt, hl, mget] at he⟩⟩
/-- One tile, integer modulo 3^54, one deep, A from 0, B from 2187, both in the scratchpad. -/
def pass54 : Int := setTrits (setTrits (setTrits (setTrits passBlock 236 234 2) 184 184 1) 138 138 1) 137 102 2187
theorem witness_OpTurn : OpTurn (sOp (theOp .pass pass54)) 5 (theOp .pass pass54) pass54 ∧
    TilesFree (sOp (theOp .pass pass54)) 5 (theOp .pass pass54) ∧ passStatus pass54 2 = 0 ∧ trits pass54 236 234 = 2 := by
  have h : (getCluster (sOp (theOp .pass pass54)) (clusterOf (theOp .pass pass54).core)).mtable.takeWhile (· ≠ 5) = [] := by
    decide +kernel
  have hf : TilesFree (sOp (theOp .pass pass54)) 5 (theOp .pass pass54) := by
    intro j hj
    rw [h] at hj
    cases hj
  refine ⟨⟨?_, ?_, ?_, ?_, .inr ?_, ?_, ?_, ?_, ?_, ?_, ?_, ?_, ?_, ?_⟩, hf, ?_, ?_⟩ <;> decide +kernel
theorem witness_RunReads : RunReads (sOp (theOp .pass pass54)) (theOp .pass pass54) 0 27 ∧
    RunReads (sOp (theOp .pass pass54)) (theOp .pass pass54) 2187 27 ∧ spRead (sOp (theOp .pass pass54)) 0 2187 = 7 := by
  refine ⟨runs_of _ _ _ _ ?_ ?_, runs_of _ _ _ _ ?_ ?_, ?_⟩ <;> decide +kernel
/-- R293. -/
theorem test_zero : let o := { theOp .zero 0 with tile := 2, count := 1 }
    let s := updCluster (sOp o) 0 fun k => { k with tiles := [(2, [(0, 9)]), (3, [(0, 9)])] }
    let t := ev (.drain 5) s
    acc t 0 2 0 = 0 ∧ acc t 0 3 0 = 9 ∧ t.ops = [] ∧ (getDie t 0).held = 0 ∧ (getCluster t 0).mtable = [] ∧
    (g0 t).pending.map (fun p => p.land.map (·.words)) = [some [(.s 9, 1)]] := by decide +kernel
/-- R285, R295. -/
theorem test_passCancelled : let t := ev (.matrixPass 5) (sOp { theOp .pass pass54 with cancelled := true })
    (g0 t).pending.map (fun p => p.land.map (·.words)) = [some [(.s 9, -7)]] ∧
    (let o := theOp .pass pass54
     idles (.matrixPass 5) { updCluster (sOp o) 0 fun k => { k with mtable := [4, 5] } with ops := [(4, o), (5, o)] } = true) := by
  decide +kernel
/-- One row of 27 from address 0 to address 2187 (R296, R297). -/
def copy27 : Int := 3 * 3 ^ 240 + 3 ^ 237 + 2 * 3 ^ 229 + 27 * 3 ^ 218 + 3 ^ 209 + 3 ^ 208 + 3 ^ 158 + 2187 * 3 ^ 122
theorem test_copy : let t := ev (.blockCopy 5) (ev (.blockCopy 5) (sOp (theOp .copy copy27)))
    copyStatus copy27 = 0 ∧ spRead t 0 2187 = 5 ∧ spRead t 0 2188 = 0 ∧ spPresent t 0 2187 = true ∧ spRead t 0 2214 = -3 ∧
    (g0 t).pending.map (fun p => p.land.map (·.words)) = [some [(.s 9, 1)]] ∧
    (g0 (ev (.blockCopy 5) (sOp (theOp .copy (setTrits copy27 157 122 (3 ^ 34)))))).pending.map (fun p => p.land.map (·.words)) =
      [some [(.s 9, -6)]] := by decide +kernel
/-- R298: words of one nonet, three apart, into register 4 of group 0. -/
def regCopy : Int := 3 * 3 ^ 240 + 2 * 3 ^ 237 + 2 * 3 ^ 229 + 3 ^ 208 + 2184 * 3 ^ 172 + 3 * 3 ^ 159 + 4 * 3 ^ 100 + 3 ^ 92
def sReg : State :=
  setGroup (sOp (theOp .regCopy regCopy)) 0 0 { gE with
    pending := [{ id := 6, kind := .other, regs := [.s 9] }, { id := 7, kind := .copy, regs := [.v 4], slots := List.range 9 }] }
theorem test_regCopy : let t := (List.range 10).foldl (fun s _ => ev (.copyIntoRegisters 5) s) sReg
    copyStatus regCopy = 0 ∧ mget (.u 0) (g0 t).r.v 4 = .f [0, 7, 0, 0, 0, 0, 0, 0, 0] ∧
    (g0 t).pending.map (fun p => (p.id, p.land.map (·.words))) = [(6, some [(.s 9, 1)])] := by decide +kernel
/-- R57, R61: the walk of page 0 is cached, and the next takes its walker. -/
def aWalk (id : Nat) (stale : Bool) : Walk :=
  { id := id, asid := 3, page := 0, super := false, userOk := true, uroot := fr 0, sroot := 0, stale := stale }
theorem test_walk : let s (st : Bool) := updDie (sE 0) 0 fun d => { d with walks := [aWalk 1 st], missq := [aWalk 2 false] }
    (getDie (ev (.pageTableWalk 0 1) (s false)) 0).tlb.map (fun e => (e.asid, e.page, e.leaf.frame)) = [(3, 0, fr 20)] ∧
    (getDie (ev (.pageTableWalk 0 1) (s false)) 0).walks.map (·.id) = [2] ∧ (getDie (ev (.pageTableWalk 0 1) (s true)) 0).tlb = [] := by
  decide +kernel

/-! ## Events of the search engine (05) -/

/-- A query with its number, packet and descriptor; two nodes of three nonets. -/
def qDescr : Int := 3 ^ 99 + 3 ^ 90 + 3 ^ 135 + 3 ^ 72 + 5 * 3 ^ 36
def aQuery (st : QState) : Query :=
  { core := 0, ctx := 0, team := 1, lid := 1, addr := 0, st := st, super := false, userOk := true, uroot := fr 0, seq := 4, pend := some 6
    packet := blockOf (10 * 3 ^ 189), desc := blockOf qDescr, vec := (List.range 27).map fun (j : Nat) => .fin (j : Int) 0 }
def sQy (q : Query) : State := { sOp (theOp .pass 0) with qrys := [(8, q)], agenda := [], mem := mset tables (729 * fr 20 + 1).toNat (atomOf []) }
def ended (t : State) : Option (Int × Int) := (mfind t.qrys 8).map fun q => (if q.st = .ended then 1 else 0, q.status)
/-- R119, R126: a packet of zeros is malformed; a packet that cannot be read. -/
theorem test_accept : ended (ev (.queryAccept 8) (sQy { aQuery .posted with addr := 27 })) = some (1, -1) ∧
    (getTeam (ev (.queryAccept 8) (sQy { aQuery .posted with addr := 27 })) 1).map (fun m => (m.nextSeq, m.queries.map (·.1))) = some (2, [1]) ∧
    (ended (ev (.queryAccept 8) (sQy { aQuery .posted with addr := 19683 }))).map (fun p => decide (p.2 < 0)) = some true := by decide +kernel
/-- R117, R121: node 0 of the descriptor stands at the address 0 and holds 1 to 27 after its links; squared distance. -/
theorem test_probe : let q := { aQuery .running with asked := [(0, none)], vec := [.fin 3 0] }
    (mfind (ev (.searchProbe 8 0) (sQy q)).qrys 8).map (fun q => q.asked.map (·.1)) = some [0] := by decide +kernel
theorem test_list : let n (d : Int) (k : Int) : SNode := { dist := .fin d 0, node := k }
    (offerNode 2 (n 3 7) [n 1 5, n 4 6]).map (·.node) = [5, 7] ∧ (offerNode 2 (n 9 7) [n 1 5, n 4 6]).map (·.node) = [5, 6] := by
  decide +kernel
/-- R120, R128: no node left, the limit, cancelled, full. -/
theorem test_expansion : let q := { aQuery .running with list := [{ dist := .fin 1 0, node := 0, expanded := true }] }
    let u := { aQuery .running with list := [{ dist := .fin 1 0, node := 0 }], expansions := 10 }
    ended (ev (.expansion 8) (sQy q)) = some (1, 1) ∧ ended (ev (.expansion 8) (sQy u)) = some (1, 2) ∧
    ended (ev (.expansion 8) (sQy { u with full := true })) = some (1, 3) ∧
    ended (ev (.expansion 8) (sQy { u with cancelled := true })) = some (1, -7) ∧
    idles (.expansion 8) (sQy { u with asked := [(0, none)] }) = true := by decide +kernel
theorem witness_QueryFits : QueryFits (aQuery .ended) 5 := by
  unfold QueryFits InTrits
  decide +kernel
/-- R126, R127. -/
theorem test_completion : let q := { aQuery .ended with status := -1, cause := 0, packet := blockOf (54 * 3 ^ 108) }
    let s := setTeam (sQy q) 1 { core := 0, lid := 1, number := 1, size := 9, castGroups := 1, queries := [(4, 0)], outstanding := 1 }
    mfind (ev (.queryCompletion 8) s).qrys 8 = none ∧
    (getTeam (ev (.queryCompletion 8) s) 1).map (fun m => (m.outstanding, m.queries)) = some (0, [(4, -1)]) ∧
    trits (ofNonets (queryRecord q 0)) 35 27 = -1 := by decide +kernel
/-- R287, R290: the first step reads row 0 of A; with all rows and columns read, row 0 by columns 0 and 1 of B. -/
theorem test_pass : ((mfind (ev (.matrixPass 5) (sOp (theOp .pass pass54))).ops 5).map fun o => (o.row, o.got.map (·.head?))) =
      some (1, [some 5]) ∧
    let row (l : List Int) : List Int := (l ++ List.replicate 27 0).take 27
    let t := ev (.matrixPass 5) (sOp { theOp .pass pass54 with
      row := 162, got := row [5] :: List.replicate 80 (row []), more := row [7] :: row [-3] :: List.replicate 79 (row []) })
    acc t 0 2 0 = 35 ∧ acc t 0 2 1 = -15 ∧ t.ops = [] := by decide +kernel
/-- R291: words, nine blocks to a row, the tile zeroed. -/
def drain0 : Int := 2 * 3 ^ 240 + 3 ^ 237 + 2 * 3 ^ 228 + 3 ^ 227 + 3 ^ 211 + 9 * 3 ^ 166 - 3 ^ 156 - 3 ^ 119
theorem witness_drain : drainStatus drain0 2 = 0 ∧ ((theOp .drain drain0).count : Int) = trits drain0 239 237 ∧ trit drain0 236 = 0 ∧
    trits drain0 226 224 = 0 ∧ trit drain0 211 = 1 ∧ trit drain0 156 = -1 ∧ trit drain0 119 = -1 ∧ trit drain0 82 = 0 ∧
    trit drain0 227 = 1 ∧ blockBarrier .drain drain0 = 0 ∧ spFits (sOp (theOp .drain drain0)) 0 (243 * 80) 243 = true := by decide +kernel

/-! ## Events of debug (12) -/

/-- The group of core 0 commands group 3 of core 1; the selection of its die names that one. -/
def sDb (h : Group) : State :=
  updDie (setGroup (grp placedGroup) 1 3 h) 0 fun d => { d with dbgsel := 3 ^ 4 + 3, cycle := 100 }
def halted : Group := { placedGroup with st := .halted, haltCause := 4, r := { super := true, s := [(7, 50)], v := [(3, .a 10 1 0 0)] } }
theorem witness_Selects : Selects (sDb halted) 0 0 1 3 ∧ getGroup (sDb halted) 1 3 = some halted ∧
    mboxOn (getDie (sDb halted) (dieOf 0)) = false := by
  refine ⟨⟨?_, ?_, .inl ?_⟩, ?_, ?_⟩ <;> decide +kernel
/-- R325 to R328. -/
theorem test_debug : let h (e : Instr) (g : Group) := (getGroup (ev e (sDb g)) 1 3).map fun g => (g.st, g.haltCause)
    let d (e : Instr) (g : Group) := (getDie (ev e (sDb g)) 0).dbgdata
    h (.halt 0 0) placedGroup = some (.halted, 4) ∧ h (.resume 0 0) halted = some (.ready, 0) ∧
    (getGroup (ev (.step 0 0) (sDb halted)) 1 3).map (·.stepping) = some true ∧
    d (.readVectorLane 0 0 2 3) halted = 12 ∧ d (.readScalar 0 0 7) halted = 50 ∧
    d (.readState 0 0) halted = 4 + 27 + 4 * 3 ^ 6 ∧ (getDie (ev (.halt 0 0) (sDb placedGroup)) 0).dbgcmd = 3 ^ 26 + 1 ∧
    (getDie (ev (.readScalar 0 0 7) (sDb placedGroup)) 0).dbgcmd = 5 + 729 * 7 - 3 ^ 26 := by decide +kernel
/-- R320 to R322. -/
theorem test_rollback : let g : Group := { placedGroup with region := [.s 4], restart := 540, restartActive := List.range 9 }
    let t := ev (.rollback 0 0 (some (.s 4))) { grp g with issue := none }
    (g0 t).pc = 540 ∧ (g0 t).restartCount = 1 ∧ (g0 t).r.tr.rollbacks = 1 ∧
    (g0 (ev (.rollback 0 0 (some (.s 4))) { grp { g with pending := [pendS] } with issue := none })).rolling = true ∧
    (g0 (ev (.rollback 0 0 (some (.s 5))) { grp g with issue := none })).r.tr.cause = 13 := by decide +kernel
/-- R335, R336: the frieze is on, its ring in frame 25. -/
def sFz : State := { updDie (sE 0) 0 fun d => { d with fzctl := fr 25 + 3 ^ 26, fzseq := 5, cycle := 77 } with agenda := [] }
theorem test_sample : let t := ev (.friezeSample 0) sFz
    friezeOn (getDie sFz 0) = true ∧ (getCore t 0).sampleNext = 1 ∧ (getDie t 0).fzseq = 6 ∧
    ((readPhys t (19683 * fr 25 + 27 * 5)).1.toOption.getD []).take 4 = [7, 6, 0, 0] := by decide +kernel
/-- R337, R338. -/
theorem test_trial : let v : Int := 1 + 2 * 3 + 2 * 3 ^ 8 + 9 * 3 ^ 11
    let t := ev (.causalTrialStart 0 v) (updDie (sE 0) 0 fun d => { d with pg := [(2, 40)] })
    ((getDie t 0).trialS, (getDie t 0).trialLeft, (getDie t 0).ctctl) = (40, 3 ^ 15, v) ∧
    (let s := updDie t 0 fun d => { d with trialLeft := 0, pg := [(2, 45)] }
     let u := ev (.causalTrialEnd 0) s
     ((getDie u 0).ctcount, trit (getDie u 0).ctctl 0) = (5, -1)) ∧ idles (.causalTrialEnd 0) t = true := by decide +kernel
/-- R237, R238. -/
theorem test_registerWrite : let s := grp placedGroup
    (g0 (ev (.ckLoRead 0 0) (updDie s 0 fun d => { d with cycle := 3 ^ 27 * 6 + 1 }))).r.ckhi = 6 ∧
    (getDie (ev (.systemRegisterWrite 0 0 16 55) s) 0).pg = [(0, 55)] ∧
    idles (.systemRegisterWrite 0 0 16 55) (grp { placedGroup with r := {} }) = true := by decide +kernel

/-! ## Events of the shell and of the host port (03, 07, 13) -/

/-- Stack 3 is live, with 9 lines; its fifth atom has some wrong symbols. -/
def sSc (errs : List (Nat × Nat)) (k : Stack) : State :=
  let s := { sE 0 with sbs := [(3, k)], itab := (List.range 81).map fun j => (j, 3), agenda := [] }
  { s with mem := [(0, atomOf []), (((stackBlock s 3 5).getD 0).toNat, { atomOf [7] with errs := errs })] }
def stk : Stack := { live := true, lines := 9, period := 20, next := 5 }
theorem test_scrub : let t (n : Nat) := scrubBlock (sSc ((List.range n).map fun j => (j, 1)) stk) 3 ((stackBlock (sSc [] stk) 3 5).getD 0)
    let k (n : Nat) := [(getStack (t n) 3).corrected, (getStack (t n) 3).uncorrectable]
    (stackBlock (sSc [] stk) 3 5).isSome = true ∧ k 0 = [0, 0] ∧ (t 4).events.map (fun r => (r.kind, r.code)) = [(2, 1)] ∧
    k 4 = [0, 1] ∧ k 3 = [1, 0] := by decide +kernel
/-- R91: the lag of half a period against the atoms of a stack; the end of a period. -/
theorem test_scrubLevel : let k : Stack := { stk with next := 0, elapsed := 20 * 3 ^ 26 }
    let e : Stack := { stk with elapsed := 20 * 3 ^ 27 }
    (getStack (ev (.scrubLevelChange 3) (sSc [] k)) 3).level = 1 ∧
    (getStack (ev (.scrubLevelChange 3) (sSc [] { k with level := 3, next := stackAtoms })) 3).level = 2 ∧
    ((getStack (ev (.scrubPeriodEnd 3) (sSc [] e)) 3).late, (getStack (ev (.scrubPeriodEnd 3) (sSc [] e)) 3).level) = (true, 3) ∧
    (getStack (ev (.scrubPeriodEnd 3) (sSc [] { e with next := stackAtoms })) 3).next = 0 := by decide +kernel
/-- R90, R80. -/
theorem test_shellRegisters : let s := sSc [] stk
    (getStack (ev (.scCtlWrite 3 (7 * 9)) s) 3).enable = false ∧ (getStack (ev (.scCtlWrite 3 (7 * 9)) s) 3).period = 7 ∧
    (getStack (ev (.scCtlWrite 3 (7 * 9 + 3)) s) 3).period = 7 ∧
    idles (.scCtlWrite 3 (7 * 9 + 3 ^ 11)) s = true ∧ (getStack (ev (.scStatusWrite 3 0) { s with sbs := [(3, { stk with missed := true })] }) 3).missed = false ∧
    itabEntry (ev (.miItabWrite 0 3) { s with sbs := [(3, stk), (2, stk)] }) 0 = 3 ∧
    itabEntry (ev (.miItabWrite 0 2) { s with sbs := [(3, stk), (2, stk)] }) 0 = 2 ∧ (ev (.miCtlLock 1) s).locked = true ∧
    idles (.miItabWrite 0 3) { s with locked := true } = true ∧ idles (.retraining 3 1) s = true := by decide +kernel
/-- R166, R363: a block for queue 2 while it is on; what the port discards. -/
def regBlock : List Int := (toNonets 3 (queueCtl qOn)) ++ toNonets 3 0 ++ toNonets 3 0 ++ toNonets 3 9 ++ toNonets 3 4 ++ toNonets 3 6 ++ List.replicate 9 0
theorem witness_hostPort : unpackBlock (packBlock regBlock) = some regBlock ∧ (packBlock regBlock).length = 49 ∧
    (∀ x ∈ blockRegs qOn, InTrits 27 x) ∧ trits (ofNonets (regBlock.take 3)) 26 12 = 0 ∧ trit (ofNonets (regBlock.take 3)) 0 = 1 := by
  unfold InTrits
  decide +kernel
theorem test_hostPort : let s := sHq 0 qOn
    idles (.hostWrite 3 (packBlock regBlock)) s = true ∧ idles (.hostWrite 196 (List.replicate 49 255)) s = true ∧
    (getQueue (writeQueueReg s 2 3 9) 2).ctail = 9 ∧ (getQueue (writeQueueReg s 2 5 6) 2).seen = 6 := by decide +kernel
theorem test_window : let s := State.reset
    (ev (.windowRegisterWrite 2 (49 * 19683)) s).countHost = 49 * 19683 ∧ (ev (.windowRegisterWrite 3 (2 ^ 40)) s).countByte = 581130734 ∧
    idles (.windowRegisterWrite 0 5) (sHq 0 qOn) = true := by decide +kernel

/-! ## Events of links and of coherence (13) -/

/-- Compute die 0 and its stack base die 9, on link 0; die 0 is live. -/
def sCo (d : DirEntry) (b : SMap Busy) : State :=
  let s := updDie (sE 0) 0 fun k => { k with routes := [(9, 0, false)] }
  let s := updDie s 1 fun k => { k with life := .live }
  { s with sbs := [(0, { live := true, lines := 81, dir := [(3, d)], busy := b })], links := [(0, { up := true, gen := 1, credits := [9, 9, 9, 9] }),
      (1, { up := true, gen := 1, credits := [9, 9, 9, 9] })], agenda := [], mem := [(9, atomOf [4]), (10, atomOf []), (11, atomOf [])] }
def rq (src dst : Nat) (bs : List Nat) (l : Option (List Int)) : Msg := { src := src, dst := dst, tag := 5, blocks := bs, line := 3, block := l }
theorem witness_MsgFits : MsgFits 2 1 (rq 9 0 [1] (some (blockOf 4))) ∧ MsgFits 2 5 { rq 9 0 [] none with errCode := 3, errCause := 2 } := by
  have h1 : ∀ l, (rq 9 0 [1] (some (blockOf 4))).block = some l → l.length = 27 ∧ (∀ x ∈ l, -half 9 ≤ x ∧ x ≤ half 9) ∧
      (rq 9 0 [1] (some (blockOf 4))).blocks.length = 1 := by
    intro l h
    cases h
    decide +kernel
  have h2 : ∀ l, ({ rq 9 0 [] none with errCode := 3, errCause := 2 } : Msg).block = some l → l.length = 27 ∧
      (∀ x ∈ l, -half 9 ≤ x ∧ x ≤ half 9) ∧ ({ rq 9 0 [] none with errCode := 3, errCause := 2 } : Msg).blocks.length = 1 := by
    intro l h
    cases h
  unfold MsgFits InTrits
  refine ⟨⟨?_, ?_, ?_, ?_, ?_, ?_, ?_, ?_, ?_, h1, ?_⟩, ?_, ?_, ?_, ?_, ?_, ?_, ?_, ?_, ?_, h2, ?_⟩ <;>
    decide +kernel
/-- R341, R342. -/
theorem test_message : msgOf true (msgBytes 2 1 (rq 9 0 [1] (some (blockOf 4)))) = some (2, 1, rq 9 0 [1] (some (blockOf 4))) ∧
    (let h : FlitHead := { gen := 1, credit := [1, 0, 3, 0], valid := [3], kind := 0, ack := 7, seq := 8 }
     flitHead 1 (flitBytes h (some (3, List.replicate 16 9))) = some h ∧
     slotBytes (flitBytes h (some (3, List.replicate 16 9))) 3 = List.replicate 16 9) := by decide +kernel
/-- R343: a flit in order with an acknowledgement for die 0; one with a gap; an idle one; a request for replay. -/
def aFlit (kind seq ack : Nat) (m : Option Msg) : List Nat :=
  flitBytes { gen := 1, credit := [1, 0, 0, 0], valid := if m.isSome then [3] else [], kind := kind, ack := ack, seq := seq }
    (m.map fun m => (3, msgBytes 2 2 m))
theorem test_flit : let s := sCo .uncached []
    let t := ev (.flitReceive 0 (aFlit 0 1 0 (some (rq 9 0 [] none))) true) s
    (getLink t 0).lastGood = 1 ∧ t.agenda.head? = msgEvent 2 2 (rq 9 0 [] none) ∧ t.agenda.length = 2 ∧
    (getLink (ev (.flitReceive 0 (aFlit 0 5 0 none) true) s) 0).dropping = true := by
  decide +kernel
theorem test_flitKinds : let s := sCo .uncached []
    (getLink (ev (.flitReceive 0 (aFlit 2 0 0 none) true) s) 0).credits = [10, 9, 9, 9] ∧
    (ev (.flitReceive 0 (aFlit 1 1 4 none) true) s).agenda.head? = some (.replay 0 4) ∧
    (ev (.replay 0 4) { s with links := [(0, { up := true, unacked := [(4, []), (5, [1])] })] }).agenda = [.flitReceive 1 [1] true] := by
  decide +kernel
/-- R346 to R348. -/
theorem test_training : let s := sCo .uncached []
    (getLink (ev (.linkTraining 9 3 2) s) 18).gen = 1 ∧ (getLink (ev (.linkTraining 0 0 2) s) 1).up = false := by decide +kernel
theorem test_linkManager : let s := sCo .uncached []
    let open_ (r : LinkReq) (l : List (Nat × LinkReq)) := setManager s 0 { window := some (1, r), reqs := l, next := 3 }
    let wide := [(9, List.replicate 4 Width.half ++ List.replicate 4 Width.full)]
    (linkWidths (ev (.widthReduction 0) (open_ (.width 9 4) [])) 9).getD 4 .off = .half ∧
    (getManager (ev (.widthReduction 0) (open_ (.width 9 4) [(2, .frequency 0 7)])) 0).window = some (2, .frequency 0 7) ∧
    (getManager (ev (.widthReduction 0) { open_ (.width 9 4) [(2, .frequency 0 7)] with widths := wide }) 0).window = none ∧
    (getDie (ev (.frequencyChange 0) (open_ (.frequency 2 7) [])) 0).point = 2 ∧
    idles (.frequencyChange 0) (open_ (.width 9 4) []) = true ∧
    (getManager (ev (.linkManagement (rq 9 0 [] none)) (setManager s 0 { reqs := [(1, .frequency 0 7), (2, .width 9 4)], next := 3 })) 0).window =
      some (2, .width 9 4) := by decide +kernel
/-- R176, R245. -/
theorem test_mailbox : (getDie (ev (.mailboxPacket { rq 1 0 [] none with block := some (packetBlock { packet with kind := 5, status := -3 }) })
    (sCo .uncached [])) 0).senders.map (fun p => (p.kind, p.source, p.status, p.addr, p.lid)) = [(5, 1, -3, packet.addr, 1)] := by decide +kernel
/-- R349, R350 at the home slice of stack 0: the directory entry after each request, and what goes to die 0. -/
def due (s : State) : List (Nat × Nat) := s.agenda.filterMap fun e => match e with
  | .flitReceive _ l _ => ((flitHead 1 l).map fun h => h.valid.headD 3).bind fun i => (msgOf (decide (i < 3)) (slotBytes l i)).map fun m => (m.1, m.2.1)
  | _ => none
theorem witness_Line : let s := sCo .uncached []
    lineHome s 3 = 0 ∧ (mfind (getStack s 0).busy 3).isNone = true ∧
    (readMemBlock s (lineBlock 3 0) (homeAttr s (rq 0 9 [0] none))).1.toOption = some (blockOf 4) ∧
    (homeAttr s (rq 0 9 [0] none)).binary = false := by decide +kernel
theorem witness_IsBlock : IsBlock (blockOf 4) := by unfold IsBlock InTrits; decide +kernel
theorem test_requests : let r (d : DirEntry) (e : Instr) := let t := ev e (sCo d []); (getDir t 0 3, due t)
    r .uncached (.readShared (rq 0 9 [0] none)) = (.shared [0], [(2, 1)]) ∧ r (.owned 0) (.readShared (rq 0 9 [0] none)) = (.owned 0, [(2, 1)]) ∧
    r .uncached (.readOwned (rq 0 9 [0] none)) = (.owned 0, [(2, 1)]) ∧ r (.shared [0]) (.upgrade (rq 0 9 [] none)) = (.owned 0, [(2, 2)]) ∧
    r (.owned 0) (.writeBack (rq 0 9 [1] (some (blockOf 4)))) = (.uncached, [(2, 2)]) ∧
    r (.owned 0) (.evictionNotice (rq 0 9 [] none)) = (.uncached, [(2, 2)]) ∧
    r .uncached (.partialWrite (rq 0 9 [0] (some (blockOf 6)))) = (.uncached, [(2, 2)]) ∧
    atomAt (ev (.partialWrite (rq 0 9 [0] (some (blockOf 6)))) (sCo .uncached [])) 9 = atomOf [6] ∧
    r .uncached (.atomicRequest (rq 0 9 [] none)) = (.uncached, [(2, 2)]) := by decide +kernel
/-- A write and an atomic of die 0 that are on their way (R78, R344, R351): the home slice holds the write's block, and the die has its
answer. -/
def aFlight : Flight := { die := 0, tag := 5, core := some 0, block := 9, key := 0, binary := false, alloc := true }
def sFly : State := { sCo .uncached [] with flights := [aFlight] }
theorem test_flight : let t := ev (.partialWrite (rq 0 9 [] none)) sFly
    let u := ev (.atomicRequest (rq 0 9 [] none)) sFly
    t.flights = [{ aFlight with landed := true }] ∧ (getSlice t 0 3).map (·.dirty) = some [0] ∧ due t = [(2, 2)] ∧ due u = [(2, 1)] ∧
    (ev (.data (rq 9 0 [0] (some (blockOf 4)))) u).flights = [] ∧
    (mfind (getStack (ev (.partialWrite (rq 0 9 [] none)) (sCo (.shared [0, 1]) [])) 0).busy 3).map (fun b => (b.op, b.snoops)) =
      some (5, [0, 1]) := by decide +kernel
/-- R350: die 0 asks for a line that die 1 owns; the request waits while it is snooped. -/
theorem test_snoop : let t := ev (.readOwned (rq 0 9 [0] none)) (sCo (.owned 1) [])
    (mfind (getStack t 0).busy 3).map (fun b => (b.op, b.snoops)) = some (2, [1]) ∧ getDir t 0 3 = .owned 1 ∧
    (let u := ev (.acknowledge (rq 1 9 [] none)) t
     mfind (getStack u 0).busy 3 = none ∧ getDir u 0 3 = .owned 0) ∧
    (let w := ev (.readShared (rq 1 9 [0] none)) t
     (mfind (getStack w 0).busy 3).map (fun b => b.waiting.map (·.1)) = some [1]) := by decide +kernel
/-- R350, R351 at die 0. -/
def sLine (c : CLine) : State := updDie (sCo .uncached []) 0 fun d => { d with lines := [(3, c)] }
theorem test_snooped : let c : CLine := { owned := true, blocks := [0, 1], dirty := [0] }
    getLine (ev (.invalidate (rq 9 0 [] none)) (sLine c)) 0 3 = {} ∧
    (getLine (ev (.downgrade (rq 9 0 [] none)) (sLine c)) 0 3).blocks = [0, 1] ∧
    due (ev (.fetchAndInvalidate (rq 9 0 [] none)) (sLine c)) = [(2, 3), (2, 2)] ∧
    due (ev (.invalidate (rq 9 0 [] none)) (sLine { c with backs := [7] })) = [(2, 4)] ∧
    (getLine (ev (.data (rq 9 0 [2] (some (blockOf 4)))) (sLine { asks := [{ tag := 5, op := 1, blocks := [2] }] })) 0 3).blocks = [2] ∧
    (getLine (ev (.data (rq 9 0 [2] (some (blockOf 4)))) (sLine { asks := [{ tag := 5, op := 1, blocks := [2] }], stale := true })) 0 3).blocks = [] ∧
    (getLine (ev (.acknowledge (rq 9 0 [] none)) (sLine { c with asks := [{ tag := 5, op := 3, blocks := [0] }], owned := false })) 0 3).owned = true := by decide +kernel

/-! ## Firmware, power and peers (03, 13) -/

def fwS (n kind args : Int) (p : Phase) : State :=
  let k := { qOn with cbase := -40 * 3 ^ 19, pbase := -40 * 3 ^ 19 + 1 }
  let s : State := { sHq (n * 3 ^ 216 + kind * 3 ^ 207 + args) k with phase := p, countByte := 9, hB := 2 ^ 30 }
  { s with fw := { q := k } }
def fwOut (e : Instr) (n kind args : Int) (p : Phase) : List (Int × Int) :=
  (ev e (fwS n kind args p)).fw.q.records.map fun r => (r.cmd, r.status)
theorem witness_FwServed : FwServed (fwS 1 1 (3 ^ 198) .ready) 1 1 (3 ^ 216 + 3 ^ 207 + 3 ^ 198) :=
  ⟨⟨by decide +kernel, by decide +kernel, by decide +kernel, by decide +kernel⟩, by decide +kernel,
    ⟨blockOf (3 ^ 216 + 3 ^ 207 + 3 ^ 198), ok_of_toOption _ _ (by decide +kernel), by decide +kernel⟩, by decide +kernel, by decide +kernel⟩
theorem witness_ByteFrame : ByteFrame (fwS 1 5 0 .ready) (-2 * 3 ^ 19 + 2) (2 ^ 30 + 2 * 19683) := by
  refine ⟨?_, ?_, ?_, ?_, ?_⟩ <;> decide +kernel
/-- R361. -/
theorem test_firmware : fwOut .generation 1 1 (4 * 3 ^ 198) .ready = [(1, 1)] ∧ fwOut .generation 2 1 (3 ^ 198) .ready = [(2, -1)] ∧
    fwOut .quote 1 5 0 .recovery = [(1, -3)] ∧ fwOut .imageUpload 1 7 0 .ready = [(1, -3)] ∧
    fwOut .imageUpload 1 7 0 .recovery = [(1, 1)] ∧ fwOut .operatingPoint 1 4 (9 * 3 ^ 198) .ready = [(1, -1)] ∧
    fwOut .operatingPoint 1 4 (3 ^ 198) .ready = [(1, -2)] ∧ fwOut .operatingPoint 1 4 0 .ready = [] ∧
    (getManager (ev .operatingPoint (fwS 1 4 0 .ready)) 0).window = some (1, .frequency 0 1) := by decide +kernel
theorem test_keySlots : fwOut .loadKeySlot 1 2 0 .ready = [(1, -1)] ∧
    fwOut .loadKeySlot 1 2 (3 ^ 198 + (-2 * 3 ^ 19 + 2) * 3 ^ 165) .ready = [(1, -3)] ∧
    fwOut .clearKeySlot 1 3 (3 ^ 198) .ready = [(1, 1)] ∧ fwOut .clearKeySlot 1 3 (82 * 3 ^ 198) .ready = [(1, -1)] := by decide +kernel
theorem test_frames : let f : Int := (-2 * 3 ^ 19 + 2) * 3 ^ 174
    fwOut .quote 1 5 0 .ready = [(1, -1)] ∧ fwOut .transportKey 1 8 f .ready = [(1, -3)] ∧ fwOut .dieMap 1 6 (f + 1) .ready = [(1, -1)] := by
  decide +kernel
/-- R352 to R358: CD4's router has failed; HD-B has failed; bring-up in its order. -/
def up4 : BringUp :=
  { images := [true, true, true, true], versions := (List.range 4).map Config.fusedVersion, hdB := false
    routers := [true, true, true, true, false, true, true, true, true], clusters := List.replicate 9 [2, 5, 0]
    sbs := List.replicate 9 357913941, gens := List.replicate 27 (2, 1), lpddr := [93312, 46656] }
def upS : State :=
  { bringUpCounts up4 (bringUpStacks up4 ((List.range 9).foldl (classify up4) (trainAll up4 { State.reset with hdB := false }))) with
      phase := .ready }
theorem witness_PowerOn : up4.hdA = true ∧ up4.images = [true, true, true, true] ∧
    (∀ i, i < 4 → Config.fusedVersion i ≤ up4.versions.getD i 0) ∧ State.reset.phase ≠ .ready ∧ State.reset.dies = [] ∧
    State.reset.sbs = [] ∧ State.reset.itab = [] := by
  refine ⟨rfl, rfl, fun i hi => ?_, by decide, rfl, rfl, rfl⟩
  match i with
  | 0 | 1 | 2 | 3 => exact Nat.le_refl _
theorem test_powerOn : upS.locked = true ∧ (List.range 9).map (fun d => (getDie upS d).life) =
      [.live, .live, .live, .live, .out, .live, .live, .live, .live] ∧ (getDie upS 3).plinth = 0 ∧ (getDie upS 3).liveClusters = [0, 2, 5] ∧
    (getStack upS 4).live = false ∧ (getStack upS 3).lines = 357913941 ∧ (List.range 9).map (itabEntry upS) = [0, 1, 2, 3, 5, 6, 7, 8, 0] ∧
    (getDie upS 8).budget = 273 ∧ upS.count2 = 2 ∧ (getLink upS 48).up = false := by
  decide +kernel
theorem test_recovery : (ev (.powerOn { up4 with images := [true, false, true, true] }) State.reset).phase = .recovery ∧
    (ev (.powerOn { up4 with images := [] }) upS).phase = .ready ∧ idles (.powerOn { up4 with hdA := false }) State.reset = true := by
  decide +kernel
/-- R359: the route from CD1 to SB7 with CD4 dead, around it by its row; R357: the frames of eight full stacks. -/
theorem test_route : (mfind (getDie upS 1).routes 16).map (·.1) = some 9 ∧ (mfind (getDie upS 0).routes 16).map (·.1) = some 15 ∧
    upS.count1 = 10845877 := by decide +kernel
theorem test_reset : let t := ev .packageReset { upS with fw := { upS.fw with quotes := 3 } }
    t.phase = .off ∧ t.fw.quotes = 3 ∧ t.fw.versions = [] ∧ t.dies = [] := by decide +kernel
/-- R364. -/
def sPeer (w : Nat) : State :=
  { sE 0 with ports := [(2, { up := true, negotiated := true, count := 5, outBase := fr 0, outCount := w })], agenda := []
              mem := [((729 * fr 3).toNat, atomOf [4, 5])] }
theorem test_peer : let b := 729 * fr 3
    unpackBlock (ev (.peerAccess 2 b []) (sPeer 9)).portData = some (blockOf (4 + 5 * 3 ^ 9)) ∧ (ev (.peerAccess 2 b []) (sPeer 3)).portData = [] ∧
    (ev (.peerAccess 2 b [(1, -6)]) (sPeer 9)).mem = [((729 * fr 3).toNat, atomOf [4, -6])] ∧
    (ev (.peerNegotiation 3 2 (fr 0) 9 (fr 0) 0) (sPeer 9)).countPeer = 9 ∧
    (getPort (ev (.peerNegotiation 2 0 (fr 0) 9 (fr 0) 0) (sPeer 9)) 2).up = false ∧
    (getPort (ev (.peerPortDown 2) (sPeer 9)) 2).up = false := by decide +kernel

/-! ## Hypotheses of statements over memory, links and peers -/

/-- Nothing is left unseen where nothing was written; a release of a core without waiting writes does not wait, one of a core whose
writes wait for a line does (R104, R351). -/
theorem witness_UpToDate (ks : List Nat) : UpToDate sM1 iss1 ks ∧
    UpToDate (checkLanes (xlOf 0 regsM) 0 (getA sM1 iss1 1) .load false [{ slot := 0, e := 0, n := 1 }] sM1).2.2 iss1 ks := by
  have h1 : sM1.late = [] := rfl
  have h2 : (checkLanes (xlOf 0 regsM) 0 (getA sM1 iss1 1) .load false [{ slot := 0, e := 0, n := 1 }] sM1).2.2.late = [] := by decide +kernel
  constructor <;> intro k _ e he <;> simp [lateAt, h1, h2, mget] at he
def sWaits : State := updDie sM 0 fun d => { d with lines := [(3, { asks := [{ tag := 4, op := 2, blocks := [1] }], pend := [(some 0, 1)] })] }
theorem witness_mustWait : mustWait sM 0 5 = false ∧ mustWait sWaits 0 4 = true ∧ mustWait sWaits 0 2 = false := by decide +kernel
/-- The state after the checks still shows the unit of memory plainly. -/
theorem witness_LoadMemory : PlainUnit (checkLanes (xlOf 0 regsM) 0 (getA sM1 iss1 1) .load false [{ slot := 0, e := 0, n := 1 }] sM1).2.2 unitM := by
  refine ⟨?_, ?_, ?_, ?_, unmarked ?_ _, ?_⟩ <;> decide +kernel
/-- An atomic on the word at address 0 of the page. -/
def lane0 : Lane := { slot := 0, e := 0, n := 3 }
def unitsM : List Machine.PUnit := [0, 1, 2].map fun (j : Int) => { pa := 19683 * fr 20 + j, attr := { super := true, via := .core 0 } }
def tM : State := (checkLanes (xlOf 0 regsM) 0 (getA sM1 iss1 1) .atomic false [lane0] sM1).2.2
theorem witness_AtomicMemory : checkLanes (xlOf 0 regsM) 0 (getA sM1 iss1 1) .atomic false [lane0] sM1 =
      ([{ lane := lane0, place := .mem unitsM }], [], tM) ∧ (∀ u ∈ unitsM, PlainUnit tM u) ∧ tM.late = [] := by
  refine ⟨by decide +kernel, fun u hu => ?_, by decide +kernel⟩
  simp only [unitsM, List.map_cons, List.map_nil, List.mem_cons, List.not_mem_nil, or_false] at hu
  rcases hu with rfl | rfl | rfl <;> refine ⟨?_, ?_, ?_, ?_, unmarked ?_ _, ?_⟩ <;> decide +kernel
/-- R100 to R102: core 0 has made a write, and releases it; core 1 reads what core 0 then writes strongly, and acquires. -/
def sFence : State :=
  { setGroup (grp placedGroup) 1 0 placedGroup with
      fresh := 2
      late := [(14, [{ stamp := 1, old := 5, binary := false, strong := 0, by_ := onPath 0 .core, knows := [onPath 0 .core] }])] }
def iss2 : Issue := { iss with core := 1 }
def sFlag : State :=
  let t := after (.fenceRel 5 1) sFence
  { t with late := t.late ++ [(100, [{ stamp := t.fresh, old := 0, binary := false, strong := 5, by_ := onPath 0 .core, knows := [onPath 0 .core]
                                       heads := headsOf t (onPath 0 .core) 5 false [] }])], issue := some iss2 }
theorem test_fences : let u (s : State) := (lateAt (after (.fenceAcq 5 1) s) 14).map fun e => (e.old, sees e (onPath 1 .core))
    u (tookAt sFlag (onPath 1 .core) 5 100 0) = [(5, true)] ∧ u sFlag = [(5, false)] ∧ u (tookAt sFlag (onPath 1 .core) 0 100 0) = [(5, false)] := by
  decide +kernel
/-- R124: two queries at one coordinator, one of them waiting. -/
theorem witness_Waiters : let s := { sQy { aQuery .running with cancelled := true } with
      qrys := [(8, { aQuery .running with cancelled := true }), (9, { aQuery .waiting with turn := 4 })] }
    msorted s.qrys = true ∧ qryStops s { aQuery .running with cancelled := true } = true ∧
    coordinated s (aQuery .running).coord ≤ 27 ∧ (awaiting s (aQuery .running).coord).map (·.1) = [9] := by decide +kernel
theorem test_waiters : let t := ev (.expansion 8) { sQy { aQuery .running with cancelled := true } with
      qrys := [(8, { aQuery .running with cancelled := true }), (9, { aQuery .waiting with turn := 4 })] }
    ended t = some (1, -7) ∧ (mfind t.qrys 9).map (·.st) = some .running := by decide +kernel

/-- R194: the image of the share above is read. -/
theorem witness_readImage : ((readImage ((launchTcb sSaved 3).image / 27) 1 sSaved).1).isSome = true := by decide +kernel
/-- R325: the group selects itself. -/
theorem witness_OwnContext : let s := grp placedGroup
    (0 : Nat) = 81 * dieOf 0 + (trits (getDie s (dieOf 0)).dbgsel 8 4).toNat ∧ (0 : Nat) = (trits (getDie s (dieOf 0)).dbgsel 3 0).toNat ∧
    getGroup s 0 0 = some placedGroup := by decide +kernel

/-- R347, R348: a window of each kind, its links drained, or not. -/
theorem witness_Windows : let s := sCo .uncached []
    let t := setLink s 18 { up := true, unacked := [(4, [])] }
    linkDrained s 9 = true ∧ linkDrained t 9 = false ∧ (linksOf 0).all (linkDrained s) = true ∧ lowLinks s 0 = false ∧
    lowLinks { s with widths := [(9, List.replicate 8 .off)] } 0 = true := by decide +kernel
/-- R350: line 3 is snooped for a request of die 0; die 1 answers. -/
def busyB : Busy := { req := rq 0 9 [0] none, op := 2, snoops := [1] }
theorem witness_Home : let s := sCo (.owned 1) [(3, busyB)]
    mfind (getStack s 0).busy 3 = some busyB ∧ lineHome s 3 = 0 ∧ DirHolds (getDir s 0 3) 1 ∧
    getDir (ev (.acknowledge (rq 1 9 [] none)) s) 0 3 = .owned 0 := by
  have h : getDir (sCo (.owned 1) [(3, busyB)]) 0 3 = .owned 1 := by decide +kernel
  refine ⟨by decide +kernel, by decide +kernel, by simp [h, DirHolds], by decide +kernel⟩
/-- R351: writes wait in a line that the die has asked to own; the answer merges them in. -/
theorem test_lineOwned : let s := sLine { asks := [{ tag := 5, op := 2, blocks := [1] }], pend := [(some 0, 1)] }
    let t := ev (.data (rq 9 0 [1] (some (blockOf 4)))) s
    (getLine t 0 3).owned = true ∧ (getLine t 0 3).pend = [] ∧ (getLine t 0 3).dirty = [1] ∧ (getLine t 0 3).blocks = [1] ∧
    (getLine (lineNext (sLine { pend := [(some 0, 1)] }) 0 3) 0 3).asks.map (fun a => (a.op, a.blocks)) = [(2, [1])] ∧
    (getLine (lineNext (sLine { blocks := [1], pend := [(some 0, 1)] }) 0 3) 0 3).asks.map (fun a => (a.op, a.blocks)) = [(3, [1])] := by
  decide +kernel

/-- R84: no line that a key index marks stays. -/
theorem witness_PlainLines : PlainLines (fwS 1 3 (3 ^ 198) .ready) := by
  refine ⟨by decide +kernel, fun h line l hl => ?_, fun d => ?_⟩
  · simp [getSlice, getStack] at hl
    cases hl
  · exact mget_all (P := fun k : Die => k.softShares = []) rfl (fwS 1 3 (3 ^ 198) .ready).dies d (by decide +kernel)
/-- R109, R364: a block of device memory is read and written through a port. -/
theorem witness_PortServes : let s := sPeer 9
    let bl := 729 * fr 3
    let at_ : Attr := { policy := -1 }
    (readMemBlock s bl at_).1.toOption = some (blockOf (4 + 5 * 3 ^ 9)) ∧ s.late = [] ∧ lineClash s bl at_ = false ∧
    (mergeRead s bl at_).toOption = some (blockOf (4 + 5 * 3 ^ 9)) ∧ backedMem s (blockFrame bl) = true := by decide +kernel
theorem test_hostDevice : let s : State := { sPeer 9 with phase := .ready }
    unpackBlock (hostDevice (729 * fr 3) 0 false [] s).portData = some (blockOf (4 + 5 * 3 ^ 9)) ∧
    hostDevice (729 * fr 3) 0 false [] { s with phase := .off } = { s with phase := .off } := by decide +kernel
theorem witness_InRegions : InRegions (fr 0) 9 := by
  refine ⟨by decide, 1, by decide, by decide, fun f h1 h2 => ?_⟩
  have hf : f = fr 0 ∨ f = fr 1 ∨ f = fr 2 ∨ f = fr 3 ∨ f = fr 4 ∨ f = fr 5 ∨ f = fr 6 ∨ f = fr 7 ∨ f = fr 8 := by
    unfold fr at *; omega
  rcases hf with rfl | rfl | rfl | rfl | rfl | rfl | rfl | rfl | rfl <;> decide +kernel
theorem witness_peerRegion : let s := sPeer 9
    frameRegion (-5 * 3 ^ 19) = -3 - ((2 : Nat) : Int) ∧ (getPort s 2).up = true ∧ 0 ≤ (getPort s 2).base ∧
    (0 : Int) ≤ frameIndex (-5 * 3 ^ 19) ∧ frameIndex (-5 * 3 ^ 19) < (getPort s 2).count := by decide +kernel
/-- R353: the path of CD1 to the host die goes through CD0. -/
theorem witness_PathOf : PathOf up4 (fun l => (getLink upS (2 * l)).up = true) [1, 0] ∧ (getLink upS (2 * 21)).up = true := by
  refine ⟨?_, by decide +kernel⟩
  simp only [PathOf]
  refine ⟨by decide, ⟨(endBetween 1 0).getD 0, by decide +kernel, by decide +kernel⟩, by decide, by decide⟩

/-! ## Moves, forms, casts -/

/-- R135: a move keeps an armature. -/
theorem test_moveArmature : mget (.u 0) (g0 (after (.movVector (.reg 4 false) (.reg 1)) s1)).r.v 4 = .a 10 1 0 0 := by decide +kernel
/-- R135, R136, R203: a product of two armatures and a write that does not cover the group would be in form F; a latch takes no armature. -/
theorem witness_ResultF : ResultF s1small iss 9 (.mulVector (.reg 4 false) (.reg 1) (.reg 1)) [.reg 1, .reg 1] ∧
    covers (gWith regs1) { iss with guard := [0] } = false ∧ wantsLatch (.reg 4 true) = true := by
  refine ⟨.inr ⟨⟨.reg 1, List.mem_cons_self .., by decide⟩, ?_⟩, by decide, by decide⟩
  have h : isU (vsrc s1small iss 9 (.reg 1)) = false := by decide
  simp [KeepsArmature, h]
theorem test_illegalForms : trapOf (after (.mulVector (.reg 4 false) (.reg 1) (.reg 1)) s1small) = some 2 ∧
    trapOf (after (.addVector (.reg 4 false) (.reg 3) (.imm 1)) { s1small with issue := some { iss with guard := [0] } }) = some 2 ∧
    trapOf (after (.movVector (.reg 4 true) (.reg 1)) s1) = some 2 := by decide +kernel
/-- R139, R250, R284. -/
theorem test_moreCasts : let c (x : Instr) := (getRange (after x (sR rng)) 0 0).map (·.st)
    [c (.kcnt (.reg 1 false) 0 1), c (.kfirst (.reg 1 false) 0), c (.ldwx27 1 (.imm 0) 2 0 0), c (.mdrainx none 0 0 0), c (.bkmode (.imm 0) (.imm 0)),
      c (.swr (.imm 10) (.imm 0)), c (.atmCas 1 (.imm 0) (.imm 0) 0 0 0)] = List.replicate 7 (some .casting) := by decide +kernel

/-! ## Stores on the stream path, to windows, and packed stores -/

/-- The access of lane 0 of a group to its page. -/
theorem witness_StoreClear : Clear sM1 iss1 (gWith regsM) (getA sM1 iss1 1) .store false (fun _ => true)
    [{ slot := 0, e := 0, n := 1 }] okM (checkLanes (xlOf 0 regsM) 0 (getA sM1 iss1 1) .store false [{ slot := 0, e := 0, n := 1 }] sM1).2.2 := by
  refine ⟨fun _ _ => rfl, ?_, ?_, .inl rfl⟩
  · decide +kernel
  · decide +kernel
def tSt : State := (checkLanes (xlOf 0 regsM) 0 (getA sM1 iss1 1) .store false [{ slot := 0, e := 0, n := 1 }] sM1).2.2
/-- R77, R272: one nonet does not cover its block, which is the first of the page. -/
theorem witness_Stream : (getCore tSt 0).comb = [] ∧ nonTemporal (.stnt9 3 1 (.reg 1)) = true ∧
    laneWrites sM1 iss1 (gWith regsM) { a := 1, off := .reg 1, data := .reg 3, n := 1, binary := false } okM = [(unitM, 100)] ∧
    unitM.pa / 27 = 729 * fr 20 ∧ frameRegion (blockFrame (729 * fr 20)) = 1 ∧ ¬ CoverBlock (729 * fr 20) [(unitM, 100)] (fun _ => none) := by
  refine ⟨by decide +kernel, rfl, by decide +kernel, by decide, by decide +kernel, fun h => ?_⟩
  rcases h 1 (by decide) with ⟨p, hp, hq⟩ | h
  · simp only [List.mem_singleton] at hp
    subst hp
    simp only [unitM, fr] at hq
    omega
  · simp at h
theorem witness_CoverBlock (at_ : Attr) : CoverBlock (729 * fr 20)
    ((List.range 27).map fun (j : Nat) => (({ pa := 19683 * fr 20 + j, attr := at_ } : Machine.PUnit), (j : Int))) (fun _ => none) := by
  intro j hj
  refine .inl ⟨({ pa := 19683 * fr 20 + j, attr := at_ }, (j : Int)), List.mem_map.2 ⟨j, List.mem_range.2 hj, rfl⟩, ?_⟩
  simp only [fr]
  omega
/-- An entry of the block waits in the buffer with two places, one of them that of the store. -/
def sJoin : State := updCore sM1 0 fun c =>
  { c with comb := [{ block := 729 * fr 20, key := 0, binary := false, super := true, places := [(0, 6), (4, 8)] }] }
theorem test_streamStore : let t := after (.stnt9 3 1 (.reg 1)) sM1
    (getCore t 0).comb.map (fun e => (e.block, e.places, e.cover)) = [(729 * fr 20, [(0, 100)], [])] ∧
    unitAt t 0 false (19683 * fr 20) = some 1 ∧
    (getCore (after (.stnt9 3 1 (.reg 1)) sJoin) 0).comb.map (fun e => (e.block, e.places)) = [(729 * fr 20, [(0, 100), (4, 8)])] := by
  decide +kernel
/-- Page 0 in the frame `f`, uncached, of the view that `bin` gives; 27 frames of each host window stand behind it. -/
def sWin (f : Int) (bin : Bool) (k : Nat) : State :=
  let leaf : Int := 27 * f + 3 ^ 27 + 4 * 3 ^ 28 - 3 ^ 34 - (if bin then 3 ^ 33 else 0)
  let s : State := { sM1 with mem := mset sM1.mem (729 * fr 12).toNat (atomOf (toNonets 6 leaf)), countHost := 27, countByte := 27, countPeer := 27, hB := 2 ^ 30 }
  setPort s 2 { up := true, negotiated := true, base := fr 0, count := k }
/-- Its first block of the T-image holds 4. -/
def sHost : State := setHostBytes (sWin (-3 ^ 19) false 0) (hostBlockAddr (sWin (-3 ^ 19) false 0) (-729 * 3 ^ 19)) (packBlock (blockOf 4))
def unitW (f : Int) (bin : Bool) : Machine.PUnit := { pa := 19683 * f, attr := { super := true, binary := bin, policy := -1, via := .core 0 } }
def okW (f : Int) (bin : Bool) : List Checked := [{ lane := { slot := 0, e := 0, n := 1 }, place := .mem [unitW f bin] }]
theorem witness_WindowStores : let c (s : State) (bin : Bool) := checkLanes (xlOf 0 regsM) 0 (getA s iss1 1) .store bin [{ slot := 0, e := 0, n := 1 }] s
    ((c sHost false).1, (c sHost false).2.1) = (okW (-3 ^ 19) false, []) ∧
    ((c (sWin (-2 * 3 ^ 19) true 0) true).1, (c (sWin (-2 * 3 ^ 19) true 0) true).2.1) = (okW (-2 * 3 ^ 19) true, []) ∧
    ((c (sWin (-5 * 3 ^ 19) false 5) false).1, (c (sWin (-5 * 3 ^ 19) false 5) false).2.1) = (okW (-5 * 3 ^ 19) false, []) := by decide +kernel
/-- R49, R77: a nonet of a T-image block, which holds 4 and zeros; a byte. -/
theorem test_hostStore : let t := after (.st9 3 1 (.reg 1)) sHost
    ((readHostBlock sHost (-729 * 3 ^ 19)).toOption, (readHostBlock t (-729 * 3 ^ 19)).toOption) = (some (blockOf 4), some (blockOf 100)) ∧
    (hostByte (after (.stb8 3 1 (.reg 1)) (sWin (-2 * 3 ^ 19) true 0)) (2 ^ 30)).toNat = 100 ∧
    frameRegion (frameOf (19683 * (-3 ^ 19))) = -1 ∧ frameRegion (frameOf (19683 * (-2 * 3 ^ 19))) = -2 := by decide +kernel
theorem witness_InHost : InHost (-1) (unitW (-3 ^ 19) false).pa ∧ InHost (-2) (unitW (-2 * 3 ^ 19) true).pa ∧
    peerReached (getPort (sWin (-5 * 3 ^ 19) false 5) (peerPort (-729 * (5 * 3 ^ 19)))) (-729 * (5 * 3 ^ 19)) = true := by
  refine ⟨⟨?_, ?_, ?_⟩, ⟨?_, ?_, ?_⟩, ?_⟩ <;> try unfold InTrits
  all_goals decide +kernel
/-- R364: a nonet is a partial write of the peer's block 729 * 3^19. -/
theorem test_peerStore : let s := sWin (-5 * 3 ^ 19) false 5
    (getPort (after (.st9 3 1 (.reg 1)) s) 2).out.map (·.2) = [[(0, 100)]] ∧ peerBlock (getPort s 2) (-729 * (5 * 3 ^ 19)) = 729 * 3 ^ 19 := by decide +kernel
/-- R266: `stpk` of a lane through a page: the element of five trits stands in the first nonet. -/
def elemM : List Lane := elemLanes sM1 iss1 (gWith regsM) (getA sM1 iss1 1) (.reg 1) 0 5
theorem witness_PackedStoreMemory : elemM = [{ slot := 0, e := 0, n := 1 }] ∧
    Clear sM1 iss1 (gWith regsM) (getA sM1 iss1 1) .store false (fun _ => true) elemM okM tSt ∧ PlainUnit tSt unitM := by
  refine ⟨by decide +kernel, ⟨fun _ _ => rfl, ?_, ?_, .inl rfl⟩, ?_, ?_, ?_, ?_, unmarked ?_ _, ?_⟩ <;> decide +kernel
theorem test_packedMemory : unitAt (after (.stpk (.reg 1) (.imm 7) 5 1 0) sM1) 0 false (19683 * fr 20) = some 7 := by decide +kernel

/-! ## Fences and links (R101, R102) -/

/-- Core 0 releases, writes a strong 7 over a 0 at a location, reads it, and acquires: an agent reads its own write whatever the free
values are. -/
def tRel : State := after (.fenceRel 5 1) sFence
def flagL : Loc := { key := 100, val := 7, binary := false }
theorem witness_FencesSynchronise : GroupRuns sFence iss 0 placedGroup ∧ exec (.fenceRel 5 1) sFence = .next tRel ∧
    mustWait sFence 0 5 = false ∧ lateAt sFence 14 = [] ++ { stamp := 1, old := 5, binary := false, strong := 0, by_ := onPath 0 .core, knows := [onPath 0 .core] } :: [] ∧
    scopeHas 5 (onPath 0 .core) (onPath 0 .core) = true ∧
    (let v := noteWrite tRel (onPath 0 .core) 5 false false [100] (fun _ => some 0)
     let w := (seeLocs v (onPath 0 .core) 5 false true [flagL]).2
     (seeLocs v (onPath 0 .core) 5 false true [flagL]).1 = [7] ∧ (∀ h ∈ lateAt v 100, h.old ≠ 7) ∧
     GroupRuns { w with issue := some iss } iss 0 placedGroup ∧ ∃ u, exec (.fenceAcq 5 1) { w with issue := some iss } = .next u) := by
  refine ⟨⟨rfl, by decide, rfl, by decide⟩, rfl, by decide +kernel, rfl, by decide, ?_⟩
  have hw : noteWrite tRel (onPath 0 .core) 5 false false [100] (fun _ => some 0) =
      { tRel with late := mset tRel.late 100 [{ stamp := tRel.fresh, old := 0, binary := false, strong := 5, by_ := onPath 0 .core, knows := [onPath 0 .core]
                                                all := Config.settled tRel.fresh, heads := headsOf tRel (onPath 0 .core) 5 false [] }], fresh := tRel.fresh + 1 } := by
    cases h : Config.settled tRel.fresh <;> simp [noteWrite, h] <;> decide +kernel
  simp only [hw]
  generalize Config.settled tRel.fresh = b
  cases b <;> refine ⟨?_, ?_, ⟨rfl, ?_, ?_, ?_⟩, _, rfl⟩ <;> decide +kernel
/-- A core that has read nothing follows nothing. -/
theorem witness_FencesNeedALink : GroupRuns sFence iss 0 placedGroup ∧ (∀ p ∈ sFence.taken, p.1 ≠ onPath 0 .core) ∧
    (∀ p ∈ sFence.late, ∀ e ∈ p.2, onPath 0 .sync ∉ e.knows) ∧ goes (.fenceAcq 5 1) sFence = true ∧
    after (.fenceAcq 5 1) sFence = sFence :=
  ⟨⟨rfl, by decide, rfl, by decide⟩, by decide +kernel, by decide +kernel, by decide +kernel, by decide +kernel⟩

/-! ## Events: order of landings, merges, successors, queries with results -/

/-- R378 step 3: a later load waits while an earlier one's value has not landed. -/
def gTwo : Group := { gPen pendS with pending := [pendS, { pendV with id := 6 }] }
theorem test_landingOrder : landsLater gTwo { pendV with id := 6 } = true ∧ landsLater gTwo pendS = false ∧
    (ev (.valueLanding 0 0 6) { grp gTwo with agenda := [] }).agenda = [.valueLanding 0 0 6] ∧
    (g0 (ev (.valueLanding 0 0 5) (grp gTwo))).pending.map (·.id) = [6] := by decide +kernel
/-- R145, R146: halves along `iy` and along `iz`. -/
theorem test_mergeAxes : let a : Range := { joined 0 2 with p1 := 8 }
    let t (b : Range) := (getRange (ev (.rangeMerge 0 2) (sQ hdrT [(0, a), (4, b)])) 0 0).map fun q => (q.box, q.p0, q.p1)
    t { a with box := { a.box with y0 := 3, y1 := 4 }, p1 := 5 } = some ({ a.box with y1 := 4 }, 0, 14) ∧
    t { a with box := { a.box with z0 := 1, z1 := 2 }, p1 := 17 } = some ({ a.box with z1 := 2 }, 0, 26) ∧
    wholeRun a = true ∧ wholeRun { a with box := { a.box with z0 := 1, z1 := 2 }, p1 := 17 } = true := by decide +kernel
/-- R173: a list of two successors, in blocks of their own; one waits for this launch alone and starts. -/
def succA : Int := 19683 * fr 20 + 27 * 30
def succB : Int := 19683 * fr 20 + 27 * 40
def sSucc : State :=
  let l : List Int := 2 :: (toNonets 4 succA ++ toNonets 4 succB)
  let s := sDone (19683 * fr 20 + 27 * 50) (l ++ List.replicate 18 0)
  { s with launches := s.launches ++ [(5, { laun tcbL with addr := succA, st := .waiting })]
           mem := mset (mset s.mem (succA / 27 + 1).toNat (atomOf (blockOf (3 ^ 168 + 3 ^ 154)))) (succB / 27 + 1).toNat
             (atomOf (blockOf (2 * 3 ^ 168 + 3 ^ 154))) }
theorem test_successors : let t := ev (.launchComplete 3) sSucc
    (successors sSucc (19683 * fr 20 + 27 * 50)).1 = some [succA, succB] ∧ recs t = [(4, 1, packet.addr)] ∧
    [succA, succB].map (fun a => trits (ofNonets ((readPhys t (a + 27)).1.toOption.getD [])) 176 168) = [0, 1] ∧
    t.agenda.contains (.launchStart 5) = true := by decide +kernel
/-- R123, R127, R128: a query with one result, its entry at address 0; its record's place cannot be written. -/
def qDone (rec res k : Int) : Query :=
  { aQuery .ended with status := 1, list := [{ dist := .fin 9 0, node := 7 }], packet := blockOf (rec * 3 ^ 108 + res * 3 ^ 72 + k * 3 ^ 171) }
def sDoneQ (q : Query) : State :=
  setTeam (sQy q) 1 { core := 0, lid := 1, number := 1, size := 9, castGroups := 1, queries := [(4, 0)], outstanding := 1 }
theorem test_queryResults :
    let t := ev (.queryCompletion 8) (sDoneQ (qDone (-27) 0 1))
    let u := ev (.queryCompletion 8) (sDoneQ (qDone 54 0 0))
    let w := ev (.queryCompletion 8) (sDoneQ (qDone 54 (-27) 1))
    (qWrite (sDoneQ (qDone (-27) 0 1)) (qDone (-27) 0 1) 0 (entryNonets (qDone (-27) 0 1) 0)).1 = none ∧
    (readMemBlock t (729 * fr 20) {}).1.toOption.map (fun l => ofNonets (l.take 9)) = some (7 + 3 ^ 27 * ofNonets (toNonets 6 (distReport (.fin 9 0)))) ∧
    (getTeam t 1).map (fun m => (m.outstanding, m.queries.map fun e => trits e.2 8 0)) = some (0, [(-4)]) ∧
    (getTeam u 1).map (fun m => m.queries.map fun e => trits e.2 8 0) = some [1] ∧
    (getTeam w 1).map (fun m => m.queries.map fun e => trits e.2 8 0) = some [-4] := by decide +kernel
end Sys2Proof.Tests
end

section
/-! Wrapping and saturation (00 R9, 01 R12, 01 R14) at every width: `wrap` is the residue modulo `3^n` in the symmetric range
of `n` trits, `sat` clamps to that range. -/

namespace Sys2Proof.Machine

open Sys2Proof Sys2Proof.Claims

/-! ## The symmetric range of `n` trits -/

theorem three_pow_pos (n : Nat) : (0 : Int) < 3 ^ n := Int.pow_pos (by decide)

theorem three_pow_odd (n : Nat) : (3 : Int) ^ n % 2 = 1 := by
  induction n with
  | zero => decide
  | succ n ih => rw [Int.pow_succ]; omega

/-- The range has `3^n` values (R12): `3^n` is odd, so the division in `half` is exact. -/
theorem two_mul_half (n : Nat) : 2 * half n = 3 ^ n - 1 := by
  have hodd := three_pow_odd n
  unfold half
  omega

theorem half_nonneg (n : Nat) : 0 ≤ half n := by
  have hpos := three_pow_pos n
  have hwidth := two_mul_half n
  omega

/-! ## `wrap` -/

theorem wrap_inTrits (n : Nat) (x : Int) : InTrits n (wrap n x) := by
  have hlo := Int.emod_nonneg (x + half n) (Int.ne_of_gt (three_pow_pos n))
  have hhi := Int.emod_lt_of_pos (x + half n) (three_pow_pos n)
  have hwidth := two_mul_half n
  constructor <;> unfold wrap <;> omega

theorem pow_dvd_sub_wrap (n : Nat) (x : Int) : (3 : Int) ^ n ∣ x - wrap n x := by
  have hres : x - wrap n x = (x + half n) - (x + half n) % 3 ^ n := by unfold wrap; omega
  rw [hres]
  exact Int.dvd_self_sub_emod

/-- `wrap` depends on the residue class alone. -/
theorem wrap_eq_of_pow_dvd_sub {n : Nat} {x y : Int} (hdvd : (3 : Int) ^ n ∣ x - y) : wrap n x = wrap n y := by
  have hdiff : (x + half n) - (y + half n) = x - y := by omega
  have hres : (x + half n) % 3 ^ n = (y + half n) % 3 ^ n :=
    Int.emod_eq_emod_iff_emod_sub_eq_zero.mpr (hdiff ▸ Int.emod_eq_zero_of_dvd hdvd)
  unfold wrap
  rw [hres]

/-- `wrap` keeps a value that is already in the range, which is as wide as the modulus. -/
theorem wrap_of_inTrits {n : Nat} {y : Int} (hy : InTrits n y) : wrap n y = y := by
  obtain ⟨hlo, hhi⟩ := hy
  have hwidth := two_mul_half n
  have hres : (y + half n) % 3 ^ n = y + half n := Int.emod_eq_of_lt (by omega) (by omega)
  unfold wrap
  omega

theorem eq_wrap_of_inTrits {n : Nat} {x y : Int} (hy : InTrits n y) (hdvd : (3 : Int) ^ n ∣ x - y) : y = wrap n x :=
  calc y = wrap n y := (wrap_of_inTrits hy).symm
    _ = wrap n x := (wrap_eq_of_pow_dvd_sub hdvd).symm

/-! ## `sat` -/

theorem sat_of_inTrits {n : Nat} {x : Int} (hx : InTrits n x) : sat n x = x := by
  obtain ⟨hlo, hhi⟩ := hx
  rw [sat, Int.min_eq_right hhi, Int.max_eq_right hlo]

theorem sat_of_half_lt {n : Nat} {x : Int} (hx : half n < x) : sat n x = half n := by
  have hnonneg := half_nonneg n
  rw [sat, Int.min_eq_left (by omega), Int.max_eq_right (by omega)]

theorem sat_of_lt_neg_half {n : Nat} {x : Int} (hx : x < -half n) : sat n x = -half n := by
  have hnonneg := half_nonneg n
  rw [sat, Int.min_eq_right (by omega), Int.max_eq_left (by omega)]

/-- Settles O8: the residue lies in the range, is congruent, and is the only such value; `sat` by the place of `x`: in,
above or below the range. -/
theorem wrapAndSaturate : Obligations.WrapAndSaturate := by
  intro n x
  exact ⟨⟨wrap_inTrits n x, pow_dvd_sub_wrap n x, fun _ => eq_wrap_of_inTrits⟩,
    sat_of_inTrits, sat_of_half_lt, sat_of_lt_neg_half⟩

end Sys2Proof.Machine
end

section
/-! Positions of a balanced value (00 R9, 01 R13, 01 R15): a value is its lowest trits and what stands above them, and this
decomposition is unique. Trits, fields and shifts are read off it. -/

namespace Sys2Proof.Machine

open Sys2Proof Sys2Proof.Claims

/-! ## The value above a position -/

theorem three_pow_ne_zero (n : Nat) : (3 : Int) ^ n ≠ 0 := Int.ne_of_gt (three_pow_pos n)

theorem half_add (m n : Nat) : half (m + n) = half m + 3 ^ m * half n := by
  have hsum := two_mul_half (m + n)
  have hlow := two_mul_half m
  have hhigh : 2 * (3 ^ m * half n) = 3 ^ m * 3 ^ n - 3 ^ m := by
    rw [Int.mul_left_comm, two_mul_half, Int.mul_sub, Int.mul_one]
  rw [Int.pow_add] at hsum
  omega

/-- `trunc(n, x)/3^n` is the integer nearest to `x/3^n` (R15). -/
theorem shr_eq_ediv (x : Int) (n : Nat) : shr x n = (x + half n) / 3 ^ n := by
  have hmul : trunc n x = 3 ^ n * ((x + half n) / 3 ^ n) := by
    unfold trunc wrap
    have := Int.mul_ediv_add_emod (x + half n) (3 ^ n)
    omega
  rw [shr, hmul, Int.mul_ediv_cancel_left _ (three_pow_ne_zero n)]

/-- A value is its lowest `n` trits and the value above them. -/
theorem wrap_add_shr (n : Nat) (x : Int) : wrap n x + 3 ^ n * shr x n = x := by
  have := Int.mul_ediv_add_emod (x + half n) (3 ^ n)
  rw [shr_eq_ediv]
  unfold wrap
  omega

/-- The decomposition is unique: the lowest trits … -/
theorem wrap_add_mul {n : Nat} {c : Int} (hc : InTrits n c) (x : Int) : wrap n (c + 3 ^ n * x) = c :=
  (eq_wrap_of_inTrits hc ⟨x, by omega⟩).symm

/-- … and the value above them. -/
theorem shr_add_mul {n : Nat} {c : Int} (hc : InTrits n c) (x : Int) : shr (c + 3 ^ n * x) n = x := by
  have hsplit := wrap_add_shr n (c + 3 ^ n * x)
  rw [wrap_add_mul hc] at hsplit
  exact Int.eq_of_mul_eq_mul_left (three_pow_ne_zero n) (Int.add_left_cancel hsplit)

theorem shr_shr (x : Int) (m n : Nat) : shr (shr x m) n = shr x (m + n) := by
  rw [shr_eq_ediv, shr_eq_ediv, shr_eq_ediv, half_add, ← Int.add_assoc, Int.pow_add,
    ← Int.ediv_ediv_of_nonneg (Int.le_of_lt (three_pow_pos m)), Int.add_mul_ediv_left _ _ (three_pow_ne_zero m)]

@[simp] theorem shr_zero (x : Int) : shr x 0 = x := by
  rw [shr_eq_ediv, show half 0 = 0 by decide, Int.pow_zero, Int.add_zero, Int.ediv_one]

theorem zero_inTrits (n : Nat) : InTrits n 0 := ⟨Int.neg_nonpos_of_nonneg (half_nonneg n), half_nonneg n⟩

@[simp] theorem zero_shr (n : Nat) : shr 0 n = 0 := by
  have hsplit := shr_add_mul (zero_inTrits n) 0
  rwa [Int.mul_zero, Int.add_zero] at hsplit

/-- The lowest `m + n` trits are the lowest `m` and the `n` above them. -/
theorem wrap_add (m n : Nat) (x : Int) : wrap (m + n) x = wrap m x + 3 ^ m * wrap n (shr x m) := by
  have hlow := wrap_add_shr m x
  have hhigh := wrap_add_shr n (shr x m)
  have hin : InTrits (m + n) (wrap m x + 3 ^ m * wrap n (shr x m)) := by
    obtain ⟨hlo, hhi⟩ := wrap_inTrits m x
    obtain ⟨hlo', hhi'⟩ := wrap_inTrits n (shr x m)
    have hbelow := Int.mul_le_mul_of_nonneg_left hlo' (Int.le_of_lt (three_pow_pos m))
    have habove := Int.mul_le_mul_of_nonneg_left hhi' (Int.le_of_lt (three_pow_pos m))
    rw [Int.mul_neg] at hbelow
    rw [InTrits, half_add]
    omega
  refine (eq_wrap_of_inTrits hin ⟨shr (shr x m) n, ?_⟩).symm
  calc x - (wrap m x + 3 ^ m * wrap n (shr x m)) = 3 ^ m * (shr x m - wrap n (shr x m)) := by rw [Int.mul_sub]; omega
    _ = 3 ^ m * (3 ^ n * shr (shr x m) n) := by congr 1; omega
    _ = 3 ^ (m + n) * shr (shr x m) n := by rw [Int.pow_add, Int.mul_assoc]

/-! ## Negation -/

theorem inTrits_neg {n : Nat} {x : Int} (hx : InTrits n x) : InTrits n (-x) := by
  unfold InTrits at *
  omega

theorem shr_neg (x : Int) (n : Nat) : shr (-x) n = -shr x n := by
  have hsplit := wrap_add_shr n x
  have hneg : -x = -wrap n x + 3 ^ n * -shr x n := by rw [Int.mul_neg]; omega
  rw [hneg, shr_add_mul (inTrits_neg (wrap_inTrits n x))]

theorem wrap_neg (n : Nat) (x : Int) : wrap n (-x) = -wrap n x := by
  have hsplit := wrap_add_shr n x
  have hsplit' := wrap_add_shr n (-x)
  rw [shr_neg, Int.mul_neg] at hsplit'
  omega

/-! ## Single trits -/

theorem trit_zero (x : Int) : trit x 0 = wrap 1 x := by rw [trit, shr_zero]

theorem trit_succ (x : Int) (j : Nat) : trit x (j + 1) = trit (shr x 1) j := by
  rw [trit, trit, shr_shr, Nat.add_comm]

theorem trit_inTrits (x : Int) (j : Nat) : InTrits 1 (trit x j) := wrap_inTrits 1 _

theorem trit_neg (x : Int) (j : Nat) : trit (-x) j = -trit x j := by rw [trit, shr_neg, wrap_neg, trit]

/-- The three digits. -/
theorem inTrits_one_iff {x : Int} : InTrits 1 x ↔ x = -1 ∨ x = 0 ∨ x = 1 := by
  have hone : half 1 = 1 := by decide
  rw [InTrits, hone]
  omega

end Sys2Proof.Machine
end

section
/-! Integer division (01 R16): the nearest quotient, its remainder, and the scalar instructions that write them. -/

namespace Sys2Proof.Machine

open Sys2Proof Sys2Proof.Claims

/-- The quotient's magnitude is the nearest of R26, of two equally near the smaller. -/
theorem divq_of_ne_zero (a : Int) {b : Int} (hb : b ≠ 0) :
    divq a b = sgnv a * sgnv b * nearDown a.natAbs b.natAbs := if_neg hb

/-- The nearest natural leaves at most half the divisor, and where it leaves just half, it lies below. -/
theorem nearDown_bounds (n : Nat) {m : Nat} (hm : 0 < m) :
    2 * ((n : Int) - nearDown n m * m).natAbs ≤ m ∧
      (2 * ((n : Int) - nearDown n m * m).natAbs = m → 0 < (n : Int) - nearDown n m * m) := by
  have hsplit : (m : Int) * (n / m : Nat) + (n % m : Nat) = n := by exact_mod_cast Nat.div_add_mod n m
  have hlt := Nat.mod_lt n hm
  rw [Int.mul_comm] at hsplit
  unfold nearDown
  split
  case isTrue hup =>
    push_cast [Int.add_mul]
    push_cast at hsplit
    omega
  case isFalse hdown =>
    push_cast at hsplit ⊢
    omega

theorem sgnv_of_neg {a : Int} (ha : a < 0) : sgnv a = -1 := if_pos ha

theorem sgnv_zero : sgnv 0 = 0 := rfl

theorem sgnv_of_pos {a : Int} (ha : 0 < a) : sgnv a = 1 := by rw [sgnv, if_neg (by omega), if_neg (by omega)]

theorem sgnv_mul_natAbs (a : Int) : sgnv a * a.natAbs = a := by
  rcases Int.lt_trichotomy a 0 with hneg | rfl | hpos
  · rw [sgnv_of_neg hneg]
    omega
  · rfl
  · rw [sgnv_of_pos hpos]
    omega

theorem sgnv_mul_self (a : Int) : sgnv a * a = a.natAbs := by
  rcases Int.lt_trichotomy a 0 with hneg | rfl | hpos
  · rw [sgnv_of_neg hneg]
    omega
  · rfl
  · rw [sgnv_of_pos hpos]
    omega

theorem natAbs_sgnv {a : Int} (ha : a ≠ 0) : (sgnv a).natAbs = 1 := by
  rcases Int.lt_or_gt_of_ne ha with hneg | hpos
  · rw [sgnv_of_neg hneg]
    rfl
  · rw [sgnv_of_pos hpos]
    rfl

/-- The remainder is that of the magnitudes, with the dividend's sign. -/
theorem remq_of_ne_zero (a : Int) {b : Int} (hb : b ≠ 0) :
    remq a b = sgnv a * ((a.natAbs : Int) - nearDown a.natAbs b.natAbs * b.natAbs) := by
  have hprod : sgnv a * sgnv b * (nearDown a.natAbs b.natAbs : Int) * b =
      sgnv a * (nearDown a.natAbs b.natAbs * (sgnv b * b)) := by
    rw [Int.mul_right_comm (sgnv a), Int.mul_assoc, Int.mul_assoc]
  rw [remq, divq_of_ne_zero a hb, hprod, sgnv_mul_self, Int.mul_sub, sgnv_mul_natAbs]

theorem zero_divq (b : Int) : divq 0 b = 0 := by
  rcases Int.lt_trichotomy b 0 with hneg | rfl | hpos
  · rw [divq_of_ne_zero 0 (by omega), sgnv_zero, Int.zero_mul, Int.zero_mul]
  · rfl
  · rw [divq_of_ne_zero 0 (by omega), sgnv_zero, Int.zero_mul, Int.zero_mul]

theorem zero_remq (b : Int) : remq 0 b = 0 := by rw [remq, zero_divq, Int.zero_mul, Int.sub_zero]

/-- The remainder is at most half the divisor; in a tie it has the dividend's sign. -/
theorem remq_bounds (a : Int) {b : Int} (hb : b ≠ 0) :
    2 * (remq a b).natAbs ≤ b.natAbs ∧ (2 * (remq a b).natAbs = b.natAbs → 0 < remq a b * a) := by
  have hdivisor : 0 < b.natAbs := Int.natAbs_pos.2 hb
  obtain ⟨hle, htie⟩ := nearDown_bounds a.natAbs hdivisor
  rcases Decidable.em (a = 0) with rfl | ha
  · rw [zero_remq]
    omega
  · have hmag : (remq a b).natAbs = ((a.natAbs : Int) - nearDown a.natAbs b.natAbs * b.natAbs).natAbs := by
      rw [remq_of_ne_zero a hb, Int.natAbs_mul, natAbs_sgnv ha, Nat.one_mul]
    rw [← hmag] at hle htie
    refine ⟨hle, fun hhalf => ?_⟩
    rw [remq_of_ne_zero a hb, Int.mul_right_comm, sgnv_mul_self]
    exact Int.mul_pos (by omega) (htie hhalf)

theorem divq_mul_add_remq (a b : Int) : a = divq a b * b + remq a b := by
  unfold remq
  omega

theorem divq_zero (a : Int) : divq a 0 = 0 := if_pos rfl

theorem remq_zero (a : Int) : remq a 0 = a := by rw [remq, Int.mul_zero, Int.sub_zero]

/-! ## The instructions -/

/-- A scalar operation of two sources completes with its function's value. -/
theorem sbin_done {s : State} {i : Issue} (h : Runs s i) (d : Dst) {x y : Opd} (hp : ReadsPlace i [x, y])
    (f : Int → Int → Int) : ∃ t, sbin s d x y f = .next t ∧ ScalarDone s t i d (f (ssrc s i x) (ssrc s i y)) :=
  scalarAlu_done h hp d _

/-- Settles O9: the remainder of the magnitudes is the nearest, and takes the dividend's sign. -/
theorem nearestDivision : Obligations.NearestDivision :=
  ⟨fun a _ => ⟨fun hb => ⟨divq_mul_add_remq a _, remq_bounds a hb⟩, divq_zero a, remq_zero a⟩,
    fun _ _ d _ _ hr hp => ⟨sbin_done hr d hp divq, sbin_done hr d hp remq⟩⟩

end Sys2Proof.Machine
end

section
/-! Tritwise operations and the trit shift (01 R15, R17; 09 R218). -/

namespace Sys2Proof.Machine

open Sys2Proof Sys2Proof.Claims

/-! ## Tritwise operations -/

/-- A tritwise operation acts on each position alone, where its digits are trits. -/
theorem trit_tritwise {f : Int → Int → Int} (hf : ∀ x y, InTrits 1 x → InTrits 1 y → InTrits 1 (f x y)) :
    ∀ {n j : Nat}, j < n → ∀ a b : Int, trit (tritwise f n a b) j = f (trit a j) (trit b j)
  | n + 1, 0, _, a, b => by
    have hdigit := hf _ _ (wrap_inTrits 1 a) (wrap_inTrits 1 b)
    rw [tritwise, trit_zero, trit_zero, trit_zero]
    exact wrap_add_mul hdigit _
  | n + 1, j + 1, hj, a, b => by
    have hdigit := hf _ _ (wrap_inTrits 1 a) (wrap_inTrits 1 b)
    have habove : shr (tritwise f (n + 1) a b) 1 = tritwise f n (shr a 1) (shr b 1) := shr_add_mul hdigit _
    rw [trit_succ, habove, trit_tritwise hf (by omega), trit_succ, trit_succ]

theorem min_inTrits {n : Nat} {x y : Int} (hx : InTrits n x) (hy : InTrits n y) : InTrits n (min x y) := by
  unfold InTrits at *
  omega

theorem max_inTrits {n : Nat} {x y : Int} (hx : InTrits n x) (hy : InTrits n y) : InTrits n (max x y) := by
  unfold InTrits at *
  omega

theorem mul_inTrits_one {x y : Int} (hx : InTrits 1 x) (hy : InTrits 1 y) : InTrits 1 (x * y) := by
  rw [inTrits_one_iff] at *
  rcases hx with rfl | rfl | rfl <;> omega

theorem tritwiseOperations : TritwiseOperations := by
  intro a b j hj
  exact ⟨trit_tritwise (fun _ _ => min_inTrits) hj a b, trit_tritwise (fun _ _ => max_inTrits) hj a b, trit_neg a j,
    trit_tritwise (fun _ _ _ _ => wrap_inTrits 1 _) hj a b, trit_tritwise (fun _ _ => mul_inTrits_one) hj a b⟩

/-! ## The trit shift -/

theorem shift_left {a b : Int} (hlo : 0 ≤ b) (hhi : b < 27) : shift a b = wrap 27 (a * 3 ^ b.toNat) := by
  rw [shift, if_neg (by omega), if_pos hlo]

theorem shift_right {a b : Int} (hlo : -27 < b) (hhi : b < 0) : shift a b = shr a (-b).toNat := by
  rw [shift, if_neg (by omega), if_neg (by omega)]

theorem shift_out {a b : Int} (hb : 27 ≤ b ∨ b ≤ -27) : shift a b = 0 := if_pos hb

/-- What a right shift drops is less than half a unit of the result: `3^n` is odd, so no tie is met. -/
theorem two_mul_sub_shr_lt (a : Int) (n : Nat) : 2 * (a - shr a n * 3 ^ n).natAbs < 3 ^ n := by
  have hsplit := wrap_add_shr n a
  have hdropped : a - shr a n * 3 ^ n = wrap n a := by rw [Int.mul_comm]; omega
  obtain ⟨hlo, hhi⟩ := wrap_inTrits n a
  have hwidth := two_mul_half n
  have hcast : ((3 ^ n : Nat) : Int) = 3 ^ n := Int.natCast_pow 3 n
  rw [hdropped]
  omega

theorem tritShift : TritShift := by
  intro a b ha
  refine ⟨shift_left, fun hb hlo => ?_, shift_out⟩
  rcases Int.lt_or_eq_of_le hb with hneg | rfl
  · rw [shift_right hlo hneg]
    exact two_mul_sub_shr_lt a _
  · have hkeep : shift a 0 = a := by
      rw [shift_left (by omega) (by omega)]
      exact (congrArg (wrap 27) (Int.mul_one a)).trans (wrap_of_inTrits ha)
    have hdropped : a - a * 3 ^ (-0 : Int).toNat = 0 := (congrArg (a - ·) (Int.mul_one a)).trans (Int.sub_self a)
    rw [hkeep, hdropped]
    decide

/-- Settles O10: position by position along the recursion of `tritwise`; the shift by its three ranges. -/
theorem tritOperations : Obligations.TritOperations := ⟨tritwiseOperations, tritShift⟩

end Sys2Proof.Machine
end

section
/-! Packing (01 R13, R35 to R37): nonets and trits of a value give it back, five trits fit a code, and the codes of a stream give
the stream back, padded with 0. -/

namespace Sys2Proof.Machine

open Sys2Proof Sys2Proof.Claims

/-! ## Nonets of a value (R13) -/

@[simp] theorem length_toNonets (n : Nat) (x : Int) : (toNonets n x).length = n := by
  induction n generalizing x with
  | zero => rfl
  | succ n ih => simp [toNonets, ih]

theorem getD_toNonets {n j : Nat} (hj : j < n) (x : Int) : (toNonets n x).getD j 0 = wrap 9 (shr x (9 * j)) := by
  induction n generalizing x j with
  | zero => omega
  | succ n ih =>
    cases j with
    | zero => simp [toNonets]
    | succ j =>
      have hpos : 9 + 9 * j = 9 * (j + 1) := by omega
      rw [toNonets, List.getD_cons_succ, ih (by omega), shr_shr, hpos]

theorem ofNonets_toNonets (n : Nat) (x : Int) : ofNonets (toNonets n x) = wrap (9 * n) x := by
  induction n generalizing x with
  | zero => simp [toNonets, ofNonets, wrap, half]
  | succ n ih =>
    have hsplit : 9 * (n + 1) = 9 + 9 * n := by omega
    rw [toNonets, ofNonets, ih, hsplit, wrap_add]
    rfl

theorem nonetsComeBack : NonetsComeBack := by
  intro n x hx
  refine ⟨by rw [ofNonets_toNonets, wrap_of_inTrits hx], length_toNonets n x, fun j hj => ?_⟩
  have hwidth : 9 * j + 8 + 1 - 9 * j = 9 := by omega
  rw [getD_toNonets hj, trits, hwidth]

/-! ## Trits of a value -/

@[simp] theorem length_toTrits (n : Nat) (x : Int) : (toTrits n x).length = n := by
  induction n generalizing x with
  | zero => rfl
  | succ n ih => simp [toTrits, ih]

theorem mem_toTrits {n : Nat} {x t : Int} (ht : t ∈ toTrits n x) : InTrits 1 t := by
  induction n generalizing x with
  | zero => cases ht
  | succ n ih =>
    rcases List.mem_cons.1 ht with rfl | ht
    · exact wrap_inTrits 1 x
    · exact ih ht

theorem ofTrits_toTrits (n : Nat) (x : Int) : ofTrits (toTrits n x) = wrap n x := by
  induction n generalizing x with
  | zero => simp [toTrits, ofTrits, wrap, half]
  | succ n ih =>
    rw [toTrits, ofTrits, ih, Nat.add_comm, wrap_add]
    rfl

theorem toTrits_zero (n : Nat) : toTrits n 0 = List.replicate n 0 := by
  induction n with
  | zero => rfl
  | succ n ih => rw [toTrits, zero_shr, ih]; rfl

/-- Trits come back from their value, followed by 0. -/
theorem toTrits_ofTrits {l : List Int} (hl : ∀ t ∈ l, InTrits 1 t) (k : Nat) :
    toTrits (l.length + k) (ofTrits l) = l ++ List.replicate k 0 := by
  induction l with
  | nil => simpa [ofTrits] using toTrits_zero k
  | cons t r ih =>
    obtain ⟨ht, hr⟩ := List.forall_mem_cons.1 hl
    have hlow : wrap 1 (t + 3 * ofTrits r) = t := wrap_add_mul ht _
    have habove : shr (t + 3 * ofTrits r) 1 = ofTrits r := shr_add_mul ht _
    rw [List.length_cons, Nat.add_right_comm, toTrits, ofTrits, hlow, habove, ih hr, List.cons_append]


theorem ofTrits_inTrits {l : List Int} (hl : ∀ t ∈ l, InTrits 1 t) : InTrits l.length (ofTrits l) := by
  induction l with
  | nil => simp [InTrits, ofTrits, half]
  | cons t r ih =>
    obtain ⟨ht, hr⟩ := List.forall_mem_cons.1 hl
    have htail := ih hr
    have hrange := half_add 1 r.length
    rw [List.length_cons, Nat.add_comm, InTrits, ofTrits, hrange]
    unfold InTrits at ht htail
    omega

/-! ## Codes (R35 to R37) -/

/-- The trits of a code's byte (R35). -/
def codeTrits (x : Nat) : List Int := toTrits 5 ((x : Int) - 121)

theorem half_mono {m n : Nat} (h : m ≤ n) : half m ≤ half n := by
  obtain ⟨k, rfl⟩ := Nat.exists_eq_add_of_le h
  have hpos := Int.mul_nonneg (Int.le_of_lt (three_pow_pos m)) (half_nonneg k)
  rw [half_add]
  omega

/-- Up to five trits have a value that the code's offset makes a natural. -/
theorem quintet_cast {l : List Int} (hl : ∀ t ∈ l, InTrits 1 t) (hlen : l.length ≤ 5) :
    (quintet l : Int) = ofTrits l + 121 ∧ quintet l < 243 := by
  obtain ⟨hlo, hhi⟩ := ofTrits_inTrits hl
  have hrange := half_mono hlen
  have hfive : half 5 = 121 := by decide
  rw [quintet]
  omega

theorem codeTrits_quintet {l : List Int} (hl : ∀ t ∈ l, InTrits 1 t) (hlen : l.length ≤ 5) :
    codeTrits (quintet l) = l ++ List.replicate (5 - l.length) 0 := by
  have hvalue : (quintet l : Int) - 121 = ofTrits l := by rw [(quintet_cast hl hlen).1]; omega
  rw [codeTrits, hvalue, ← toTrits_ofTrits hl, Nat.add_sub_cancel' hlen]

@[simp] theorem length_packTrits (n : Nat) (l : List Int) : (packTrits n l).length = n := by
  induction n generalizing l with
  | zero => rfl
  | succ n ih => simp [packTrits, ih]

theorem packTrits_drop (n k : Nat) (l : List Int) : (packTrits n l).drop k = packTrits (n - k) (l.drop (5 * k)) := by
  induction k generalizing n l with
  | zero => simp
  | succ k ih =>
    cases n with
    | zero => simp [packTrits]
    | succ n =>
      have hpos : 5 + 5 * k = 5 * (k + 1) := by omega
      rw [packTrits, List.drop_succ_cons, ih, List.drop_drop, hpos, Nat.add_sub_add_right]

theorem mem_packTrits_lt {n x : Nat} {l : List Int} (hl : ∀ t ∈ l, InTrits 1 t) (hx : x ∈ packTrits n l) : x < 243 := by
  induction n generalizing l with
  | zero => cases hx
  | succ n ih =>
    rcases List.mem_cons.1 hx with rfl | hx
    · exact (quintet_cast (fun t ht => hl t (List.mem_of_mem_take ht)) (List.length_take_le 5 l)).2
    · exact ih (fun t ht => hl t (List.mem_of_mem_drop ht)) hx

/-- The codes of a stream that they have room for give it back, followed by 0. -/
theorem flatMap_codeTrits_packTrits {n : Nat} {l : List Int} (hl : ∀ t ∈ l, InTrits 1 t) (hlen : l.length ≤ 5 * n) :
    (packTrits n l).flatMap codeTrits = l ++ List.replicate (5 * n - l.length) 0 := by
  induction n generalizing l with
  | zero => simp [List.eq_nil_of_length_eq_zero (Nat.le_zero.1 hlen), packTrits]
  | succ n ih =>
    have htake : ∀ t ∈ l.take 5, InTrits 1 t := fun t ht => hl t (List.mem_of_mem_take ht)
    have hdrop : ∀ t ∈ l.drop 5, InTrits 1 t := fun t ht => hl t (List.mem_of_mem_drop ht)
    have hrest : (l.drop 5).length ≤ 5 * n := by rw [List.length_drop]; omega
    rw [packTrits, List.flatMap_cons, codeTrits_quintet htake (List.length_take_le 5 l), ih hdrop hrest]
    rcases Nat.lt_or_ge l.length 5 with hshort | hfull
    · have hpad : 5 - l.length + 5 * n = 5 * (n + 1) - l.length := by omega
      rw [List.take_of_length_le (Nat.le_of_lt hshort), List.drop_of_length_le (Nat.le_of_lt hshort), List.nil_append, List.length_nil, Nat.sub_zero,
        List.append_assoc, List.replicate_append_replicate, hpad]
    · have hpad : 5 * n - (l.length - 5) = 5 * (n + 1) - l.length := by omega
      rw [List.length_take_of_le hfull, List.length_drop, Nat.sub_self, List.replicate_zero, List.append_nil,
        ← List.append_assoc, List.take_append_drop, hpad]

/-! ## Blocks (R36, R37) -/

theorem mem_flatMap_toTrits {l : List Int} {t : Int} (ht : t ∈ l.flatMap (toTrits 9)) : InTrits 1 t := by
  obtain ⟨x, _, hx⟩ := List.mem_flatMap.1 ht
  exact mem_toTrits hx

theorem length_flatMap_toTrits (l : List Int) : (l.flatMap (toTrits 9)).length = 9 * l.length := by
  induction l with
  | nil => rfl
  | cons x l ih => rw [List.flatMap_cons, List.length_append, length_toTrits, ih, List.length_cons]; omega

/-- Nonets come back from their trits, whatever follows these. -/
theorem nonetsOf_flatMap_toTrits {l : List Int} (hl : ∀ x ∈ l, InTrits 9 x) (r : List Int) :
    nonetsOf l.length (l.flatMap (toTrits 9) ++ r) = l := by
  induction l with
  | nil => rfl
  | cons x l ih =>
    obtain ⟨hx, htail⟩ := List.forall_mem_cons.1 hl
    have hlen := length_toTrits 9 x
    rw [List.length_cons, nonetsOf, List.flatMap_cons, List.append_assoc, List.take_left' hlen, List.drop_left' hlen,
      ofTrits_toTrits, wrap_of_inTrits hx, ih htail]

@[simp] theorem length_packBlock (l : List Int) : (packBlock l).length = 49 := length_packTrits 49 _

/-- The last code holds three trits, and the two that stand above them are 0 (R36). -/
theorem packBlock_drop (l : List Int) : (packBlock l).drop 48 = [quintet (((l.flatMap (toTrits 9)).drop 240).take 5)] := by
  rw [packBlock, packTrits_drop]
  rfl

theorem codesOk_packBlock {l : List Int} (hlen : l.length = 27) : codesOk (packBlock l) = true := by
  have htrits : ∀ t ∈ l.flatMap (toTrits 9), InTrits 1 t := fun _ => mem_flatMap_toTrits
  have hlast : ∀ t ∈ ((l.flatMap (toTrits 9)).drop 240).take 5, InTrits 1 t := fun t ht =>
    htrits t (List.mem_of_mem_drop (List.mem_of_mem_take ht))
  have hthree : (((l.flatMap (toTrits 9)).drop 240).take 5).length = 3 := by
    rw [List.length_take, List.length_drop, length_flatMap_toTrits, hlen]
    rfl
  have hcode : 108 ≤ quintet (((l.flatMap (toTrits 9)).drop 240).take 5) ∧
      quintet (((l.flatMap (toTrits 9)).drop 240).take 5) ≤ 134 := by
    obtain ⟨hlo, hhi⟩ := ofTrits_inTrits hlast
    have hcast := (quintet_cast hlast (by omega)).1
    have hrange : half 3 = 13 := by decide
    rw [hthree, hrange] at hlo hhi
    omega
  have hlow : ∀ x ∈ (packBlock l).take 48, x < 243 := fun x hx => mem_packTrits_lt htrits (List.mem_of_mem_take hx)
  rw [codesOk, packBlock_drop]
  simpa [List.all_eq_true] using ⟨hlow, hcode⟩

theorem unpackBlock_of_codesOk {b : List Nat} (hb : codesOk b = true) :
    unpackBlock b = some (nonetsOf 27 (b.flatMap codeTrits)) := if_pos hb

theorem unpackBlock_packBlock {l : List Int} (hlen : l.length = 27) (hl : ∀ x ∈ l, InTrits 9 x) :
    unpackBlock (packBlock l) = some l := by
  have hstream : (packBlock l).flatMap codeTrits = l.flatMap (toTrits 9) ++ List.replicate 2 0 := by
    have hbits := length_flatMap_toTrits l
    rw [hlen] at hbits
    rw [packBlock, flatMap_codeTrits_packTrits (fun _ => mem_flatMap_toTrits) (by omega), hbits]
  have hnonets : nonetsOf 27 (l.flatMap (toTrits 9) ++ List.replicate 2 0) = l := hlen ▸ nonetsOf_flatMap_toTrits hl _
  rw [unpackBlock_of_codesOk (codesOk_packBlock hlen), hstream, hnonets]

theorem packedBlocksComeBack : PackedBlocksComeBack := fun l hlen hl =>
  ⟨length_packBlock l, codesOk_packBlock hlen, unpackBlock_packBlock hlen hl⟩

/-- Settles O11: blocks by the codes of their trit stream, values by induction on the nonets. -/
theorem packingComesBack : Obligations.PackingComesBack := ⟨packedBlocksComeBack, nonetsComeBack⟩

end Sys2Proof.Machine
end

section
/-! The special cases of floating operations (01 R27; 10 R253). -/

namespace Sys2Proof.Machine

open Sys2Proof Sys2Proof.Claims

/-! ## NaN operands -/

@[simp] theorem faddV_nan_left (f : FFmt) (a : FVal) : faddV f .nan a = { enc := fNaN f } := rfl
@[simp] theorem faddV_nan_right (f : FFmt) (a : FVal) : faddV f a .nan = { enc := fNaN f } := by cases a <;> rfl
@[simp] theorem t27Mul_nan_left (a : FVal) : t27Mul .nan a = { enc := fNaN fmtT27 } := rfl
@[simp] theorem t27Mul_nan_right (a : FVal) : t27Mul a .nan = { enc := fNaN fmtT27 } := by cases a <;> rfl
@[simp] theorem fdivV_nan_left (f : FFmt) (a : FVal) : fdivV f .nan a = { enc := fNaN f } := rfl
@[simp] theorem fdivV_nan_right (f : FFmt) (a : FVal) : fdivV f a .nan = { enc := fNaN f } := by cases a <;> rfl
@[simp] theorem fsqrtV_nan (f : FFmt) : fsqrtV f .nan = { enc := fNaN f } := rfl

/-! ## Invalid operations -/

/-- The invalid result of a format that has special values. -/
theorem finvalid_t27 : finvalid fmtT27 = { enc := fNaN fmtT27, fl := { invalid := true } } := rfl

/-- `Inf - Inf`. -/
theorem faddV_inf_opposite (f : FFmt) (p : Bool) : faddV f (.inf p) (.inf (!p)) = finvalid f :=
  if_neg (by cases p <;> decide)

theorem t27Mul_zero_inf (k : Int) (p : Bool) : t27Mul (.fin 0 k) (.inf p) = finvalid fmtT27 := rfl
theorem t27Mul_inf_zero (k : Int) (p : Bool) : t27Mul (.inf p) (.fin 0 k) = finvalid fmtT27 := rfl
theorem fdivV_zero_zero (f : FFmt) (m k : Int) : fdivV f (.fin 0 m) (.fin 0 k) = finvalid f := rfl
theorem fdivV_inf_inf (f : FFmt) (p q : Bool) : fdivV f (.inf p) (.inf q) = finvalid f := rfl

theorem fsqrtV_negative (f : FFmt) {m : Int} (hm : m < 0) (k : Int) : fsqrtV f (.fin m k) = finvalid f := by
  rw [fsqrtV, if_neg (Int.ne_of_lt hm), if_pos hm]

/-! ## Division by 0, and the special encodings -/

theorem fdivV_finite_zero (f : FFmt) {m : Int} (hm : m ≠ 0) (k j : Int) :
    fdivV f (.fin m k) (.fin 0 j) = { enc := fInf f (decide (m < 0)), fl := { overflow := true } } := by
  rw [fdivV, if_pos rfl, if_neg hm]

theorem fdecode_fNaN_t27 : fdecode fmtT27 (fNaN fmtT27) = .nan := by decide
theorem fdecode_fInf_t27 (p : Bool) : fdecode fmtT27 (fInf fmtT27 p) = .inf p := by cases p <;> decide

/-- Settles O22, case by case of R27; the two special encodings are read back by evaluation. -/
theorem floatSpecialCases : Obligations.FloatSpecialCases := by
  intro a m k p
  rw [← finvalid_t27]
  exact ⟨faddV_nan_left _ a, faddV_nan_right _ a, t27Mul_nan_left a, t27Mul_nan_right a, fdivV_nan_left _ a,
    fdivV_nan_right _ a, fsqrtV_nan _, faddV_inf_opposite _ p, t27Mul_zero_inf k p, t27Mul_inf_zero k p,
    fdivV_zero_zero _ m k, fdivV_inf_inf _ p (!p), fun hm => fsqrtV_negative _ hm k,
    fun hm => fdivV_finite_zero _ hm k 0, fdecode_fNaN_t27, fdecode_fInf_t27 p⟩

end Sys2Proof.Machine
end

section
/-! Packed stores to memory (10 R266): the claim is said of every state, also of one in which a die cache's line carries marks for a
place that no line has. There the write of one block spoils the next block, which that place names, and the second lane's
element is lost. A line is three blocks (03 R76), so the state is ill-formed, but the obligation does not exclude it. -/

namespace Sys2Proof.Machine

open Sys2Proof Sys2Proof.Claims

/-! ## Properties of all entries of a table -/

theorem forall_mget {α : Type} {P : α → Prop} {d : α} (hd : P d) {m : SMap α} (hm : ∀ e ∈ m, P e.2) (k : Nat) :
    P (mget d m k) := by
  induction m with
  | nil => exact hd
  | cons e t ih =>
    obtain ⟨he, ht⟩ := List.forall_mem_cons.1 hm
    rw [mget]
    split
    · exact he
    · exact ih ht

theorem forall_mfind {α : Type} {P : α → Prop} {m : SMap α} (hm : ∀ e ∈ m, P e.2) {k : Nat} {v : α}
    (hv : mfind m k = some v) : P v := by
  induction m with
  | nil => cases hv
  | cons e t ih =>
    obtain ⟨he, ht⟩ := List.forall_mem_cons.1 hm
    rw [mfind] at hv
    split at hv
    · exact Option.some.inj hv ▸ he
    · exact ih ht hv

/-- No line held anywhere marks place `j`, and no write on its way is poisoned. -/
def noMarkAt (s : State) (j : Nat) : Bool :=
  s.dies.all (fun d => d.2.lines.all fun l => !l.2.poison.contains j) &&
  s.cores.all (fun c => c.2.l1.all fun l => !l.2.poison.contains j) &&
  s.sbs.all (fun h => h.2.held.all fun l => !l.2.poison.contains j) && s.flights.all fun f => !f.bad

theorem unmarked_of_noMarkAt {s : State} {b : Int} (h : noMarkAt s (blockIn b) = true) : Unmarked s b := by
  simp only [noMarkAt, Bool.and_eq_true, List.all_eq_true, Bool.not_eq_true', List.contains_eq_mem, decide_eq_false_iff_not] at h
  obtain ⟨⟨⟨hdies, hcores⟩, hslices⟩, hflights⟩ := h
  refine ⟨fun d => ?_, fun c l hl => ?_, fun l hl => ?_, fun f hf _ => hflights f hf⟩
  · have hlines : ∀ e ∈ (getDie s d).lines, blockIn b ∉ e.2.poison :=
      forall_mget (P := fun k : Die => ∀ e ∈ k.lines, blockIn b ∉ e.2.poison) (by simp) hdies d
    exact forall_mget (P := fun c : CLine => blockIn b ∉ c.poison) (by simp) hlines _
  · have hl1 : ∀ e ∈ (getCore s c).l1, blockIn b ∉ e.2.poison :=
      forall_mget (P := fun k : Core => ∀ e ∈ k.l1, blockIn b ∉ e.2.poison) (by simp) hcores c
    exact forall_mfind (P := fun l : L1Line => blockIn b ∉ l.poison) hl1 hl
  · have hheld : ∀ e ∈ (getStack s (lineHome s (lineOf b))).held, blockIn b ∉ e.2.poison :=
      forall_mget (P := fun k : Stack => ∀ e ∈ k.held, blockIn b ∉ e.2.poison) (by simp) hslices _
    exact forall_mfind (P := fun l : SLine => blockIn b ∉ l.poison) hheld hl

/-- The conditions of a unit of plain memory, as a test of a state that can be run. -/
def plainHere (s : State) (u : Machine.PUnit) : Bool :=
  decide (0 ≤ u.pa) && decide (1 ≤ frameRegion (frameOf u.pa)) && decide (frameRegion (frameOf u.pa) ≤ 3) &&
  !lineClash s (u.pa / 27) u.attr && noMarkAt s (blockIn (u.pa / 27)) &&
  (atomRead s (atomAt s (u.pa / 27)) u.attr.key u.attr.binary).isOk

theorem plainUnit_of_plainHere {s : State} {u : Machine.PUnit} (h : plainHere s u = true) : PlainUnit s u := by
  simp only [plainHere, Bool.and_eq_true, decide_eq_true_eq, Bool.not_eq_true'] at h
  obtain ⟨⟨⟨⟨⟨hpos, hlow⟩, hhigh⟩, hclash⟩, hmark⟩, hread⟩ := h
  exact ⟨hpos, hlow, hhigh, hclash, unmarked_of_noMarkAt hmark, hread⟩

/-! ## The state

Two lanes store an element of five trits each, through user addresses on both sides of 3^27, so that each lane's translation
walks the tables afresh. The pages there are frames 20 and 21: the first lane's block is the last of the one, the second lane's
is the first of the other, hence in the next line. -/

/-- Frame `k` of region +1, and the number of its block `j`. -/
def strayFrame (k : Nat) : Int := 3 ^ 19 + k
def strayKey (k j : Nat) : Nat := (729 * strayFrame k).toNat + j
/-- An atom that holds the nonets given, then 0. -/
def strayAtom (l : List Int) : Atom := { payload := packBlock ((l ++ List.replicate 27 0).take 27) }
/-- A present entry that names frame `k` (R55, R58). -/
def strayEntry (k : Nat) (perms : Int) : List Int := toNonets 6 (27 * strayFrame k + 3 ^ 27 + perms)
/-- One table of each level, at frames 0, 6 and 12, and the two blocks to write. Entries stand at both ends of a table's six
frames; the rest of the spans of the two leaves, which a walk looks at, is not present. -/
def strayMemory : SMap Atom :=
  let readWrite : Int := 3 ^ 28 + 3 ^ 29
  let last (e : List Int) : Atom := strayAtom (List.replicate 21 0 ++ e)
  [(strayKey 0 0, strayAtom (strayEntry 6 0 ++ strayEntry 6 0)), (strayKey 6 0, strayAtom (strayEntry 12 0)),
    (strayKey 11 728, last (strayEntry 12 0)), (strayKey 12 0, strayAtom (strayEntry 21 readWrite))] ++
  ((List.range 17).map fun j => (strayKey 12 (j + 1), strayAtom [])) ++
  ((List.range 17).map fun j => (strayKey 17 (j + 711), strayAtom [])) ++
  [(strayKey 17 728, last (strayEntry 20 readWrite)), (strayKey 20 728, strayAtom []), (strayKey 21 0, strayAtom [])]

/-- `a1` is the window of the two blocks; `v1` gives the lanes the elements 0 and 48, the first of each block (R266). -/
def strayRegs : Regs :=
  { super := true, userOk := true, uroot := strayFrame 0, v := [(1, .f [0, 48])]
    a := [(1, { ptr := 3 ^ 27 - 27, base := 3 ^ 27 - 27, limit := 3 ^ 27 + 26, store := true })] }
def strayGroup : Group :=
  { items := [(0, { x := 0, y := 0, z := 0 }), (1, { x := 1, y := 0, z := 0 })], active := [0, 1], r := strayRegs }
def strayIssue : Issue := { core := 0, who := .group 0, pc := 0, guard := [0, 1] }
/-- The block of each lane. -/
def strayBlock (k : Nat) : Int := 729 * strayFrame 20 + 728 + k
/-- The first lane's line in the die cache holds nothing, but is marked dirty and poisoned at place 3, which is the second lane's
block. -/
def strayState : State :=
  updDie { setGroup {} 0 0 strayGroup with mem := strayMemory, count1 := 1000, issue := some strayIssue } 0 fun d =>
    { d with lines := [(lineOf (strayBlock 0), { dirty := [3], poison := [3] })] }

/-! ## The access passes its checks -/

def strayWindow : AReg := getA strayState strayIssue 1
def strayLanes : List Lane := elemLanes strayState strayIssue strayGroup strayWindow (.reg 1) 0 5
def strayRun : List Checked × List LaneEntry × State :=
  checkLanes (xlOf strayIssue.core (srcRegs strayState strayIssue)) (clusterOf strayIssue.core) strayWindow .store false
    strayLanes strayState
/-- The unit of memory of each lane, and its checked access. -/
def strayUnit (k : Nat) : Machine.PUnit := { pa := 27 * strayBlock k, attr := { via := .core 0 } }
def strayAccess (k : Nat) : Checked :=
  { lane := { slot := k, e := 3 ^ 27 - 27 + 27 * k, n := 1 }, place := .mem [strayUnit k] }

theorem stray_groupRuns : GroupRuns strayState strayIssue 0 strayGroup := ⟨rfl, by decide, rfl, by decide⟩

theorem stray_accesses : strayRun.1 = [strayAccess 0, strayAccess 1] ∧ strayRun.2.1 = [] := by decide +kernel

theorem stray_clear : Clear strayState strayIssue strayGroup strayWindow .store false (fun _ => true) strayLanes
    [strayAccess 0, strayAccess 1] strayRun.2.2 := by
  obtain ⟨hpass, hfail⟩ := stray_accesses
  have hrun : strayRun = ([strayAccess 0, strayAccess 1], [], strayRun.2.2) := Prod.ext hpass (Prod.ext hfail rfl)
  exact ⟨fun _ _ => rfl, hrun, by decide, .inl rfl⟩

theorem stray_plainHere :
    plainHere strayRun.2.2 (strayUnit 0) = true ∧ plainHere strayRun.2.2 (strayUnit 1) = true := by decide +kernel

/-! ## The second lane's element is lost -/

/-- A nonet of memory after an instruction that completes. -/
def nonetAfter (o : Host.Outcome State Fault Refusal) (pa : Int) : Option Int :=
  match o with
  | .next t => unitAt t 0 false pa
  | _ => none

theorem stray_store_lost : nonetAfter (exec (.stpk (.reg 1) (.imm 1) 5 1 0) strayState) (27 * strayBlock 1) = some 0 := by
  decide +kernel

theorem stray_elemPos : elemPos 5 (elemNum strayState strayIssue strayGroup (.reg 1) 0 1) = 0 := by decide

theorem not_packedStoreMemory : ¬ PackedStoreMemory := by
  intro hclaim
  have hplain : ∀ k ∈ [strayAccess 0, strayAccess 1], ∃ u us, k.place = .mem (u :: us) ∧ u.pa / 27 = strayBlock k.lane.slot ∧
      PlainUnit strayRun.2.2 u ∧ u.attr = { via := .core 0 } := by
    obtain ⟨hfirst, hsecond⟩ := stray_plainHere
    exact List.forall_mem_cons.2 ⟨⟨strayUnit 0, [], rfl, by decide, plainUnit_of_plainHere hfirst, rfl⟩,
      List.forall_mem_singleton.2 ⟨strayUnit 1, [], rfl, by decide, plainUnit_of_plainHere hsecond, rfl⟩⟩
  obtain ⟨r, hr, hlast, -⟩ := hclaim (.reg 1) (.imm 1) 5 1 0 strayState strayIssue 0 strayGroup _ _ _ strayBlock
    (by decide) (by decide) stray_groupRuns (by decide) stray_clear rfl (.inl rfl) hplain
  have hwritten := hlast 1 [0] [] rfl (by simp) 0 (by decide)
  have hlost : unitAt r 0 false (27 * strayBlock 1) = some 0 := by
    have hnonet := stray_store_lost
    rwa [show exec (.stpk (.reg 1) (.imm 1) 5 1 0) strayState = .next r from hr] at hnonet
  simp only [stray_elemPos, Nat.add_zero, Nat.zero_div, Int.natCast_zero, Int.add_zero, hlost] at hwritten
  exact absurd hwritten (by decide)

/-- Refutes O27: the write of the first lane's block takes the stray mark for a dirty, poisoned copy of the second lane's block and
moves it to the home slice; the second write then meets poison and is discarded, so that the second lane's element, 1, is not in
memory. -/
theorem not_packedResult : ¬ Obligations.PackedResult := fun ⟨_, _, _, hmemory⟩ => not_packedStoreMemory hmemory

end Sys2Proof.Machine
end

section
/-! Completion of search queries (05 R123, R126, R127): the claim counts the results asked for from 0, but is said of every query
that has ended with results, also of one whose packet asks for a negative number of them. Its record then holds that number where the
claim has 0. Acceptance refuses such a packet (R119, `packetOk`), so the query is ill-formed, but the obligation does not exclude it. -/

namespace Sys2Proof.Machine

open Sys2Proof Sys2Proof.Claims

/-! ## The state

A query that has ended with status 1 and an empty working list. Its record goes to the user address 3^27, which the tables of
`strayMemory` map to the first block of frame 21. -/

/-- A packet with the record's pointer 3^27 that asks for -1 results. -/
def deficitPacket : List Int := blockOf (3 ^ 27 * 3 ^ 108 - 3 ^ 171)
def deficitQuery : Query :=
  { core := 0, ctx := 0, team := 1, lid := 1, addr := 0, st := .ended, userOk := true, uroot := strayFrame 0, seq := 1
    status := 1, packet := deficitPacket }
def deficitTeam : Team := { queries := [(1, 0)], outstanding := 1 }
def deficitState : State :=
  { mem := strayMemory, count1 := 1000, teams := [(1, deficitTeam)], qrys := [(8, deficitQuery)] }

theorem deficit_asked : qPkt deficitQuery 179 171 = -1 := by decide +kernel

theorem deficit_packet : deficitQuery.packet ≠ [] ∧ qPkt deficitQuery 143 108 % 27 = 0 := by decide +kernel

/-! ## The record that the claim expects, and the one that is written -/

/-- The number of results in the completion record at the first block of frame 21 (R127). -/
def recordedCount (m : SMap Atom) : Option Int :=
  (mfind m (strayKey 21 0)).bind fun a => (unpackBlock a.payload).map fun l => trits (ofNonets l) 44 36

/-- The number of results that a completion records. -/
def countAfter (o : Host.Outcome State Fault Refusal) : Option Int :=
  match o with
  | .next t => recordedCount t.mem
  | _ => none

/-- The state after the write of a record with no results. -/
def emptyRecorded : State := (recordWrite deficitState deficitQuery 0).2

theorem deficit_record_written : recordWrite deficitState deficitQuery 0 = (none, emptyRecorded) :=
  Prod.ext (by decide +kernel) rfl

theorem emptyRecorded_frame : emptyRecorded.qrys = deficitState.qrys ∧ emptyRecorded.teams = deficitState.teams := by
  decide +kernel

theorem emptyRecorded_count : recordedCount emptyRecorded.mem = some 0 := by decide +kernel

theorem deficit_completion_count : countAfter (exec (.queryCompletion 8) deficitState) = some (-1) := by decide +kernel

theorem not_queriesComplete : ¬ QueriesComplete := by
  intro ⟨hcompletes, _⟩
  obtain ⟨hpacket, haligned⟩ := deficit_packet
  obtain ⟨hqueries, hteams⟩ := emptyRecorded_frame
  obtain ⟨_, hfirst⟩ := hcompletes deficitState 8 deficitQuery deficitTeam rfl rfl rfl
  obtain ⟨hresults, _⟩ := hfirst (by decide) rfl hpacket haligned deficitState emptyRecorded hqueries hteams
  rw [deficit_asked] at hresults
  obtain ⟨t, hexec, _, hmem, _⟩ := hresults (.inr ⟨by decide, rfl⟩) deficit_record_written
  have hcount := deficit_completion_count
  rw [hexec, countAfter, hmem, emptyRecorded_count] at hcount
  exact absurd hcount (by decide)

/-- Refutes O56: a query that has ended with status 1 and asks for -1 results has -1 in its record, where the claim has 0. -/
theorem not_searchEvents : ¬ Obligations.SearchEvents := fun ⟨_, _, _, _, _, hcomplete⟩ => not_queriesComplete hcomplete

end Sys2Proof.Machine
end
